-- ==== Sys2Proof/Word.lean ====
section
/-! DEFINITION. The word types of the BX-40 (R3, R149) and the one sparse store used by State: a list
of (key, value) pairs. What an unlisted key holds is fixed where the store is read. -/

namespace Sys2Proof

abbrev Word := BitVec 64
abbrev Byte := BitVec 8
/-- A 32-bit element slot of a vector register (R6). -/
abbrev Slot := BitVec 32

/-- A sparse store by key. -/
abbrev Sparse (α : Type) := List (Nat × α)

end Sys2Proof
end

