-- ==== Sys2Proof/Config.lean ====
section
/-! DEFINITION. What the spec leaves open: constants without a body. Nothing in Lean can evaluate them
or prove a value of them. -/

namespace Sys2Proof.Config
open Sys2Proof

/-- A free 64-bit value; each use draws a fresh one by the counter `free` of State (log 2). -/
opaque freeBits : Nat → Word
/-- A free choice among alternatives, drawn the same way (log 2). -/
opaque freeNat : Nat → Nat
/-- Cycles of core g's clock, and 100 MHz ticks, that pass in step n (R149, log 2). -/
opaque cycleGap : Nat → Nat → Nat
opaque timeGap : Nat → Nat
/-- Steps from the issue of a handle's writer in step n to its last block write (R287, log 115). -/
opaque writeTime : Nat → Nat

/-! Boot and security (log 62): the part's own data, the randomness of a signature, and what training and flash reads come to
at a step. -/

/-- The randomness of the signature made at step n. -/
opaque signRand : Nat → List Byte
/-- Dvorlia's root public key in the boot ROM. -/
opaque rootKey : List Byte
/-- The PUF key of this part, and whether a boot at step n rebuilds it with the helper data that the flash holds. -/
opaque pufKey : List Byte
opaque pufRebuilds : Nat → List Byte → Bool
/-- Whether the flash gives the replay-protected area back as it was written, at step n. -/
opaque replayGood : Nat → Bool
/-- The factory content of the flash, and whether a read of a firmware slot fails at step n. -/
opaque flash0 : Nat → Byte
opaque flashFails : Nat → Nat → Bool
/-- The fatal status of boot stage 3 at step n, 0 to 4 (R449). -/
opaque stage3 : Nat → Nat
opaque monitorDigest : List Byte
opaque serial : Word
/-- The HBM stack (mod 8) that holds the journal's first copy (R391). -/
opaque journalStack : Nat

end Sys2Proof.Config
end

