-- ==== Sys2Proof/Syntax.lean ====
section
/-! DEFINITION. The instructions and steps of the BX-40: one constructor for each row of
spec/opcode_table.json, with the operands its encoding (R127, R129, R134, R139, R398) or its event
carries. What an operand may hold is checked in WellFormed; what a step does is in Machine. -/

namespace Sys2Proof

/-- A 5-bit register number: scalar, vector, mask, billet, handle, stream or window (R108). -/
abbrev Reg := BitVec 5

/-- The fields of a T48 instruction above op and grp (R134). -/
structure T48 where
  aux : BitVec 8
  rep : BitVec 2
  fb : Bool
  fa : Bool
  gm : BitVec 3
  b : Reg
  a : Reg
  d : Reg
  deriving DecidableEq, Repr

/-- The fields of a B64 instruction above op (R139). -/
structure B64 where
  imm : BitVec 24
  fmt : BitVec 4
  pneg : Bool
  pred : BitVec 3
  c : BitVec 6
  b : BitVec 6
  a : BitVec 6
  d : BitVec 6
  deriving DecidableEq, Repr

/-- The host's AtomicOps (R424). -/
inductive HostAtomic where
  | fetchAdd | swap | cas
  deriving DecidableEq, Repr

/-- What a peer may ask of a home slice of this device (R433); addresses are this device's physical ones. -/
inductive PeerReq where
  | load (pa n : Nat)
  | store (pa : Nat) (bytes : List (BitVec 8))
  | amo (op : BitVec 3) (signed : Bool) (pa n : Nat) (v : BitVec 64)
  | famo (bf16 : Bool) (pa : Nat) (v : BitVec 32)
  deriving DecidableEq, Repr

/-- The parts whose failure the work guarantee speaks of (R392). -/
inductive Part where
  | core (g : Nat)
  | die (d : Nat)
  | stack (k : Nat)
  | port (p : Nat)
  deriving DecidableEq, Repr

/-- One constructor for each row of the opcode table, in its order. -/
inductive Instr where
  | lui (rd : Reg) (imm : BitVec 20)
  | auipc (rd : Reg) (imm : BitVec 20)
  | jal (rd : Reg) (imm : BitVec 20)
  | jalr (rd rs1 : Reg) (imm : BitVec 12)
  | beq (rs1 rs2 : Reg) (imm : BitVec 12)
  | bne (rs1 rs2 : Reg) (imm : BitVec 12)
  | blt (rs1 rs2 : Reg) (imm : BitVec 12)
  | bge (rs1 rs2 : Reg) (imm : BitVec 12)
  | bltu (rs1 rs2 : Reg) (imm : BitVec 12)
  | bgeu (rs1 rs2 : Reg) (imm : BitVec 12)
  | lb (rd rs1 : Reg) (imm : BitVec 12)
  | lh (rd rs1 : Reg) (imm : BitVec 12)
  | lw (rd rs1 : Reg) (imm : BitVec 12)
  | ld (rd rs1 : Reg) (imm : BitVec 12)
  | lbu (rd rs1 : Reg) (imm : BitVec 12)
  | lhu (rd rs1 : Reg) (imm : BitVec 12)
  | lwu (rd rs1 : Reg) (imm : BitVec 12)
  | sb (rs1 rs2 : Reg) (imm : BitVec 12)
  | sh (rs1 rs2 : Reg) (imm : BitVec 12)
  | sw (rs1 rs2 : Reg) (imm : BitVec 12)
  | sd (rs1 rs2 : Reg) (imm : BitVec 12)
  | addi (rd rs1 : Reg) (imm : BitVec 12)
  | slti (rd rs1 : Reg) (imm : BitVec 12)
  | sltiu (rd rs1 : Reg) (imm : BitVec 12)
  | xori (rd rs1 : Reg) (imm : BitVec 12)
  | ori (rd rs1 : Reg) (imm : BitVec 12)
  | andi (rd rs1 : Reg) (imm : BitVec 12)
  | slli (rd rs1 : Reg) (sh : BitVec 6)
  | srli (rd rs1 : Reg) (sh : BitVec 6)
  | srai (rd rs1 : Reg) (sh : BitVec 6)
  | add (rd rs1 rs2 : Reg)
  | sub (rd rs1 rs2 : Reg)
  | sll (rd rs1 rs2 : Reg)
  | slt (rd rs1 rs2 : Reg)
  | sltu (rd rs1 rs2 : Reg)
  | xor (rd rs1 rs2 : Reg)
  | srl (rd rs1 rs2 : Reg)
  | sra (rd rs1 rs2 : Reg)
  | or (rd rs1 rs2 : Reg)
  | and (rd rs1 rs2 : Reg)
  | addiw (rd rs1 : Reg) (imm : BitVec 12)
  | slliw (rd rs1 : Reg) (sh : BitVec 5)
  | srliw (rd rs1 : Reg) (sh : BitVec 5)
  | sraiw (rd rs1 : Reg) (sh : BitVec 5)
  | addw (rd rs1 rs2 : Reg)
  | subw (rd rs1 rs2 : Reg)
  | sllw (rd rs1 rs2 : Reg)
  | srlw (rd rs1 rs2 : Reg)
  | sraw (rd rs1 rs2 : Reg)
  | fence (fm pr su : BitVec 4) (rd rs1 : Reg)
  | fenceTso (rd rs1 : Reg)
  | ecall
  | ebreak
  | mul (rd rs1 rs2 : Reg)
  | mulh (rd rs1 rs2 : Reg)
  | mulhsu (rd rs1 rs2 : Reg)
  | mulhu (rd rs1 rs2 : Reg)
  | div (rd rs1 rs2 : Reg)
  | divu (rd rs1 rs2 : Reg)
  | rem (rd rs1 rs2 : Reg)
  | remu (rd rs1 rs2 : Reg)
  | mulw (rd rs1 rs2 : Reg)
  | divw (rd rs1 rs2 : Reg)
  | divuw (rd rs1 rs2 : Reg)
  | remw (rd rs1 rs2 : Reg)
  | remuw (rd rs1 rs2 : Reg)
  | lrW (aq rl : Bool) (rd rs1 : Reg)
  | scW (aq rl : Bool) (rd rs1 rs2 : Reg)
  | lrD (aq rl : Bool) (rd rs1 : Reg)
  | scD (aq rl : Bool) (rd rs1 rs2 : Reg)
  | amoswapW (aq rl : Bool) (rd rs1 rs2 : Reg)
  | amoswapD (aq rl : Bool) (rd rs1 rs2 : Reg)
  | amoaddW (aq rl : Bool) (rd rs1 rs2 : Reg)
  | amoaddD (aq rl : Bool) (rd rs1 rs2 : Reg)
  | amoxorW (aq rl : Bool) (rd rs1 rs2 : Reg)
  | amoxorD (aq rl : Bool) (rd rs1 rs2 : Reg)
  | amoandW (aq rl : Bool) (rd rs1 rs2 : Reg)
  | amoandD (aq rl : Bool) (rd rs1 rs2 : Reg)
  | amoorW (aq rl : Bool) (rd rs1 rs2 : Reg)
  | amoorD (aq rl : Bool) (rd rs1 rs2 : Reg)
  | amominW (aq rl : Bool) (rd rs1 rs2 : Reg)
  | amominD (aq rl : Bool) (rd rs1 rs2 : Reg)
  | amomaxW (aq rl : Bool) (rd rs1 rs2 : Reg)
  | amomaxD (aq rl : Bool) (rd rs1 rs2 : Reg)
  | amominuW (aq rl : Bool) (rd rs1 rs2 : Reg)
  | amominuD (aq rl : Bool) (rd rs1 rs2 : Reg)
  | amomaxuW (aq rl : Bool) (rd rs1 rs2 : Reg)
  | amomaxuD (aq rl : Bool) (rd rs1 rs2 : Reg)
  | csrrw (rd rs1 : Reg) (csr : BitVec 12)
  | csrrs (rd rs1 : Reg) (csr : BitVec 12)
  | csrrc (rd rs1 : Reg) (csr : BitVec 12)
  | csrrwi (rd : Reg) (uimm : BitVec 5) (csr : BitVec 12)
  | csrrsi (rd : Reg) (uimm : BitVec 5) (csr : BitVec 12)
  | csrrci (rd : Reg) (uimm : BitVec 5) (csr : BitVec 12)
  | fenceI (rd rs1 : Reg) (imm : BitVec 12)
  | sret
  | wfi
  | sfenceVma (rs1 rs2 : Reg)
  | vfaddK (vs : Reg)
  | vfsubK (vs : Reg)
  | vfmulK (vs : Reg)
  | vfmaK (vs vt : Reg)
  | vfmaxK (vs : Reg)
  | vfminK (vs : Reg)
  | vaddK (vs : Reg)
  | vsubK (vs : Reg)
  | vandK (vs : Reg)
  | vorK (vs : Reg)
  | vxorK (vs : Reg)
  | vsllK (n : BitVec 5)
  | vsraK (n : BitVec 5)
  | vmvK (vs : Reg)
  | vslideupK (n : BitVec 5)
  | vslidednK (n : BitVec 5)
  | vsetl (o : T48)
  | vsetlr (o : T48)
  | vloopSeq (o : T48)
  | vloopInd (o : T48)
  | vnext (o : T48)
  | vsidx (o : T48)
  | vidx (o : T48)
  | lpset (o : T48)
  | wbase (o : T48)
  | vfetch (o : T48)
  | vfetchr (o : T48)
  | uwait (o : T48)
  | ufstat (o : T48)
  | uresume (o : T48)
  | ukill (o : T48)
  | vlinkin (o : T48)
  | vlinkout (o : T48)
  | vfadd (o : T48)
  | vfsub (o : T48)
  | vfmul (o : T48)
  | vfma (o : T48)
  | vfms (o : T48)
  | vfnma (o : T48)
  | vfmin (o : T48)
  | vfmax (o : T48)
  | vfdiv (o : T48)
  | vfsqrt (o : T48)
  | vfrcp (o : T48)
  | vfrsq (o : T48)
  | vfexp2 (o : T48)
  | vflog2 (o : T48)
  | vfabs (o : T48)
  | vfneg (o : T48)
  | vfsgn (o : T48)
  | vfcvt (o : T48)
  | vfclass (o : T48)
  | vfeq (o : T48)
  | vflt (o : T48)
  | vfle (o : T48)
  | vadd (o : T48)
  | vsub (o : T48)
  | vmul (o : T48)
  | vmulh (o : T48)
  | vmulhn (o : T48)
  | vand (o : T48)
  | vor (o : T48)
  | vxor (o : T48)
  | vsll (o : T48)
  | vsrl (o : T48)
  | vsra (o : T48)
  | vmin (o : T48)
  | vmax (o : T48)
  | vminn (o : T48)
  | vmaxn (o : T48)
  | vseq (o : T48)
  | vslt (o : T48)
  | vsltn (o : T48)
  | vmerge (o : T48)
  | vmvs (o : T48)
  | vmvx (o : T48)
  | vslideup (o : T48)
  | vslidedn (o : T48)
  | vrgather (o : T48)
  | vcompress (o : T48)
  | vexpand (o : T48)
  | vbcast (o : T48)
  | vxchg (o : T48)
  | vmv (o : T48)
  | vfredo (o : T48)
  | vfredt (o : T48)
  | vfredmax (o : T48)
  | vfredmin (o : T48)
  | vredsum (o : T48)
  | vredmax (o : T48)
  | vredmin (o : T48)
  | mand (o : T48)
  | mor (o : T48)
  | mxor (o : T48)
  | mandn (o : T48)
  | mnot (o : T48)
  | mpopc (o : T48)
  | mfirst (o : T48)
  | mset (o : T48)
  | mclr (o : T48)
  | vld (o : T48)
  | vst (o : T48)
  | vlds (o : T48)
  | vsts (o : T48)
  | vldx (o : T48)
  | vstxO (o : T48)
  | vstxU (o : T48)
  | vgl (o : T48)
  | vsc (o : T48)
  | vcappend (o : T48)
  | vamoadd (o : T48)
  | vamofadd (o : T48)
  | vamomin (o : T48)
  | vamomax (o : T48)
  | vamoand (o : T48)
  | vamoor (o : T48)
  | vamoxor (o : T48)
  | vamoswap (o : T48)
  | sbind (o : T48)
  | sunbind (o : T48)
  | ssync (o : T48)
  | sskip (o : T48)
  | spos (o : T48)
  | wbind (o : T48)
  | wunbind (o : T48)
  | winval (o : T48)
  | wquery (o : T48)
  | trow (o : T48)
  | tcol (o : T48)
  | tld (o : T48)
  | tst (o : T48)
  | tzero (o : T48)
  | tfull (o : T48)
  | tempty (o : T48)
  | mma (o : T48)
  | mmas (o : T48)
  | pload (o : T48)
  | pzero (o : T48)
  | mscl (o : T48)
  | msync (o : T48)
  | mwait (o : T48)
  | czero (o : T48)
  | cacc (o : T48)
  | cread (o : T48)
  | cdrain (o : T48)
  | cwait (o : T48)
  | cquery (o : T48)
  | gld (o : T48)
  | gsc (o : T48)
  | kvld (o : T48)
  | kvst (o : T48)
  | kvfork (o : T48)
  | fenceRel (o : T48)
  | fenceAcq (o : T48)
  | fenceSc (o : T48)
  | lsync (o : T48)
  | pwait (o : T48)
  | ppt (o : T48)
  | ubar (o : T48)
  | msig (o : T48)
  | mwaitv (o : T48)
  | kend (o : T48)
  | ebatch (o : T48)
  | cpy (o : T48)
  | ewait (o : T48)
  | uiset (o : T48)
  | uiret (o : T48)
  | uimask (o : T48)
  | qput (o : T48)
  | qtail (o : T48)
  | qwait (o : T48)
  | bkset (o : T48)
  | hcallCancel (o : T48)
  | hcallPreempt (o : T48)
  | hcallOther (o : T48)
  | xsave (o : T48)
  | xrest (o : T48)
  | mfset (o : T48)
  | vrstset (o : T48)
  | b64Add (o : B64)
  | b64Sub (o : B64)
  | b64Mul (o : B64)
  | b64Mulh (o : B64)
  | b64And (o : B64)
  | b64Or (o : B64)
  | b64Xor (o : B64)
  | b64Shl (o : B64)
  | b64Shr (o : B64)
  | b64Sra (o : B64)
  | b64Min (o : B64)
  | b64Max (o : B64)
  | b64Li (o : B64)
  | b64Fadd (o : B64)
  | b64Fsub (o : B64)
  | b64Fmul (o : B64)
  | b64Fma (o : B64)
  | b64Fmin (o : B64)
  | b64Fmax (o : B64)
  | b64Fdiv (o : B64)
  | b64Frcp (o : B64)
  | b64Fsqrt (o : B64)
  | b64Fcvt (o : B64)
  | b64Seq (o : B64)
  | b64Slt (o : B64)
  | b64Sltn (o : B64)
  | b64Feq (o : B64)
  | b64Flt (o : B64)
  | b64Fle (o : B64)
  | b64Pand (o : B64)
  | b64Por (o : B64)
  | b64Pnot (o : B64)
  | b64Sel (o : B64)
  | b64Ld (o : B64)
  | b64St (o : B64)
  | b64Amoadd (o : B64)
  | b64Famoadd (o : B64)
  | b64Lsend (o : B64)
  | b64Lrecv (o : B64)
  | b64Stop (o : B64)
  | b64Next (o : B64)
  | b64Nextif (o : B64)
  | b64Nop (o : B64)
  | crillLi (qd : BitVec 4) (imm : BitVec 16)
  | crillLhi (qd : BitVec 4) (imm : BitVec 16)
  | crillAddi (qd qa : BitVec 4) (imm : BitVec 16)
  | crillAdd (qd qa : BitVec 4)
  | crillSub (qd qa : BitVec 4)
  | crillAnd (qd qa : BitVec 4)
  | crillOr (qd qa : BitVec 4)
  | crillXor (qd qa : BitVec 4)
  | crillAndi (qd qa : BitVec 4) (imm : BitVec 16)
  | crillShl (qd qa : BitVec 4) (n : BitVec 6)
  | crillShr (qd qa : BitVec 4) (n : BitVec 6)
  | crillMaxu (qd qa : BitVec 4)
  | crillMinu (qd qa : BitVec 4)
  | crillExt (qd qa : BitVec 4) (lsb wd : BitVec 6)
  | crillIns (qd qa : BitVec 4) (lsb wd : BitVec 6)
  | crillLdp (qd : BitVec 4) (imm : BitVec 16)
  | crillStp (qd : BitVec 4) (imm : BitVec 16)
  | crillLds (qd : BitVec 4) (imm : BitVec 16)
  | crillSts (qd : BitVec 4) (imm : BitVec 16)
  | crillLdt (qd qa : BitVec 4) (t : BitVec 2)
  | crillBeq (qd qa : BitVec 4) (imm : BitVec 16)
  | crillBne (qd qa : BitVec 4) (imm : BitVec 16)
  | crillBltu (qd qa : BitVec 4) (imm : BitVec 16)
  | crillBgeu (qd qa : BitVec 4) (imm : BitVec 16)
  | crillJ (imm : BitVec 16)
  | crillRep (qd : BitVec 4) (n len : BitVec 8)
  | crillRdc (qd qa : BitVec 4)
  | crillSigc (qa : BitVec 4) (imm : BitVec 16)
  | crillSetc (qd qa : BitVec 4)
  | crillWaitc (qd qa : BitVec 4)
  | crillCancel (qa : BitVec 4) (lvl : BitVec 2)
  | crillPsnFail
  | crillPsnSkip
  | crillPsnPlanes (p : BitVec 4)
  | crillWeld (w : BitVec 1)
  | crillEnd
  | crillEndCancel
  | crillTime (qd : BitVec 4)
  | crillIdx (qd : BitVec 4)
  | crillRerun (job q : Nat)
  | hostDoorbell (job : Nat) (v : BitVec 64)
  | acceptReexamine (job q : Nat)
  | queueSlotGrant
  | packetTake (job q : Nat)
  | earlyStart (job q : Nat)
  | unitPlace (job q : Nat)
  | unitResume (k : Nat)
  | launchComplete (job q : Nat)
  | phaseBarrierComplete (job q : Nat)
  | partitionChange (core : Nat)
  | indStripTake (hart slot : Nat)
  | streamPrefetch (hart sc : Nat)
  | streamDrain (hart sc : Nat)
  | bankSwitchDeferred (cl bank : Nat)
  | drainComplete (core h : Nat)
  | engineCommandRun (hart k : Nat)
  | engineCommandComplete (hart k : Nat)
  | uisetWatchFire (hart : Nat)
  | userInterruptEntry (hart : Nat)
  | supervisorInterrupt (hart : Nat)
  | msFaultReport (core : Nat)
  | breakpointMatch (hart m : Nat)
  | forcedPreemption (hart : Nat)
  | checkpointPreempt (hart : Nat)
  | temperWindow (core : Nat)
  | clockStepChange (die : Nat) (step : BitVec 2)
  | patrolRead (err : BitVec 2)
  | ceRecordFlush (k : Nat)
  | traceSample (hart : Nat)
  | traceDropRecord
  | migrationDoorbell (v : BitVec 64)
  | migratePage (k rounds : Nat)
  | migrateKvBlock (k rounds : Nat)
  | hostRead (pa n : Nat)
  | hostWrite (pa : Nat) (bytes : List (BitVec 8))
  | hostAtomic (op : HostAtomic) (pa n : Nat) (v cmp : BitVec 64)
  | peerRequest (peer : Nat) (req : PeerReq)
  | chainFlit (port : Nat) (good : Bool)
  | chainPortDown (port : Nat)
  | hostCancel (job : Nat) (w0 w1 : BitVec 64)
  | jobCreate (job : Nat)
  | jobEnd (job : Nat)
  | jobCancel (job : Nat)
  | extentGrant (k : Nat)
  | extentReleaseNotice (k : Nat)
  | extentForcedRelease (k : Nat)
  | extentReleaseComplete (k : Nat)
  | mbCert
  | mbAttest
  | mbInstall (slot : BitVec 8)
  | mbExtend (k : BitVec 8)
  | mbReset
  | debugSessionOpen (pa : BitVec 64)
  | debugSessionClose
  | debugSessionExpiry
  | debugDump (cmd : BitVec 64)
  | debugResume (cmd : BitVec 64)
  | fenceDieWrite (v : BitVec 64)
  | fenceCoreWrite (k : Nat) (v : BitVec 64)
  | fenceClusterWrite (k : Nat) (v : BitVec 64)
  | temperWrite (v : BitVec 64)
  | trctlWrite (v : BitVec 64)
  | scrubctlWrite (v : BitVec 64)
  | stallClear (v : BitVec 64)
  | registerWrite (off : Nat) (v : BitVec 64)
  | coldReset
  | warmReset
  | vfFlr (vf : Nat)
  | hearthWatchdog
  | quenchLevel1
  | quenchLevel2
  | partFailure (part : Part)
  | classQueueDrain (hart cls : Nat)
  | illegalInstruction (bits : BitVec 64)
  | instructionFetchFault (cause : Nat) (addr : BitVec 64)
  | pagerReturn (job : Nat) (pages : List (BitVec 64))
  | kvPoolRefill (job : Nat)
  | traceLaneTraining (lane : Nat) (up : Bool)
  | hostLinkTraining (gen lanes : Nat) (cxl : Bool)
  deriving DecidableEq, Repr

end Sys2Proof
end

