-- ==== Sys2Proof/Machine/Shapes.lean ====
section
/-! DEFINITION. The fields each instruction uses and the static checks of every encoding: R127, R130, R138 items 1 to 9, R140, R251 to
R256, R398 and R399 items 2, 5, 7 and 8. A check that needs the state (the issuer of R142, LMUL
alignment, SEW, the CSR number) is made when the instruction executes. -/

namespace Sys2Proof

/-- The assigned format codes (R35, R36). -/
def assignedFmt (f : BitVec 6) : Bool :=
  f.toNat ≤ 0x0E || (0x12 ≤ f.toNat && f.toNat ≤ 0x18) || (0x23 ≤ f.toNat && f.toNat ≤ 0x27) ||
  f.toNat == 0x2C || f.toNat == 0x2E || (0x32 ≤ f.toNat && f.toNat ≤ 0x38)

/-- Plane formats pi2 to pi8 and their scaled variants (R35). -/
def planeFmt (f : BitVec 6) : Bool :=
  (0x12 ≤ f.toNat && f.toNat ≤ 0x18) || (0x32 ≤ f.toNat && f.toNat ≤ 0x38)

/-- Scaled variants have code + 0x20 (R35). -/
def scaledFmt (f : BitVec 6) : Bool := f.getLsbD 5

/-- Width in bits of an element; 1, the width within a plane, for plane formats (R35, R54). -/
def fmtWidth (f : BitVec 6) : Nat :=
  if planeFmt f then 1 else
  match (f &&& 0x1F#6).toNat with
  | 0x00 | 0x08 | 0x09 => 32
  | 0x01 | 0x02 | 0x0A | 0x0B => 16
  | 0x03 | 0x04 | 0x0C | 0x0D => 8
  | 0x05 | 0x06 => 6
  | 0x07 | 0x0E => 4
  | _ => 0

/-- Formats that strided and indexed accesses may name (R41). -/
def byteFmt (f : BitVec 6) : Bool := assignedFmt f && !planeFmt f && 8 ≤ fmtWidth f

/-- Formats that fill a lane bit for bit (R219, R223). -/
def laneFmt (f : BitVec 6) : Bool :=
  f == 0x00#6 || f == 0x01#6 || f == 0x08#6 || f == 0x09#6 || f == 0x0A#6 || f == 0x0B#6
def intLaneFmt (f : BitVec 6) : Bool := f == 0x08#6 || f == 0x09#6 || f == 0x0A#6 || f == 0x0B#6
def floatLaneFmt (f : BitVec 6) : Bool := f == 0x00#6 || f == 0x01#6

/-- The billet tags the Anvil accepts (R264). -/
def tagFmt (f : BitVec 6) : Bool :=
  f == 0x00#6 || f == 0x01#6 || f == 0x0C#6 || f == 0x2C#6 ||
  (0x03 ≤ f.toNat && f.toNat ≤ 0x07) || (0x23 ≤ f.toNat && f.toNat ≤ 0x27)

/-- What an operand field of a T48 instruction may hold. -/
inductive Fld where
  | zero
  | any
  | vec
  | lim (n : Nat)
  deriving DecidableEq, Repr

/-- What the entry says of the governing mask field. -/
inductive MaskUse where
  | no | any | need
  deriving DecidableEq, Repr

/-- How an entry reads aux8 (R135). -/
inductive AuxUse where
  | zero
  | free
  | setl
  | kind (vv vx vi round : Bool)
  | cvt
  | mem (ok : BitVec 6 → Bool)
  | memX
  | memO (ordered : Bool)
  | exact (n : Nat)
  | amo (ok : BitVec 6 → Bool)
  | tile (nt : Bool) (ok : BitVec 6 → Bool)
  | scope
  | flag

/-- The static shape of a T48 instruction's fields. -/
structure Shape where
  d : Fld
  a : Fld
  b : Fld
  aux : AuxUse
  gm : MaskUse
  rep : Bool

def Fld.ok : Fld → Reg → Bool
  | .zero, r => r == 0#5
  | .any, _ => true
  | .vec, _ => true
  | .lim n, r => r.toNat < n

def MaskUse.ok : MaskUse → BitVec 3 → Bool
  | .no, m => m == 0#3
  | .any, _ => true
  | .need, m => m != 0#3

/-- The kind field: 0 vv, 1 vx, 2 vi, 3 illegal (R135). -/
def T48.kind (o : T48) : Nat := (o.aux.extractLsb' 6 2).toNat
/-- The rounding code (R43, R135). -/
def T48.rm (o : T48) : BitVec 3 := o.aux.extractLsb' 0 3
/-- The format code (R135). -/
def T48.fmt (o : T48) : BitVec 6 := o.aux.extractLsb' 0 6

/-- R135, R138 items 2 to 5. -/
def AuxUse.ok (u : AuxUse) (o : T48) : Bool :=
  match u with
  | .zero => o.aux == 0#8
  | .free => true
  | .setl => let sew := o.aux.extractLsb' 0 2; sew == 1#2 || sew == 2#2
  | .kind vv vx vi r =>
    (match o.kind with | 0 => vv | 1 => vx | 2 => vi | _ => false) &&
    o.aux.extractLsb' 3 3 == 0#3 && (if r then o.rm.toNat ≤ 5 else o.rm == 0#3)
  | .cvt => o.kind == 0 && (o.aux.extractLsb' 3 3).toNat ≤ 5 && o.rm.toNat ≤ 5
  | .mem ok => !o.aux.getLsbD 6 && ok o.fmt
  | .memX => byteFmt o.fmt
  | .memO ord => o.aux.getLsbD 6 == ord && byteFmt o.fmt
  | .exact n => o.aux.toNat == n
  | .amo ok => !(o.aux.getLsbD 7 && o.aux.getLsbD 6) && ok o.fmt
  | .tile nt ok => !o.aux.getLsbD 6 && (nt || !o.aux.getLsbD 7) && ok o.fmt
  | .scope => o.aux.toNat ≤ 4
  | .flag => o.aux.toNat ≤ 15

/-- Whether the entry's b field takes its kind from aux8. -/
def AuxUse.kinded : AuxUse → Bool
  | .kind .. => true
  | _ => false

/-- Field b names a vector register source (R136). -/
def Shape.bVec (p : Shape) (o : T48) : Bool := p.b = .vec && (!p.aux.kinded || o.kind == 0)

/-- R138 items 2 to 9. A b field that is a vector register in vv kind is a scalar register in vx
kind and imm5 in vi kind. -/
def Shape.ok (p : Shape) (o : T48) : Bool :=
  p.d.ok o.d && p.a.ok o.a && p.b.ok o.b && p.aux.ok o && p.gm.ok o.gm &&
  (!o.fa || p.a = .vec) && (!o.fb || p.bVec o) &&
  (o.rep == 0#2 || (p.rep && p.bVec o))

/-- The T48 record an instruction carries. -/
def Instr.t48? : Instr → Option T48
  | .vsetl o => some o
  | .vsetlr o => some o
  | .vloopSeq o => some o
  | .vloopInd o => some o
  | .vnext o => some o
  | .vsidx o => some o
  | .vidx o => some o
  | .lpset o => some o
  | .wbase o => some o
  | .vfetch o => some o
  | .vfetchr o => some o
  | .uwait o => some o
  | .ufstat o => some o
  | .uresume o => some o
  | .ukill o => some o
  | .vlinkin o => some o
  | .vlinkout o => some o
  | .vfadd o => some o
  | .vfsub o => some o
  | .vfmul o => some o
  | .vfma o => some o
  | .vfms o => some o
  | .vfnma o => some o
  | .vfmin o => some o
  | .vfmax o => some o
  | .vfdiv o => some o
  | .vfsqrt o => some o
  | .vfrcp o => some o
  | .vfrsq o => some o
  | .vfexp2 o => some o
  | .vflog2 o => some o
  | .vfabs o => some o
  | .vfneg o => some o
  | .vfsgn o => some o
  | .vfcvt o => some o
  | .vfclass o => some o
  | .vfeq o => some o
  | .vflt o => some o
  | .vfle o => some o
  | .vadd o => some o
  | .vsub o => some o
  | .vmul o => some o
  | .vmulh o => some o
  | .vmulhn o => some o
  | .vand o => some o
  | .vor o => some o
  | .vxor o => some o
  | .vsll o => some o
  | .vsrl o => some o
  | .vsra o => some o
  | .vmin o => some o
  | .vmax o => some o
  | .vminn o => some o
  | .vmaxn o => some o
  | .vseq o => some o
  | .vslt o => some o
  | .vsltn o => some o
  | .vmerge o => some o
  | .vmvs o => some o
  | .vmvx o => some o
  | .vslideup o => some o
  | .vslidedn o => some o
  | .vrgather o => some o
  | .vcompress o => some o
  | .vexpand o => some o
  | .vbcast o => some o
  | .vxchg o => some o
  | .vmv o => some o
  | .vfredo o => some o
  | .vfredt o => some o
  | .vfredmax o => some o
  | .vfredmin o => some o
  | .vredsum o => some o
  | .vredmax o => some o
  | .vredmin o => some o
  | .mand o => some o
  | .mor o => some o
  | .mxor o => some o
  | .mandn o => some o
  | .mnot o => some o
  | .mpopc o => some o
  | .mfirst o => some o
  | .mset o => some o
  | .mclr o => some o
  | .vld o => some o
  | .vst o => some o
  | .vlds o => some o
  | .vsts o => some o
  | .vldx o => some o
  | .vstxO o => some o
  | .vstxU o => some o
  | .vgl o => some o
  | .vsc o => some o
  | .vcappend o => some o
  | .vamoadd o => some o
  | .vamofadd o => some o
  | .vamomin o => some o
  | .vamomax o => some o
  | .vamoand o => some o
  | .vamoor o => some o
  | .vamoxor o => some o
  | .vamoswap o => some o
  | .sbind o => some o
  | .sunbind o => some o
  | .ssync o => some o
  | .sskip o => some o
  | .spos o => some o
  | .wbind o => some o
  | .wunbind o => some o
  | .winval o => some o
  | .wquery o => some o
  | .trow o => some o
  | .tcol o => some o
  | .tld o => some o
  | .tst o => some o
  | .tzero o => some o
  | .tfull o => some o
  | .tempty o => some o
  | .mma o => some o
  | .mmas o => some o
  | .pload o => some o
  | .pzero o => some o
  | .mscl o => some o
  | .msync o => some o
  | .mwait o => some o
  | .czero o => some o
  | .cacc o => some o
  | .cread o => some o
  | .cdrain o => some o
  | .cwait o => some o
  | .cquery o => some o
  | .gld o => some o
  | .gsc o => some o
  | .kvld o => some o
  | .kvst o => some o
  | .kvfork o => some o
  | .fenceRel o => some o
  | .fenceAcq o => some o
  | .fenceSc o => some o
  | .lsync o => some o
  | .pwait o => some o
  | .ppt o => some o
  | .ubar o => some o
  | .msig o => some o
  | .mwaitv o => some o
  | .kend o => some o
  | .ebatch o => some o
  | .cpy o => some o
  | .ewait o => some o
  | .uiset o => some o
  | .uiret o => some o
  | .uimask o => some o
  | .qput o => some o
  | .qtail o => some o
  | .qwait o => some o
  | .bkset o => some o
  | .hcallCancel o => some o
  | .hcallPreempt o => some o
  | .hcallOther o => some o
  | .xsave o => some o
  | .xrest o => some o
  | .mfset o => some o
  | .vrstset o => some o
  | _ => none

/-- Its group and op (R141). -/
def Instr.t48Code : Instr → BitVec 6 × BitVec 6
  | .vsetl _ => (0x01#6, 0x00#6)
  | .vsetlr _ => (0x01#6, 0x01#6)
  | .vloopSeq _ => (0x01#6, 0x02#6)
  | .vloopInd _ => (0x01#6, 0x03#6)
  | .vnext _ => (0x01#6, 0x04#6)
  | .vsidx _ => (0x01#6, 0x05#6)
  | .vidx _ => (0x01#6, 0x06#6)
  | .lpset _ => (0x01#6, 0x07#6)
  | .wbase _ => (0x01#6, 0x08#6)
  | .vfetch _ => (0x02#6, 0x00#6)
  | .vfetchr _ => (0x02#6, 0x01#6)
  | .uwait _ => (0x02#6, 0x02#6)
  | .ufstat _ => (0x02#6, 0x03#6)
  | .uresume _ => (0x02#6, 0x04#6)
  | .ukill _ => (0x02#6, 0x05#6)
  | .vlinkin _ => (0x02#6, 0x06#6)
  | .vlinkout _ => (0x02#6, 0x07#6)
  | .vfadd _ => (0x04#6, 0x00#6)
  | .vfsub _ => (0x04#6, 0x01#6)
  | .vfmul _ => (0x04#6, 0x02#6)
  | .vfma _ => (0x04#6, 0x03#6)
  | .vfms _ => (0x04#6, 0x04#6)
  | .vfnma _ => (0x04#6, 0x05#6)
  | .vfmin _ => (0x04#6, 0x06#6)
  | .vfmax _ => (0x04#6, 0x07#6)
  | .vfdiv _ => (0x04#6, 0x08#6)
  | .vfsqrt _ => (0x04#6, 0x09#6)
  | .vfrcp _ => (0x04#6, 0x0A#6)
  | .vfrsq _ => (0x04#6, 0x0B#6)
  | .vfexp2 _ => (0x04#6, 0x0C#6)
  | .vflog2 _ => (0x04#6, 0x0D#6)
  | .vfabs _ => (0x04#6, 0x0E#6)
  | .vfneg _ => (0x04#6, 0x0F#6)
  | .vfsgn _ => (0x04#6, 0x10#6)
  | .vfcvt _ => (0x04#6, 0x11#6)
  | .vfclass _ => (0x04#6, 0x12#6)
  | .vfeq _ => (0x04#6, 0x13#6)
  | .vflt _ => (0x04#6, 0x14#6)
  | .vfle _ => (0x04#6, 0x15#6)
  | .vadd _ => (0x05#6, 0x00#6)
  | .vsub _ => (0x05#6, 0x01#6)
  | .vmul _ => (0x05#6, 0x02#6)
  | .vmulh _ => (0x05#6, 0x03#6)
  | .vmulhn _ => (0x05#6, 0x04#6)
  | .vand _ => (0x05#6, 0x05#6)
  | .vor _ => (0x05#6, 0x06#6)
  | .vxor _ => (0x05#6, 0x07#6)
  | .vsll _ => (0x05#6, 0x08#6)
  | .vsrl _ => (0x05#6, 0x09#6)
  | .vsra _ => (0x05#6, 0x0A#6)
  | .vmin _ => (0x05#6, 0x0B#6)
  | .vmax _ => (0x05#6, 0x0C#6)
  | .vminn _ => (0x05#6, 0x0D#6)
  | .vmaxn _ => (0x05#6, 0x0E#6)
  | .vseq _ => (0x05#6, 0x0F#6)
  | .vslt _ => (0x05#6, 0x10#6)
  | .vsltn _ => (0x05#6, 0x11#6)
  | .vmerge _ => (0x05#6, 0x12#6)
  | .vmvs _ => (0x05#6, 0x13#6)
  | .vmvx _ => (0x05#6, 0x14#6)
  | .vslideup _ => (0x06#6, 0x00#6)
  | .vslidedn _ => (0x06#6, 0x01#6)
  | .vrgather _ => (0x06#6, 0x02#6)
  | .vcompress _ => (0x06#6, 0x03#6)
  | .vexpand _ => (0x06#6, 0x04#6)
  | .vbcast _ => (0x06#6, 0x05#6)
  | .vxchg _ => (0x06#6, 0x06#6)
  | .vmv _ => (0x06#6, 0x07#6)
  | .vfredo _ => (0x07#6, 0x00#6)
  | .vfredt _ => (0x07#6, 0x01#6)
  | .vfredmax _ => (0x07#6, 0x02#6)
  | .vfredmin _ => (0x07#6, 0x03#6)
  | .vredsum _ => (0x07#6, 0x04#6)
  | .vredmax _ => (0x07#6, 0x05#6)
  | .vredmin _ => (0x07#6, 0x06#6)
  | .mand _ => (0x08#6, 0x00#6)
  | .mor _ => (0x08#6, 0x01#6)
  | .mxor _ => (0x08#6, 0x02#6)
  | .mandn _ => (0x08#6, 0x03#6)
  | .mnot _ => (0x08#6, 0x04#6)
  | .mpopc _ => (0x08#6, 0x05#6)
  | .mfirst _ => (0x08#6, 0x06#6)
  | .mset _ => (0x08#6, 0x07#6)
  | .mclr _ => (0x08#6, 0x08#6)
  | .vld _ => (0x0C#6, 0x00#6)
  | .vst _ => (0x0C#6, 0x01#6)
  | .vlds _ => (0x0C#6, 0x02#6)
  | .vsts _ => (0x0C#6, 0x03#6)
  | .vldx _ => (0x0C#6, 0x04#6)
  | .vstxO _ => (0x0C#6, 0x05#6)
  | .vstxU _ => (0x0C#6, 0x05#6)
  | .vgl _ => (0x0C#6, 0x06#6)
  | .vsc _ => (0x0C#6, 0x07#6)
  | .vcappend _ => (0x0C#6, 0x08#6)
  | .vamoadd _ => (0x0D#6, 0x00#6)
  | .vamofadd _ => (0x0D#6, 0x01#6)
  | .vamomin _ => (0x0D#6, 0x02#6)
  | .vamomax _ => (0x0D#6, 0x03#6)
  | .vamoand _ => (0x0D#6, 0x04#6)
  | .vamoor _ => (0x0D#6, 0x05#6)
  | .vamoxor _ => (0x0D#6, 0x06#6)
  | .vamoswap _ => (0x0D#6, 0x07#6)
  | .sbind _ => (0x0E#6, 0x00#6)
  | .sunbind _ => (0x0E#6, 0x01#6)
  | .ssync _ => (0x0E#6, 0x02#6)
  | .sskip _ => (0x0E#6, 0x03#6)
  | .spos _ => (0x0E#6, 0x04#6)
  | .wbind _ => (0x0F#6, 0x00#6)
  | .wunbind _ => (0x0F#6, 0x01#6)
  | .winval _ => (0x0F#6, 0x02#6)
  | .wquery _ => (0x0F#6, 0x03#6)
  | .trow _ => (0x10#6, 0x00#6)
  | .tcol _ => (0x10#6, 0x01#6)
  | .tld _ => (0x10#6, 0x02#6)
  | .tst _ => (0x10#6, 0x03#6)
  | .tzero _ => (0x10#6, 0x04#6)
  | .tfull _ => (0x10#6, 0x05#6)
  | .tempty _ => (0x10#6, 0x06#6)
  | .mma _ => (0x11#6, 0x00#6)
  | .mmas _ => (0x11#6, 0x01#6)
  | .pload _ => (0x11#6, 0x02#6)
  | .pzero _ => (0x11#6, 0x03#6)
  | .mscl _ => (0x11#6, 0x04#6)
  | .msync _ => (0x11#6, 0x05#6)
  | .mwait _ => (0x11#6, 0x06#6)
  | .czero _ => (0x12#6, 0x00#6)
  | .cacc _ => (0x12#6, 0x01#6)
  | .cread _ => (0x12#6, 0x02#6)
  | .cdrain _ => (0x12#6, 0x03#6)
  | .cwait _ => (0x12#6, 0x04#6)
  | .cquery _ => (0x12#6, 0x05#6)
  | .gld _ => (0x14#6, 0x00#6)
  | .gsc _ => (0x14#6, 0x01#6)
  | .kvld _ => (0x14#6, 0x02#6)
  | .kvst _ => (0x14#6, 0x03#6)
  | .kvfork _ => (0x14#6, 0x04#6)
  | .fenceRel _ => (0x18#6, 0x00#6)
  | .fenceAcq _ => (0x18#6, 0x01#6)
  | .fenceSc _ => (0x18#6, 0x02#6)
  | .lsync _ => (0x18#6, 0x03#6)
  | .pwait _ => (0x18#6, 0x04#6)
  | .ppt _ => (0x18#6, 0x05#6)
  | .ubar _ => (0x18#6, 0x06#6)
  | .msig _ => (0x18#6, 0x07#6)
  | .mwaitv _ => (0x18#6, 0x08#6)
  | .kend _ => (0x18#6, 0x09#6)
  | .ebatch _ => (0x19#6, 0x00#6)
  | .cpy _ => (0x19#6, 0x01#6)
  | .ewait _ => (0x19#6, 0x02#6)
  | .uiset _ => (0x19#6, 0x03#6)
  | .uiret _ => (0x19#6, 0x04#6)
  | .uimask _ => (0x19#6, 0x05#6)
  | .qput _ => (0x19#6, 0x06#6)
  | .qtail _ => (0x19#6, 0x07#6)
  | .qwait _ => (0x19#6, 0x08#6)
  | .bkset _ => (0x19#6, 0x09#6)
  | .hcallCancel _ => (0x19#6, 0x0A#6)
  | .hcallPreempt _ => (0x19#6, 0x0A#6)
  | .hcallOther _ => (0x19#6, 0x0A#6)
  | .xsave _ => (0x1C#6, 0x00#6)
  | .xrest _ => (0x1C#6, 0x01#6)
  | .mfset _ => (0x1C#6, 0x02#6)
  | .vrstset _ => (0x1C#6, 0x03#6)
  | _ => (0x3F#6, 0x3F#6)

/-! The shape of each assigned group and op: R159, R182, R189, R197, R202, R209 to R211, R223, R226, R234,
R244, R266, R276, R285, R291, R302, R309. -/

def shapeVcfg (op : BitVec 6) : Option Shape :=
  match op with
  | 0x00#6 => some ⟨.any, .any, .zero, .setl, .no, false⟩
  | 0x01#6 => some ⟨.any, .any, .any, .zero, .no, false⟩
  | 0x02#6 => some ⟨.zero, .any, .zero, .zero, .no, false⟩
  | 0x03#6 => some ⟨.zero, .any, .zero, .zero, .no, false⟩
  | 0x04#6 => some ⟨.zero, .zero, .zero, .zero, .no, false⟩
  | 0x05#6 => some ⟨.any, .zero, .zero, .zero, .any, false⟩
  | 0x06#6 => some ⟨.any, .zero, .zero, .zero, .any, false⟩
  | 0x07#6 => some ⟨.any, .any, .any, .zero, .no, false⟩
  | 0x08#6 => some ⟨.any, .lim 16, .zero, .zero, .no, false⟩
  | _ => none

def shapeUctl (op : BitVec 6) : Option Shape :=
  match op with
  | 0x00#6 => some ⟨.any, .any, .any, .free, .any, false⟩
  | 0x01#6 => some ⟨.zero, .any, .zero, .zero, .any, false⟩
  | 0x02#6 => some ⟨.lim 8, .zero, .zero, .zero, .no, false⟩
  | 0x03#6 => some ⟨.any, .zero, .lim 3, .zero, .no, false⟩
  | 0x04#6 => some ⟨.zero, .lim 8, .zero, .zero, .no, false⟩
  | 0x05#6 => some ⟨.zero, .lim 8, .zero, .zero, .no, false⟩
  | 0x06#6 => some ⟨.zero, .any, .zero, .zero, .no, false⟩
  | 0x07#6 => some ⟨.any, .zero, .zero, .zero, .no, false⟩
  | _ => none

def shapeVfa (op : BitVec 6) : Option Shape :=
  match op with
  | 0x00#6 => some ⟨.any, .vec, .vec, .kind true true false true, .any, true⟩
  | 0x01#6 => some ⟨.any, .vec, .vec, .kind true true false true, .any, true⟩
  | 0x02#6 => some ⟨.any, .vec, .vec, .kind true true false true, .any, true⟩
  | 0x03#6 => some ⟨.any, .vec, .vec, .kind true true false true, .any, true⟩
  | 0x04#6 => some ⟨.any, .vec, .vec, .kind true true false true, .any, true⟩
  | 0x05#6 => some ⟨.any, .vec, .vec, .kind true true false true, .any, true⟩
  | 0x06#6 => some ⟨.any, .vec, .vec, .kind true true false false, .any, true⟩
  | 0x07#6 => some ⟨.any, .vec, .vec, .kind true true false false, .any, true⟩
  | 0x08#6 => some ⟨.any, .vec, .vec, .kind true true false true, .any, true⟩
  | 0x09#6 => some ⟨.any, .vec, .zero, .kind true false false true, .any, false⟩
  | 0x0A#6 => some ⟨.any, .vec, .zero, .kind true false false true, .any, false⟩
  | 0x0B#6 => some ⟨.any, .vec, .zero, .kind true false false true, .any, false⟩
  | 0x0C#6 => some ⟨.any, .vec, .zero, .kind true false false true, .any, false⟩
  | 0x0D#6 => some ⟨.any, .vec, .zero, .kind true false false true, .any, false⟩
  | 0x0E#6 => some ⟨.any, .vec, .zero, .kind true false false false, .any, false⟩
  | 0x0F#6 => some ⟨.any, .vec, .zero, .kind true false false false, .any, false⟩
  | 0x10#6 => some ⟨.any, .vec, .vec, .kind true true false false, .any, true⟩
  | 0x11#6 => some ⟨.any, .vec, .zero, .cvt, .any, false⟩
  | 0x12#6 => some ⟨.any, .vec, .zero, .kind true false false false, .any, false⟩
  | 0x13#6 => some ⟨.lim 8, .vec, .vec, .kind true true false false, .any, true⟩
  | 0x14#6 => some ⟨.lim 8, .vec, .vec, .kind true true false false, .any, true⟩
  | 0x15#6 => some ⟨.lim 8, .vec, .vec, .kind true true false false, .any, true⟩
  | _ => none

def shapeVia (op : BitVec 6) : Option Shape :=
  match op with
  | 0x00#6 => some ⟨.any, .vec, .vec, .kind true true true false, .any, true⟩
  | 0x01#6 => some ⟨.any, .vec, .vec, .kind true true true false, .any, true⟩
  | 0x02#6 => some ⟨.any, .vec, .vec, .kind true true true false, .any, true⟩
  | 0x03#6 => some ⟨.any, .vec, .vec, .kind true true true false, .any, true⟩
  | 0x04#6 => some ⟨.any, .vec, .vec, .kind true true true false, .any, true⟩
  | 0x05#6 => some ⟨.any, .vec, .vec, .kind true true true false, .any, true⟩
  | 0x06#6 => some ⟨.any, .vec, .vec, .kind true true true false, .any, true⟩
  | 0x07#6 => some ⟨.any, .vec, .vec, .kind true true true false, .any, true⟩
  | 0x08#6 => some ⟨.any, .vec, .vec, .kind true true true false, .any, true⟩
  | 0x09#6 => some ⟨.any, .vec, .vec, .kind true true true false, .any, true⟩
  | 0x0A#6 => some ⟨.any, .vec, .vec, .kind true true true false, .any, true⟩
  | 0x0B#6 => some ⟨.any, .vec, .vec, .kind true true true false, .any, true⟩
  | 0x0C#6 => some ⟨.any, .vec, .vec, .kind true true true false, .any, true⟩
  | 0x0D#6 => some ⟨.any, .vec, .vec, .kind true true true false, .any, true⟩
  | 0x0E#6 => some ⟨.any, .vec, .vec, .kind true true true false, .any, true⟩
  | 0x0F#6 => some ⟨.lim 8, .vec, .vec, .kind true true true false, .any, true⟩
  | 0x10#6 => some ⟨.lim 8, .vec, .vec, .kind true true true false, .any, true⟩
  | 0x11#6 => some ⟨.lim 8, .vec, .vec, .kind true true true false, .any, true⟩
  | 0x12#6 => some ⟨.any, .vec, .vec, .kind true true true false, .need, true⟩
  | 0x13#6 => some ⟨.any, .zero, .any, .kind false true true false, .any, false⟩
  | 0x14#6 => some ⟨.any, .vec, .zero, .kind true false false false, .no, false⟩
  | _ => none

def shapeVperm (op : BitVec 6) : Option Shape :=
  match op with
  | 0x00#6 => some ⟨.any, .vec, .any, .free, .any, false⟩
  | 0x01#6 => some ⟨.any, .vec, .any, .free, .any, false⟩
  | 0x02#6 => some ⟨.any, .vec, .vec, .kind true true true false, .any, true⟩
  | 0x03#6 => some ⟨.any, .vec, .zero, .zero, .any, false⟩
  | 0x04#6 => some ⟨.any, .vec, .zero, .zero, .need, false⟩
  | 0x05#6 => some ⟨.any, .vec, .any, .kind false true true false, .any, false⟩
  | 0x06#6 => some ⟨.any, .vec, .any, .zero, .no, false⟩
  | 0x07#6 => some ⟨.any, .vec, .zero, .zero, .any, false⟩
  | _ => none

def shapeVred (op : BitVec 6) : Option Shape :=
  match op with
  | 0x00#6 => some ⟨.any, .vec, .vec, .kind true true false true, .any, false⟩
  | 0x01#6 => some ⟨.any, .vec, .vec, .kind true true false true, .any, false⟩
  | 0x02#6 => some ⟨.any, .vec, .vec, .kind true true false false, .any, false⟩
  | 0x03#6 => some ⟨.any, .vec, .vec, .kind true true false false, .any, false⟩
  | 0x04#6 => some ⟨.any, .vec, .vec, .kind true true true false, .any, false⟩
  | 0x05#6 => some ⟨.any, .vec, .vec, .kind true true true false, .any, false⟩
  | 0x06#6 => some ⟨.any, .vec, .vec, .kind true true true false, .any, false⟩
  | _ => none

def shapeVmask (op : BitVec 6) : Option Shape :=
  match op with
  | 0x00#6 => some ⟨.lim 8, .lim 8, .lim 8, .zero, .any, false⟩
  | 0x01#6 => some ⟨.lim 8, .lim 8, .lim 8, .zero, .any, false⟩
  | 0x02#6 => some ⟨.lim 8, .lim 8, .lim 8, .zero, .any, false⟩
  | 0x03#6 => some ⟨.lim 8, .lim 8, .lim 8, .zero, .any, false⟩
  | 0x04#6 => some ⟨.lim 8, .lim 8, .zero, .zero, .any, false⟩
  | 0x05#6 => some ⟨.any, .lim 8, .zero, .zero, .any, false⟩
  | 0x06#6 => some ⟨.any, .lim 8, .zero, .zero, .any, false⟩
  | 0x07#6 => some ⟨.lim 8, .zero, .zero, .zero, .any, false⟩
  | 0x08#6 => some ⟨.lim 8, .zero, .zero, .zero, .any, false⟩
  | _ => none

def shapeVmem (op : BitVec 6) : Option Shape :=
  match op with
  | 0x00#6 => some ⟨.any, .any, .zero, .mem assignedFmt, .any, false⟩
  | 0x01#6 => some ⟨.any, .any, .zero, .mem assignedFmt, .any, false⟩
  | 0x02#6 => some ⟨.any, .any, .any, .mem byteFmt, .any, false⟩
  | 0x03#6 => some ⟨.any, .any, .any, .mem byteFmt, .any, false⟩
  | 0x04#6 => some ⟨.any, .any, .vec, .mem byteFmt, .any, false⟩
  | 0x05#6 => some ⟨.any, .any, .vec, .memX, .any, false⟩
  | 0x06#6 => some ⟨.any, .any, .vec, .mem laneFmt, .any, false⟩
  | 0x07#6 => some ⟨.any, .any, .vec, .mem laneFmt, .any, false⟩
  | 0x08#6 => some ⟨.any, .any, .any, .exact 0x09, .any, false⟩
  | _ => none

def shapeVamo (op : BitVec 6) : Option Shape :=
  match op with
  | 0x00#6 => some ⟨.any, .any, .vec, .amo intLaneFmt, .any, false⟩
  | 0x01#6 => some ⟨.any, .any, .vec, .amo floatLaneFmt, .any, false⟩
  | 0x02#6 => some ⟨.any, .any, .vec, .amo intLaneFmt, .any, false⟩
  | 0x03#6 => some ⟨.any, .any, .vec, .amo intLaneFmt, .any, false⟩
  | 0x04#6 => some ⟨.any, .any, .vec, .amo intLaneFmt, .any, false⟩
  | 0x05#6 => some ⟨.any, .any, .vec, .amo intLaneFmt, .any, false⟩
  | 0x06#6 => some ⟨.any, .any, .vec, .amo intLaneFmt, .any, false⟩
  | 0x07#6 => some ⟨.any, .any, .vec, .amo laneFmt, .any, false⟩
  | _ => none

def shapeStream (op : BitVec 6) : Option Shape :=
  match op with
  | 0x00#6 => some ⟨.any, .any, .lim 16, .zero, .no, false⟩
  | 0x01#6 => some ⟨.zero, .zero, .lim 16, .zero, .no, false⟩
  | 0x02#6 => some ⟨.zero, .zero, .lim 16, .zero, .no, false⟩
  | 0x03#6 => some ⟨.zero, .any, .lim 16, .zero, .no, false⟩
  | 0x04#6 => some ⟨.any, .zero, .lim 16, .zero, .no, false⟩
  | _ => none

def shapeWin (op : BitVec 6) : Option Shape :=
  match op with
  | 0x00#6 => some ⟨.zero, .any, .lim 16, .zero, .no, false⟩
  | 0x01#6 => some ⟨.zero, .zero, .lim 16, .zero, .no, false⟩
  | 0x02#6 => some ⟨.zero, .zero, .lim 16, .zero, .no, false⟩
  | 0x03#6 => some ⟨.any, .zero, .lim 16, .zero, .no, false⟩
  | _ => none

def shapeTile (op : BitVec 6) : Option Shape :=
  match op with
  | 0x00#6 => some ⟨.lim 8, .vec, .any, .tile false assignedFmt, .any, false⟩
  | 0x01#6 => some ⟨.any, .lim 8, .any, .tile false assignedFmt, .any, false⟩
  | 0x02#6 => some ⟨.lim 8, .any, .zero, .tile true tagFmt, .no, false⟩
  | 0x03#6 => some ⟨.lim 8, .any, .zero, .tile true assignedFmt, .no, false⟩
  | 0x04#6 => some ⟨.lim 8, .zero, .zero, .zero, .no, false⟩
  | 0x05#6 => some ⟨.lim 8, .zero, .zero, .zero, .no, false⟩
  | 0x06#6 => some ⟨.lim 8, .zero, .zero, .zero, .no, false⟩
  | _ => none

def shapeMat (op : BitVec 6) : Option Shape :=
  match op with
  | 0x00#6 => some ⟨.lim 24, .lim 8, .any, .zero, .no, false⟩
  | 0x01#6 => some ⟨.lim 24, .lim 8, .any, .zero, .no, false⟩
  | 0x02#6 => some ⟨.zero, .any, .zero, .zero, .no, false⟩
  | 0x03#6 => some ⟨.zero, .any, .zero, .zero, .no, false⟩
  | 0x04#6 => some ⟨.zero, .any, .any, .zero, .no, false⟩
  | 0x05#6 => some ⟨.zero, .zero, .zero, .zero, .no, false⟩
  | 0x06#6 => some ⟨.zero, .zero, .zero, .zero, .no, false⟩
  | _ => none

def shapeCruc (op : BitVec 6) : Option Shape :=
  match op with
  | 0x00#6 => some ⟨.lim 24, .zero, .zero, .zero, .no, false⟩
  | 0x01#6 => some ⟨.lim 24, .vec, .any, .zero, .any, false⟩
  | 0x02#6 => some ⟨.any, .lim 24, .any, .zero, .any, false⟩
  | 0x03#6 => some ⟨.lim 24, .any, .zero, .zero, .no, false⟩
  | 0x04#6 => some ⟨.lim 24, .zero, .zero, .zero, .no, false⟩
  | 0x05#6 => some ⟨.any, .lim 24, .zero, .zero, .no, false⟩
  | _ => none

def shapeRegion (op : BitVec 6) : Option Shape :=
  match op with
  | 0x00#6 => some ⟨.any, .any, .vec, .zero, .any, false⟩
  | 0x01#6 => some ⟨.any, .any, .vec, .zero, .any, false⟩
  | 0x02#6 => some ⟨.any, .any, .vec, .zero, .any, false⟩
  | 0x03#6 => some ⟨.any, .any, .vec, .zero, .any, false⟩
  | 0x04#6 => some ⟨.any, .any, .any, .zero, .no, false⟩
  | _ => none

def shapeSync (op : BitVec 6) : Option Shape :=
  match op with
  | 0x00#6 => some ⟨.zero, .zero, .zero, .scope, .no, false⟩
  | 0x01#6 => some ⟨.zero, .zero, .zero, .scope, .no, false⟩
  | 0x02#6 => some ⟨.zero, .zero, .zero, .scope, .no, false⟩
  | 0x03#6 => some ⟨.zero, .zero, .zero, .zero, .no, false⟩
  | 0x04#6 => some ⟨.zero, .zero, .zero, .zero, .no, false⟩
  | 0x05#6 => some ⟨.zero, .any, .zero, .zero, .no, false⟩
  | 0x06#6 => some ⟨.zero, .zero, .zero, .zero, .no, false⟩
  | 0x07#6 => some ⟨.zero, .any, .zero, .flag, .no, false⟩
  | 0x08#6 => some ⟨.zero, .any, .zero, .flag, .no, false⟩
  | 0x09#6 => some ⟨.zero, .zero, .zero, .zero, .no, false⟩
  | _ => none

def shapeEngine (op : BitVec 6) : Option Shape :=
  match op with
  | 0x00#6 => some ⟨.lim 8, .vec, .zero, .zero, .any, false⟩
  | 0x01#6 => some ⟨.any, .any, .any, .zero, .no, false⟩
  | 0x02#6 => some ⟨.zero, .zero, .zero, .zero, .no, false⟩
  | 0x03#6 => some ⟨.zero, .any, .zero, .zero, .no, false⟩
  | 0x04#6 => some ⟨.zero, .zero, .zero, .zero, .no, false⟩
  | 0x05#6 => some ⟨.any, .any, .zero, .zero, .no, false⟩
  | 0x06#6 => some ⟨.any, .any, .any, .zero, .no, false⟩
  | 0x07#6 => some ⟨.zero, .any, .any, .zero, .no, false⟩
  | 0x08#6 => some ⟨.zero, .any, .any, .zero, .no, false⟩
  | 0x09#6 => some ⟨.any, .any, .any, .zero, .no, false⟩
  | 0x0A#6 => some ⟨.any, .any, .any, .zero, .no, false⟩
  | _ => none

def shapeSys (op : BitVec 6) : Option Shape :=
  match op with
  | 0x00#6 => some ⟨.zero, .any, .any, .zero, .no, false⟩
  | 0x01#6 => some ⟨.zero, .any, .zero, .zero, .no, false⟩
  | 0x02#6 => some ⟨.lim 8, .lim 8, .zero, .zero, .no, false⟩
  | 0x03#6 => some ⟨.any, .any, .any, .zero, .no, false⟩
  | _ => none

def shapeAt (grp op : BitVec 6) : Option Shape :=
  match grp with
  | 0x01#6 => shapeVcfg op
  | 0x02#6 => shapeUctl op
  | 0x04#6 => shapeVfa op
  | 0x05#6 => shapeVia op
  | 0x06#6 => shapeVperm op
  | 0x07#6 => shapeVred op
  | 0x08#6 => shapeVmask op
  | 0x0C#6 => shapeVmem op
  | 0x0D#6 => shapeVamo op
  | 0x0E#6 => shapeStream op
  | 0x0F#6 => shapeWin op
  | 0x10#6 => shapeTile op
  | 0x11#6 => shapeMat op
  | 0x12#6 => shapeCruc op
  | 0x14#6 => shapeRegion op
  | 0x18#6 => shapeSync op
  | 0x19#6 => shapeEngine op
  | 0x1C#6 => shapeSys op
  | _ => none

/-- The shape of an instruction; the two `vstx` rows share an op and differ in the ordered bit (R211). -/
def Instr.shape (i : Instr) : Shape :=
  let p := (shapeAt i.t48Code.1 i.t48Code.2).getD ⟨.zero, .zero, .zero, .zero, .no, false⟩
  match i with
  | .vstxO _ => { p with aux := .memO true }
  | .vstxU _ => { p with aux := .memO false }
  | _ => p

/-- The B64 record an instruction carries. -/
def Instr.b64? : Instr → Option B64
  | .b64Add o => some o
  | .b64Sub o => some o
  | .b64Mul o => some o
  | .b64Mulh o => some o
  | .b64And o => some o
  | .b64Or o => some o
  | .b64Xor o => some o
  | .b64Shl o => some o
  | .b64Shr o => some o
  | .b64Sra o => some o
  | .b64Min o => some o
  | .b64Max o => some o
  | .b64Li o => some o
  | .b64Fadd o => some o
  | .b64Fsub o => some o
  | .b64Fmul o => some o
  | .b64Fma o => some o
  | .b64Fmin o => some o
  | .b64Fmax o => some o
  | .b64Fdiv o => some o
  | .b64Frcp o => some o
  | .b64Fsqrt o => some o
  | .b64Fcvt o => some o
  | .b64Seq o => some o
  | .b64Slt o => some o
  | .b64Sltn o => some o
  | .b64Feq o => some o
  | .b64Flt o => some o
  | .b64Fle o => some o
  | .b64Pand o => some o
  | .b64Por o => some o
  | .b64Pnot o => some o
  | .b64Sel o => some o
  | .b64Ld o => some o
  | .b64St o => some o
  | .b64Amoadd o => some o
  | .b64Famoadd o => some o
  | .b64Lsend o => some o
  | .b64Lrecv o => some o
  | .b64Stop o => some o
  | .b64Next o => some o
  | .b64Nextif o => some o
  | .b64Nop o => some o
  | _ => none

/-- Operands of B64 fields (R251). -/
inductive BFld where
  | none | eDst | eSrc | pDst | pSrc | link | target
  deriving DecidableEq, Repr

/-- How a B64 op uses b, c and imm24 (R253 to R259). -/
inductive BRest where
  | unary | intSrc | imm | reg2 | reg3 | cvt | preds | selSrc | regImm | target
  deriving DecidableEq, Repr

/-- How a B64 op uses fmt/rm (R139, R256). -/
inductive BFmt where
  | zero | round | ldw | stw
  deriving DecidableEq, Repr

structure BShape where
  d : BFld
  a : BFld
  rest : BRest
  fmt : BFmt

/-- Numbers 0 to 31 and 33 are element sources (R251). -/
def eSrcOk (n : BitVec 6) : Bool := n.toNat < 32 || n.toNat == 33
def pSrcOk (n : BitVec 6) : Bool := 40 ≤ n.toNat && n.toNat < 48

def BFld.ok : BFld → BitVec 6 → Bool
  | .none, n => n == 0#6
  | .eDst, n => n.toNat < 32
  | .eSrc, n => eSrcOk n
  | .pDst, n => 41 ≤ n.toNat && n.toNat < 48
  | .pSrc, n => pSrcOk n
  | .link, n => n.toNat == 32
  | .target, _ => true

def BRest.ok (u : BRest) (o : B64) : Bool :=
  match u with
  | .unary => o.b == 0#6 && o.c == 0#6 && o.imm == 0#24
  | .intSrc => (o.c == 0#6 && o.imm == 0#24 && eSrcOk o.b) || (o.c == 1#6 && o.b == 0#6)
  | .imm => o.b == 0#6 && o.c == 0#6
  | .reg2 => eSrcOk o.b && o.c == 0#6 && o.imm == 0#24
  | .reg3 => eSrcOk o.b && eSrcOk o.c && o.imm == 0#24
  | .cvt => o.b == 0#6 && o.c.toNat ≤ 5 && o.imm == 0#24
  | .preds => pSrcOk o.b && o.c == 0#6 && o.imm == 0#24
  | .selSrc => eSrcOk o.b && pSrcOk o.c && o.imm == 0#24
  | .regImm => eSrcOk o.b && o.c == 0#6
  | .target => o.b == 0#6 && ((o.c == 0#6 && o.a == 0#6) || (o.c == 1#6 && eSrcOk o.a))

def BFmt.ok : BFmt → BitVec 4 → Bool
  | .zero, f => f == 0#4
  | .round, f => f.toNat ≤ 5
  | .ldw, f => f.toNat ≤ 4
  | .stw, f => f.toNat ≤ 1 || f.toNat == 3

/-- `stop` and `next` take no predicate (R252). -/
def BShape.ok (p : BShape) (noPred : Bool) (o : B64) : Bool :=
  p.d.ok o.d && p.a.ok o.a && p.rest.ok o && p.fmt.ok o.fmt &&
  (!noPred || (o.pred == 0#3 && !o.pneg))

/-- B64 op numbers (R141). -/
def Instr.b64Code : Instr → BitVec 8
  | .b64Add _ => 0x00#8
  | .b64Sub _ => 0x01#8
  | .b64Mul _ => 0x02#8
  | .b64Mulh _ => 0x03#8
  | .b64And _ => 0x04#8
  | .b64Or _ => 0x05#8
  | .b64Xor _ => 0x06#8
  | .b64Shl _ => 0x07#8
  | .b64Shr _ => 0x08#8
  | .b64Sra _ => 0x09#8
  | .b64Min _ => 0x0A#8
  | .b64Max _ => 0x0B#8
  | .b64Li _ => 0x0C#8
  | .b64Fadd _ => 0x0D#8
  | .b64Fsub _ => 0x0E#8
  | .b64Fmul _ => 0x0F#8
  | .b64Fma _ => 0x10#8
  | .b64Fmin _ => 0x11#8
  | .b64Fmax _ => 0x12#8
  | .b64Fdiv _ => 0x13#8
  | .b64Frcp _ => 0x14#8
  | .b64Fsqrt _ => 0x15#8
  | .b64Fcvt _ => 0x16#8
  | .b64Seq _ => 0x17#8
  | .b64Slt _ => 0x18#8
  | .b64Sltn _ => 0x19#8
  | .b64Feq _ => 0x1A#8
  | .b64Flt _ => 0x1B#8
  | .b64Fle _ => 0x1C#8
  | .b64Pand _ => 0x1D#8
  | .b64Por _ => 0x1E#8
  | .b64Pnot _ => 0x1F#8
  | .b64Sel _ => 0x20#8
  | .b64Ld _ => 0x21#8
  | .b64St _ => 0x22#8
  | .b64Amoadd _ => 0x23#8
  | .b64Famoadd _ => 0x24#8
  | .b64Lsend _ => 0x25#8
  | .b64Lrecv _ => 0x26#8
  | .b64Stop _ => 0x27#8
  | .b64Next _ => 0x28#8
  | .b64Nextif _ => 0x29#8
  | .b64Nop _ => 0x2A#8
  | _ => 0xFF#8

/-- B64 shapes (R253 to R259). -/
def Instr.bshape : Instr → BShape
  | .b64Add _ => ⟨.eDst, .eSrc, .intSrc, .zero⟩
  | .b64Sub _ => ⟨.eDst, .eSrc, .intSrc, .zero⟩
  | .b64Mul _ => ⟨.eDst, .eSrc, .intSrc, .zero⟩
  | .b64Mulh _ => ⟨.eDst, .eSrc, .intSrc, .zero⟩
  | .b64And _ => ⟨.eDst, .eSrc, .intSrc, .zero⟩
  | .b64Or _ => ⟨.eDst, .eSrc, .intSrc, .zero⟩
  | .b64Xor _ => ⟨.eDst, .eSrc, .intSrc, .zero⟩
  | .b64Shl _ => ⟨.eDst, .eSrc, .intSrc, .zero⟩
  | .b64Shr _ => ⟨.eDst, .eSrc, .intSrc, .zero⟩
  | .b64Sra _ => ⟨.eDst, .eSrc, .intSrc, .zero⟩
  | .b64Min _ => ⟨.eDst, .eSrc, .intSrc, .zero⟩
  | .b64Max _ => ⟨.eDst, .eSrc, .intSrc, .zero⟩
  | .b64Li _ => ⟨.eDst, .none, .imm, .zero⟩
  | .b64Fadd _ => ⟨.eDst, .eSrc, .reg2, .round⟩
  | .b64Fsub _ => ⟨.eDst, .eSrc, .reg2, .round⟩
  | .b64Fmul _ => ⟨.eDst, .eSrc, .reg2, .round⟩
  | .b64Fma _ => ⟨.eDst, .eSrc, .reg3, .round⟩
  | .b64Fmin _ => ⟨.eDst, .eSrc, .reg2, .zero⟩
  | .b64Fmax _ => ⟨.eDst, .eSrc, .reg2, .zero⟩
  | .b64Fdiv _ => ⟨.eDst, .eSrc, .reg2, .round⟩
  | .b64Frcp _ => ⟨.eDst, .eSrc, .unary, .round⟩
  | .b64Fsqrt _ => ⟨.eDst, .eSrc, .unary, .round⟩
  | .b64Fcvt _ => ⟨.eDst, .eSrc, .cvt, .round⟩
  | .b64Seq _ => ⟨.pDst, .eSrc, .intSrc, .zero⟩
  | .b64Slt _ => ⟨.pDst, .eSrc, .intSrc, .zero⟩
  | .b64Sltn _ => ⟨.pDst, .eSrc, .intSrc, .zero⟩
  | .b64Feq _ => ⟨.pDst, .eSrc, .reg2, .zero⟩
  | .b64Flt _ => ⟨.pDst, .eSrc, .reg2, .zero⟩
  | .b64Fle _ => ⟨.pDst, .eSrc, .reg2, .zero⟩
  | .b64Pand _ => ⟨.pDst, .pSrc, .preds, .zero⟩
  | .b64Por _ => ⟨.pDst, .pSrc, .preds, .zero⟩
  | .b64Pnot _ => ⟨.pDst, .pSrc, .unary, .zero⟩
  | .b64Sel _ => ⟨.eDst, .eSrc, .selSrc, .zero⟩
  | .b64Ld _ => ⟨.eDst, .eSrc, .imm, .ldw⟩
  | .b64St _ => ⟨.eSrc, .eSrc, .imm, .stw⟩
  | .b64Amoadd _ => ⟨.eDst, .eSrc, .regImm, .zero⟩
  | .b64Famoadd _ => ⟨.eDst, .eSrc, .regImm, .zero⟩
  | .b64Lsend _ => ⟨.link, .eSrc, .unary, .zero⟩
  | .b64Lrecv _ => ⟨.eDst, .link, .unary, .zero⟩
  | .b64Stop _ => ⟨.none, .none, .unary, .zero⟩
  | .b64Next _ => ⟨.none, .target, .target, .zero⟩
  | .b64Nextif _ => ⟨.none, .target, .target, .zero⟩
  | .b64Nop _ => ⟨.none, .none, .unary, .zero⟩
  | _ => ⟨.none, .none, .unary, .zero⟩

/-- A packet offset: a multiple of 8 up to 0x78 (R399). -/
def packetOff (i : BitVec 16) : Bool := i.toNat % 8 == 0 && i.toNat ≤ 0x78
/-- A scratch offset: a multiple of 8 up to 0x38 (R399). -/
def scratchOff (i : BitVec 16) : Bool := i.toNat % 8 == 0 && i.toNat ≤ 0x38

/-- Whether the instruction's fields are ones its encoding admits. Rows without an encoding are
always well formed. -/
def fieldsOk (i : Instr) : Bool :=
  match i.t48? with
  | some o => i.shape.ok o
  | none =>
  match i.b64? with
  | some o => i.bshape.ok (i.b64Code == 0x27#8 || i.b64Code == 0x28#8) o
  | none =>
  match i with
  | .fence fm pr su _ _ => !(fm == 8#4 && pr == 3#4 && su == 3#4)
  | .crillLdp _ imm => packetOff imm
  | .crillStp _ imm => packetOff imm && imm != 0#16
  | .crillLds _ imm => scratchOff imm
  | .crillSts _ imm => scratchOff imm
  | .crillExt _ _ lsb wd => lsb.toNat + wd.toNat + 1 ≤ 64
  | .crillIns _ _ lsb wd => lsb.toNat + wd.toNat + 1 ≤ 64
  | .crillRep _ _ len => len != 0#8
  | .crillSigc _ imm => imm != 0#16
  | .crillPsnPlanes p => 1 ≤ p.toNat && p.toNat ≤ 7
  | _ => true

end Sys2Proof
end

