-- ==== Sys2Proof/WellFormed.lean ====
section
/-! DEFINITION. What a well-formed instruction is: one whose fields its encoding admits. The tables
behind it are in Machine/Shapes. -/

namespace Sys2Proof

/-- The static checks of R127, R130, R138 items 1 to 9, R140, R251 to R256 and R399 items 2, 5, 7
and 8. A check that needs the state is made when the instruction executes. -/
def Instr.wellFormed (i : Instr) : Bool := fieldsOk i

end Sys2Proof
end

