-- ==== Sys2Proof/Decode.lean ====
section
/-! DEFINITION. The decoder and, after it, the encoder: R124 to R141, R398, and the 32-bit encodings
of the ratified RISC-V specification (R127). Decoding is total; a word that is refused is refused by
name. Definitions that build an instruction whose constructor lies beyond the 244th are marked
noncomputable, because Lean's compiler has no tags for them; the kernel evaluates them all. -/

namespace Sys2Proof

/-- Why a word is no instruction. -/
inductive DecodeError where
  /-- R124: a length prefix of 64 bits or more, or fewer bytes than the length needs. -/
  | length
  /-- R127, R130, R138 item 1, R140, R401: no assigned operation. -/
  | unassigned
  /-- R130, R138 items 2 to 9, R140, R251, R399: an assigned operation with a field it does not admit. -/
  | badField
  deriving DecidableEq, Repr

/-- Instruction bytes as a little-endian unit (R3). -/
def leNat : List Byte → Nat
  | [] => 0
  | b :: t => b.toNat + 256 * leNat t

/-- The low n bytes of a number, little-endian (R3). -/
def natLe : Nat → Nat → List Byte
  | 0, _ => []
  | n + 1, v => BitVec.ofNat 8 v :: natLe n (v / 256)

/-! RISC-V, 32 bits. -/

/-- B-type immediate, bits [12:1]. -/
def immB (w : BitVec 32) : BitVec 12 :=
  w.extractLsb' 31 1 ++ w.extractLsb' 7 1 ++ w.extractLsb' 25 6 ++ w.extractLsb' 8 4
/-- J-type immediate, bits [20:1]. -/
def immJ (w : BitVec 32) : BitVec 20 :=
  w.extractLsb' 31 1 ++ w.extractLsb' 12 8 ++ w.extractLsb' 20 1 ++ w.extractLsb' 21 10
/-- S-type immediate. -/
def immS (w : BitVec 32) : BitVec 12 := w.extractLsb' 25 7 ++ w.extractLsb' 7 5

def decodeOpImm (f3 : BitVec 3) (rd rs1 : Reg) (imm : BitVec 12) : Option Instr :=
  match f3 with
  | 0#3 => some (.addi rd rs1 imm)
  | 1#3 => if imm.extractLsb' 6 6 = 0#6 then some (.slli rd rs1 (imm.extractLsb' 0 6)) else none
  | 2#3 => some (.slti rd rs1 imm)
  | 3#3 => some (.sltiu rd rs1 imm)
  | 4#3 => some (.xori rd rs1 imm)
  | 5#3 =>
    if imm.extractLsb' 6 6 = 0#6 then some (.srli rd rs1 (imm.extractLsb' 0 6))
    else if imm.extractLsb' 6 6 = 0x10#6 then some (.srai rd rs1 (imm.extractLsb' 0 6)) else none
  | 6#3 => some (.ori rd rs1 imm)
  | _ => some (.andi rd rs1 imm)

def decodeOp (f7 : BitVec 7) (f3 : BitVec 3) (rd rs1 rs2 : Reg) : Option Instr :=
  match f7 with
  | 0#7 => match f3 with
    | 0#3 => some (.add rd rs1 rs2) | 1#3 => some (.sll rd rs1 rs2) | 2#3 => some (.slt rd rs1 rs2)
    | 3#3 => some (.sltu rd rs1 rs2) | 4#3 => some (.xor rd rs1 rs2) | 5#3 => some (.srl rd rs1 rs2)
    | 6#3 => some (.or rd rs1 rs2) | _ => some (.and rd rs1 rs2)
  | 0x20#7 => match f3 with
    | 0#3 => some (.sub rd rs1 rs2) | 5#3 => some (.sra rd rs1 rs2) | _ => none
  | 1#7 => match f3 with
    | 0#3 => some (.mul rd rs1 rs2) | 1#3 => some (.mulh rd rs1 rs2) | 2#3 => some (.mulhsu rd rs1 rs2)
    | 3#3 => some (.mulhu rd rs1 rs2) | 4#3 => some (.div rd rs1 rs2) | 5#3 => some (.divu rd rs1 rs2)
    | 6#3 => some (.rem rd rs1 rs2) | _ => some (.remu rd rs1 rs2)
  | _ => none

def decodeOp32 (f7 : BitVec 7) (f3 : BitVec 3) (rd rs1 rs2 : Reg) : Option Instr :=
  match f7 with
  | 0#7 => match f3 with
    | 0#3 => some (.addw rd rs1 rs2) | 1#3 => some (.sllw rd rs1 rs2) | 5#3 => some (.srlw rd rs1 rs2)
    | _ => none
  | 0x20#7 => match f3 with
    | 0#3 => some (.subw rd rs1 rs2) | 5#3 => some (.sraw rd rs1 rs2) | _ => none
  | 1#7 => match f3 with
    | 0#3 => some (.mulw rd rs1 rs2) | 4#3 => some (.divw rd rs1 rs2) | 5#3 => some (.divuw rd rs1 rs2)
    | 6#3 => some (.remw rd rs1 rs2) | 7#3 => some (.remuw rd rs1 rs2) | _ => none
  | _ => none

def decodeOpImm32 (f3 : BitVec 3) (f7 : BitVec 7) (rd rs1 sh : Reg) (imm : BitVec 12) : Option Instr :=
  match f3 with
  | 0#3 => some (.addiw rd rs1 imm)
  | 1#3 => if f7 = 0#7 then some (.slliw rd rs1 sh) else none
  | 5#3 => if f7 = 0#7 then some (.srliw rd rs1 sh)
           else if f7 = 0x20#7 then some (.sraiw rd rs1 sh) else none
  | _ => none

/-- The A operations; the pair is (W, D). -/
def decodeAmo (f5 : BitVec 5) (dbl aq rl : Bool) (rd rs1 rs2 : Reg) : Option Instr :=
  match f5 with
  | 0x02#5 => if rs2 = 0#5 then some (if dbl then .lrD aq rl rd rs1 else .lrW aq rl rd rs1) else none
  | 0x03#5 => some (if dbl then .scD aq rl rd rs1 rs2 else .scW aq rl rd rs1 rs2)
  | 0x01#5 => some (if dbl then .amoswapD aq rl rd rs1 rs2 else .amoswapW aq rl rd rs1 rs2)
  | 0x00#5 => some (if dbl then .amoaddD aq rl rd rs1 rs2 else .amoaddW aq rl rd rs1 rs2)
  | 0x04#5 => some (if dbl then .amoxorD aq rl rd rs1 rs2 else .amoxorW aq rl rd rs1 rs2)
  | 0x0C#5 => some (if dbl then .amoandD aq rl rd rs1 rs2 else .amoandW aq rl rd rs1 rs2)
  | 0x08#5 => some (if dbl then .amoorD aq rl rd rs1 rs2 else .amoorW aq rl rd rs1 rs2)
  | 0x10#5 => some (if dbl then .amominD aq rl rd rs1 rs2 else .amominW aq rl rd rs1 rs2)
  | 0x14#5 => some (if dbl then .amomaxD aq rl rd rs1 rs2 else .amomaxW aq rl rd rs1 rs2)
  | 0x18#5 => some (if dbl then .amominuD aq rl rd rs1 rs2 else .amominuW aq rl rd rs1 rs2)
  | 0x1C#5 => some (if dbl then .amomaxuD aq rl rd rs1 rs2 else .amomaxuW aq rl rd rs1 rs2)
  | _ => none

def decodeSystem (w : BitVec 32) (f3 : BitVec 3) (rd rs1 rs2 : Reg) : Option Instr :=
  let csr := w.extractLsb' 20 12
  match f3 with
  | 0#3 =>
    if w = 0x00000073#32 then some .ecall
    else if w = 0x00100073#32 then some .ebreak
    else if w = 0x10200073#32 then some .sret
    else if w = 0x10500073#32 then some .wfi
    else if w.extractLsb' 25 7 = 0x09#7 ∧ rd = 0#5 then some (.sfenceVma rs1 rs2)
    else none
  | 1#3 => some (.csrrw rd rs1 csr)
  | 2#3 => some (.csrrs rd rs1 csr)
  | 3#3 => some (.csrrc rd rs1 csr)
  | 5#3 => some (.csrrwi rd rs1 csr)
  | 6#3 => some (.csrrsi rd rs1 csr)
  | 7#3 => some (.csrrci rd rs1 csr)
  | _ => none

/-- The assigned 32-bit encodings (R127, R152). -/
def decodeRv (w : BitVec 32) : Option Instr :=
  let rd := w.extractLsb' 7 5
  let f3 := w.extractLsb' 12 3
  let rs1 := w.extractLsb' 15 5
  let rs2 := w.extractLsb' 20 5
  let f7 := w.extractLsb' 25 7
  let immI := w.extractLsb' 20 12
  match w.extractLsb' 0 7 with
  | 0x37#7 => some (.lui rd (w.extractLsb' 12 20))
  | 0x17#7 => some (.auipc rd (w.extractLsb' 12 20))
  | 0x6F#7 => some (.jal rd (immJ w))
  | 0x67#7 => if f3 = 0#3 then some (.jalr rd rs1 immI) else none
  | 0x63#7 => match f3 with
    | 0#3 => some (.beq rs1 rs2 (immB w)) | 1#3 => some (.bne rs1 rs2 (immB w))
    | 4#3 => some (.blt rs1 rs2 (immB w)) | 5#3 => some (.bge rs1 rs2 (immB w))
    | 6#3 => some (.bltu rs1 rs2 (immB w)) | 7#3 => some (.bgeu rs1 rs2 (immB w))
    | _ => none
  | 0x03#7 => match f3 with
    | 0#3 => some (.lb rd rs1 immI) | 1#3 => some (.lh rd rs1 immI) | 2#3 => some (.lw rd rs1 immI)
    | 3#3 => some (.ld rd rs1 immI) | 4#3 => some (.lbu rd rs1 immI) | 5#3 => some (.lhu rd rs1 immI)
    | 6#3 => some (.lwu rd rs1 immI) | _ => none
  | 0x23#7 => match f3 with
    | 0#3 => some (.sb rs1 rs2 (immS w)) | 1#3 => some (.sh rs1 rs2 (immS w))
    | 2#3 => some (.sw rs1 rs2 (immS w)) | 3#3 => some (.sd rs1 rs2 (immS w))
    | _ => none
  | 0x13#7 => decodeOpImm f3 rd rs1 immI
  | 0x33#7 => decodeOp f7 f3 rd rs1 rs2
  | 0x1B#7 => decodeOpImm32 f3 f7 rd rs1 rs2 immI
  | 0x3B#7 => decodeOp32 f7 f3 rd rs1 rs2
  | 0x0F#7 => match f3 with
    | 0#3 =>
      let fm := w.extractLsb' 28 4
      let pr := w.extractLsb' 24 4
      let su := w.extractLsb' 20 4
      if fm = 8#4 ∧ pr = 3#4 ∧ su = 3#4 then some (.fenceTso rd rs1) else some (.fence fm pr su rd rs1)
    | 1#3 => some (.fenceI rd rs1 immI)
    | _ => none
  | 0x2F#7 =>
    let aq := w.getLsbD 26
    let rl := w.getLsbD 25
    match f3 with
    | 2#3 => decodeAmo (w.extractLsb' 27 5) false aq rl rd rs1 rs2
    | 3#3 => decodeAmo (w.extractLsb' 27 5) true aq rl rd rs1 rs2
    | _ => none
  | 0x73#7 => decodeSystem w f3 rd rs1 rs2
  | _ => none

/-! K16 (R129, R130). -/
def decodeK16 (w : BitVec 16) : Option Instr :=
  let vs := w.extractLsb' 2 5
  let vt := w.extractLsb' 7 5
  let one (i : Instr) : Option Instr := if vt = 0#5 then some i else none
  let immed (i : Instr) : Option Instr := if vs = 0#5 then some i else none
  match w.extractLsb' 0 2, w.extractLsb' 12 4 with
  | 0#2, 1#4 => one (.vfaddK vs)
  | 0#2, 2#4 => one (.vfsubK vs)
  | 0#2, 3#4 => one (.vfmulK vs)
  | 0#2, 4#4 => some (.vfmaK vs vt)
  | 0#2, 5#4 => one (.vfmaxK vs)
  | 0#2, 6#4 => one (.vfminK vs)
  | 1#2, 1#4 => one (.vaddK vs)
  | 1#2, 2#4 => one (.vsubK vs)
  | 1#2, 3#4 => one (.vandK vs)
  | 1#2, 4#4 => one (.vorK vs)
  | 1#2, 5#4 => one (.vxorK vs)
  | 1#2, 6#4 => immed (.vsllK vt)
  | 1#2, 7#4 => immed (.vsraK vt)
  | 2#2, 1#4 => one (.vmvK vs)
  | 2#2, 2#4 => immed (.vslideupK vt)
  | 2#2, 3#4 => immed (.vslidednK vt)
  | _, _ => none

/-! T48 (R134). -/

def t48Fields (w : BitVec 48) : T48 :=
  { aux := w.extractLsb' 40 8, rep := w.extractLsb' 38 2, fb := w.getLsbD 37, fa := w.getLsbD 36
    gm := w.extractLsb' 33 3, b := w.extractLsb' 28 5, a := w.extractLsb' 23 5, d := w.extractLsb' 18 5 }

def ctorVcfg (op : BitVec 6) (o : T48) : Option Instr :=
  match op with
  | 0x00#6 => some (.vsetl o)
  | 0x01#6 => some (.vsetlr o)
  | 0x02#6 => some (.vloopSeq o)
  | 0x03#6 => some (.vloopInd o)
  | 0x04#6 => some (.vnext o)
  | 0x05#6 => some (.vsidx o)
  | 0x06#6 => some (.vidx o)
  | 0x07#6 => some (.lpset o)
  | 0x08#6 => some (.wbase o)
  | _ => none

def ctorUctl (op : BitVec 6) (o : T48) : Option Instr :=
  match op with
  | 0x00#6 => some (.vfetch o)
  | 0x01#6 => some (.vfetchr o)
  | 0x02#6 => some (.uwait o)
  | 0x03#6 => some (.ufstat o)
  | 0x04#6 => some (.uresume o)
  | 0x05#6 => some (.ukill o)
  | 0x06#6 => some (.vlinkin o)
  | 0x07#6 => some (.vlinkout o)
  | _ => none

def ctorVfa (op : BitVec 6) (o : T48) : Option Instr :=
  match op with
  | 0x00#6 => some (.vfadd o)
  | 0x01#6 => some (.vfsub o)
  | 0x02#6 => some (.vfmul o)
  | 0x03#6 => some (.vfma o)
  | 0x04#6 => some (.vfms o)
  | 0x05#6 => some (.vfnma o)
  | 0x06#6 => some (.vfmin o)
  | 0x07#6 => some (.vfmax o)
  | 0x08#6 => some (.vfdiv o)
  | 0x09#6 => some (.vfsqrt o)
  | 0x0A#6 => some (.vfrcp o)
  | 0x0B#6 => some (.vfrsq o)
  | 0x0C#6 => some (.vfexp2 o)
  | 0x0D#6 => some (.vflog2 o)
  | 0x0E#6 => some (.vfabs o)
  | 0x0F#6 => some (.vfneg o)
  | 0x10#6 => some (.vfsgn o)
  | 0x11#6 => some (.vfcvt o)
  | 0x12#6 => some (.vfclass o)
  | 0x13#6 => some (.vfeq o)
  | 0x14#6 => some (.vflt o)
  | 0x15#6 => some (.vfle o)
  | _ => none

def ctorVia (op : BitVec 6) (o : T48) : Option Instr :=
  match op with
  | 0x00#6 => some (.vadd o)
  | 0x01#6 => some (.vsub o)
  | 0x02#6 => some (.vmul o)
  | 0x03#6 => some (.vmulh o)
  | 0x04#6 => some (.vmulhn o)
  | 0x05#6 => some (.vand o)
  | 0x06#6 => some (.vor o)
  | 0x07#6 => some (.vxor o)
  | 0x08#6 => some (.vsll o)
  | 0x09#6 => some (.vsrl o)
  | 0x0A#6 => some (.vsra o)
  | 0x0B#6 => some (.vmin o)
  | 0x0C#6 => some (.vmax o)
  | 0x0D#6 => some (.vminn o)
  | 0x0E#6 => some (.vmaxn o)
  | 0x0F#6 => some (.vseq o)
  | 0x10#6 => some (.vslt o)
  | 0x11#6 => some (.vsltn o)
  | 0x12#6 => some (.vmerge o)
  | 0x13#6 => some (.vmvs o)
  | 0x14#6 => some (.vmvx o)
  | _ => none

def ctorVperm (op : BitVec 6) (o : T48) : Option Instr :=
  match op with
  | 0x00#6 => some (.vslideup o)
  | 0x01#6 => some (.vslidedn o)
  | 0x02#6 => some (.vrgather o)
  | 0x03#6 => some (.vcompress o)
  | 0x04#6 => some (.vexpand o)
  | 0x05#6 => some (.vbcast o)
  | 0x06#6 => some (.vxchg o)
  | 0x07#6 => some (.vmv o)
  | _ => none

def ctorVred (op : BitVec 6) (o : T48) : Option Instr :=
  match op with
  | 0x00#6 => some (.vfredo o)
  | 0x01#6 => some (.vfredt o)
  | 0x02#6 => some (.vfredmax o)
  | 0x03#6 => some (.vfredmin o)
  | 0x04#6 => some (.vredsum o)
  | 0x05#6 => some (.vredmax o)
  | 0x06#6 => some (.vredmin o)
  | _ => none

def ctorVmask (op : BitVec 6) (o : T48) : Option Instr :=
  match op with
  | 0x00#6 => some (.mand o)
  | 0x01#6 => some (.mor o)
  | 0x02#6 => some (.mxor o)
  | 0x03#6 => some (.mandn o)
  | 0x04#6 => some (.mnot o)
  | 0x05#6 => some (.mpopc o)
  | 0x06#6 => some (.mfirst o)
  | 0x07#6 => some (.mset o)
  | 0x08#6 => some (.mclr o)
  | _ => none

def ctorVmem (op : BitVec 6) (o : T48) : Option Instr :=
  match op with
  | 0x00#6 => some (.vld o)
  | 0x01#6 => some (.vst o)
  | 0x02#6 => some (.vlds o)
  | 0x03#6 => some (.vsts o)
  | 0x04#6 => some (.vldx o)
  | 0x05#6 => some (if o.aux.getLsbD 6 then .vstxO o else .vstxU o)
  | 0x06#6 => some (.vgl o)
  | 0x07#6 => some (.vsc o)
  | 0x08#6 => some (.vcappend o)
  | _ => none

def ctorVamo (op : BitVec 6) (o : T48) : Option Instr :=
  match op with
  | 0x00#6 => some (.vamoadd o)
  | 0x01#6 => some (.vamofadd o)
  | 0x02#6 => some (.vamomin o)
  | 0x03#6 => some (.vamomax o)
  | 0x04#6 => some (.vamoand o)
  | 0x05#6 => some (.vamoor o)
  | 0x06#6 => some (.vamoxor o)
  | 0x07#6 => some (.vamoswap o)
  | _ => none

def ctorStream (op : BitVec 6) (o : T48) : Option Instr :=
  match op with
  | 0x00#6 => some (.sbind o)
  | 0x01#6 => some (.sunbind o)
  | 0x02#6 => some (.ssync o)
  | 0x03#6 => some (.sskip o)
  | 0x04#6 => some (.spos o)
  | _ => none

def ctorWin (op : BitVec 6) (o : T48) : Option Instr :=
  match op with
  | 0x00#6 => some (.wbind o)
  | 0x01#6 => some (.wunbind o)
  | 0x02#6 => some (.winval o)
  | 0x03#6 => some (.wquery o)
  | _ => none

def ctorTile (op : BitVec 6) (o : T48) : Option Instr :=
  match op with
  | 0x00#6 => some (.trow o)
  | 0x01#6 => some (.tcol o)
  | 0x02#6 => some (.tld o)
  | 0x03#6 => some (.tst o)
  | 0x04#6 => some (.tzero o)
  | 0x05#6 => some (.tfull o)
  | 0x06#6 => some (.tempty o)
  | _ => none

def ctorMat (op : BitVec 6) (o : T48) : Option Instr :=
  match op with
  | 0x00#6 => some (.mma o)
  | 0x01#6 => some (.mmas o)
  | 0x02#6 => some (.pload o)
  | 0x03#6 => some (.pzero o)
  | 0x04#6 => some (.mscl o)
  | 0x05#6 => some (.msync o)
  | 0x06#6 => some (.mwait o)
  | _ => none

noncomputable def ctorCruc (op : BitVec 6) (o : T48) : Option Instr :=
  match op with
  | 0x00#6 => some (.czero o)
  | 0x01#6 => some (.cacc o)
  | 0x02#6 => some (.cread o)
  | 0x03#6 => some (.cdrain o)
  | 0x04#6 => some (.cwait o)
  | 0x05#6 => some (.cquery o)
  | _ => none

noncomputable def ctorRegion (op : BitVec 6) (o : T48) : Option Instr :=
  match op with
  | 0x00#6 => some (.gld o)
  | 0x01#6 => some (.gsc o)
  | 0x02#6 => some (.kvld o)
  | 0x03#6 => some (.kvst o)
  | 0x04#6 => some (.kvfork o)
  | _ => none

noncomputable def ctorSync (op : BitVec 6) (o : T48) : Option Instr :=
  match op with
  | 0x00#6 => some (.fenceRel o)
  | 0x01#6 => some (.fenceAcq o)
  | 0x02#6 => some (.fenceSc o)
  | 0x03#6 => some (.lsync o)
  | 0x04#6 => some (.pwait o)
  | 0x05#6 => some (.ppt o)
  | 0x06#6 => some (.ubar o)
  | 0x07#6 => some (.msig o)
  | 0x08#6 => some (.mwaitv o)
  | 0x09#6 => some (.kend o)
  | _ => none

noncomputable def ctorEngine (op : BitVec 6) (o : T48) : Option Instr :=
  match op with
  | 0x00#6 => some (.ebatch o)
  | 0x01#6 => some (.cpy o)
  | 0x02#6 => some (.ewait o)
  | 0x03#6 => some (.uiset o)
  | 0x04#6 => some (.uiret o)
  | 0x05#6 => some (.uimask o)
  | 0x06#6 => some (.qput o)
  | 0x07#6 => some (.qtail o)
  | 0x08#6 => some (.qwait o)
  | 0x09#6 => some (.bkset o)
  | 0x0A#6 => some (.hcallOther o)
  | _ => none

noncomputable def ctorSys (op : BitVec 6) (o : T48) : Option Instr :=
  match op with
  | 0x00#6 => some (.xsave o)
  | 0x01#6 => some (.xrest o)
  | 0x02#6 => some (.mfset o)
  | 0x03#6 => some (.vrstset o)
  | _ => none

/-- The instruction of an assigned grp and op (R141). `hcall` is one encoding for three rows; which
row it is depends on xA (R318), and `selectRow` of Step settles it. -/
noncomputable def t48Ctor (grp op : BitVec 6) (o : T48) : Option Instr :=
  match grp with
  | 0x01#6 => ctorVcfg op o
  | 0x02#6 => ctorUctl op o
  | 0x04#6 => ctorVfa op o
  | 0x05#6 => ctorVia op o
  | 0x06#6 => ctorVperm op o
  | 0x07#6 => ctorVred op o
  | 0x08#6 => ctorVmask op o
  | 0x0C#6 => ctorVmem op o
  | 0x0D#6 => ctorVamo op o
  | 0x0E#6 => ctorStream op o
  | 0x0F#6 => ctorWin op o
  | 0x10#6 => ctorTile op o
  | 0x11#6 => ctorMat op o
  | 0x12#6 => ctorCruc op o
  | 0x14#6 => ctorRegion op o
  | 0x18#6 => ctorSync op o
  | 0x19#6 => ctorEngine op o
  | 0x1C#6 => ctorSys op o
  | _ => none

noncomputable def decodeT48 (w : BitVec 48) : Option Instr :=
  t48Ctor (w.extractLsb' 6 6) (w.extractLsb' 12 6) (t48Fields w)

/-! B64 (R139). -/

def b64Fields (w : BitVec 64) : B64 :=
  { imm := w.extractLsb' 40 24, fmt := w.extractLsb' 36 4, pneg := w.getLsbD 35
    pred := w.extractLsb' 32 3, c := w.extractLsb' 26 6, b := w.extractLsb' 20 6
    a := w.extractLsb' 14 6, d := w.extractLsb' 8 6 }

noncomputable def b64Ctor (op : BitVec 8) (o : B64) : Option Instr :=
  match op with
  | 0x00#8 => some (.b64Add o)
  | 0x01#8 => some (.b64Sub o)
  | 0x02#8 => some (.b64Mul o)
  | 0x03#8 => some (.b64Mulh o)
  | 0x04#8 => some (.b64And o)
  | 0x05#8 => some (.b64Or o)
  | 0x06#8 => some (.b64Xor o)
  | 0x07#8 => some (.b64Shl o)
  | 0x08#8 => some (.b64Shr o)
  | 0x09#8 => some (.b64Sra o)
  | 0x0A#8 => some (.b64Min o)
  | 0x0B#8 => some (.b64Max o)
  | 0x0C#8 => some (.b64Li o)
  | 0x0D#8 => some (.b64Fadd o)
  | 0x0E#8 => some (.b64Fsub o)
  | 0x0F#8 => some (.b64Fmul o)
  | 0x10#8 => some (.b64Fma o)
  | 0x11#8 => some (.b64Fmin o)
  | 0x12#8 => some (.b64Fmax o)
  | 0x13#8 => some (.b64Fdiv o)
  | 0x14#8 => some (.b64Frcp o)
  | 0x15#8 => some (.b64Fsqrt o)
  | 0x16#8 => some (.b64Fcvt o)
  | 0x17#8 => some (.b64Seq o)
  | 0x18#8 => some (.b64Slt o)
  | 0x19#8 => some (.b64Sltn o)
  | 0x1A#8 => some (.b64Feq o)
  | 0x1B#8 => some (.b64Flt o)
  | 0x1C#8 => some (.b64Fle o)
  | 0x1D#8 => some (.b64Pand o)
  | 0x1E#8 => some (.b64Por o)
  | 0x1F#8 => some (.b64Pnot o)
  | 0x20#8 => some (.b64Sel o)
  | 0x21#8 => some (.b64Ld o)
  | 0x22#8 => some (.b64St o)
  | 0x23#8 => some (.b64Amoadd o)
  | 0x24#8 => some (.b64Famoadd o)
  | 0x25#8 => some (.b64Lsend o)
  | 0x26#8 => some (.b64Lrecv o)
  | 0x27#8 => some (.b64Stop o)
  | 0x28#8 => some (.b64Next o)
  | 0x29#8 => some (.b64Nextif o)
  | 0x2A#8 => some (.b64Nop o)
  | _ => none

noncomputable def decodeB64 (w : BitVec 64) : Option Instr := b64Ctor (w.extractLsb' 0 8) (b64Fields w)

/-! Crill (R398, R401). -/

/-- Whether the operation is assigned and the fields it does not use are zero. -/
def crillFits (op : BitVec 8) (qd qa : BitVec 4) (imm : BitVec 16) : Bool :=
  let aZero := qa == 0#4
  let bare := qd == 0#4 && aZero
  let low (n : Nat) : Bool := imm.toNat < 2 ^ n
  match op with
  | 0x01#8 | 0x02#8 | 0x10#8 | 0x11#8 | 0x12#8 | 0x13#8 | 0x1D#8 => aZero
  | 0x03#8 | 0x09#8 | 0x18#8 | 0x19#8 | 0x1A#8 | 0x1B#8 => true
  | 0x04#8 | 0x05#8 | 0x06#8 | 0x07#8 | 0x08#8 | 0x0C#8 | 0x0D#8 | 0x20#8 | 0x22#8 | 0x23#8 => imm == 0#16
  | 0x0A#8 | 0x0B#8 => low 6
  | 0x0E#8 | 0x0F#8 => imm.extractLsb' 14 2 == 0#2 && imm.extractLsb' 6 2 == 0#2
  | 0x14#8 => low 2
  | 0x1C#8 => bare
  | 0x21#8 => qd == 0#4
  | 0x24#8 => qd == 0#4 && low 2
  | 0x25#8 => bare && low 12 && imm.extractLsb' 2 6 == 0#6 &&
    (match imm.extractLsb' 0 2 with
      | 0#2 | 1#2 => imm.extractLsb' 8 4 == 0#4
      | 2#2 => true
      | _ => false)
  | 0x26#8 | 0x27#8 => bare && low 1
  | 0x28#8 | 0x29#8 => aZero && imm == 0#16
  | _ => false

noncomputable def crillCtor (op : BitVec 8) (qd qa : BitVec 4) (imm : BitVec 16) : Option Instr :=
  match op with
  | 0x01#8 => some (.crillLi qd imm)
  | 0x02#8 => some (.crillLhi qd imm)
  | 0x03#8 => some (.crillAddi qd qa imm)
  | 0x04#8 => some (.crillAdd qd qa)
  | 0x05#8 => some (.crillSub qd qa)
  | 0x06#8 => some (.crillAnd qd qa)
  | 0x07#8 => some (.crillOr qd qa)
  | 0x08#8 => some (.crillXor qd qa)
  | 0x09#8 => some (.crillAndi qd qa imm)
  | 0x0A#8 => some (.crillShl qd qa (imm.extractLsb' 0 6))
  | 0x0B#8 => some (.crillShr qd qa (imm.extractLsb' 0 6))
  | 0x0C#8 => some (.crillMaxu qd qa)
  | 0x0D#8 => some (.crillMinu qd qa)
  | 0x0E#8 => some (.crillExt qd qa (imm.extractLsb' 8 6) (imm.extractLsb' 0 6))
  | 0x0F#8 => some (.crillIns qd qa (imm.extractLsb' 8 6) (imm.extractLsb' 0 6))
  | 0x10#8 => some (.crillLdp qd imm)
  | 0x11#8 => some (.crillStp qd imm)
  | 0x12#8 => some (.crillLds qd imm)
  | 0x13#8 => some (.crillSts qd imm)
  | 0x14#8 => some (.crillLdt qd qa (imm.extractLsb' 0 2))
  | 0x18#8 => some (.crillBeq qd qa imm)
  | 0x19#8 => some (.crillBne qd qa imm)
  | 0x1A#8 => some (.crillBltu qd qa imm)
  | 0x1B#8 => some (.crillBgeu qd qa imm)
  | 0x1C#8 => some (.crillJ imm)
  | 0x1D#8 => some (.crillRep qd (imm.extractLsb' 8 8) (imm.extractLsb' 0 8))
  | 0x20#8 => some (.crillRdc qd qa)
  | 0x21#8 => some (.crillSigc qa imm)
  | 0x22#8 => some (.crillSetc qd qa)
  | 0x23#8 => some (.crillWaitc qd qa)
  | 0x24#8 => some (.crillCancel qa (imm.extractLsb' 0 2))
  | 0x25#8 => some (match imm.extractLsb' 0 2 with
      | 0#2 => .crillPsnFail
      | 1#2 => .crillPsnSkip
      | _ => .crillPsnPlanes (imm.extractLsb' 8 4))
  | 0x26#8 => some (.crillWeld (imm.extractLsb' 0 1))
  | 0x27#8 => some (if imm = 0#16 then .crillEnd else .crillEndCancel)
  | 0x28#8 => some (.crillTime qd)
  | 0x29#8 => some (.crillIdx qd)
  | _ => none

noncomputable def decodeCrill (w : BitVec 32) : Option Instr :=
  let op := w.extractLsb' 24 8
  let qd := w.extractLsb' 20 4
  let qa := w.extractLsb' 16 4
  let imm := w.extractLsb' 0 16
  if crillFits op qd qa imm then crillCtor op qd qa imm else none

/-! The whole decoder. -/

/-- An instruction is decoded when its operation is assigned and its fields are admitted. -/
def checked : Option Instr → Except DecodeError Instr
  | none => .error .unassigned
  | some i => if i.wellFormed then .ok i else .error .badField

/-- The length in bytes that the first halfword gives (R124); 0 for the prefixes of 64 bits and more. -/
def lengthOf (h : BitVec 16) : Nat :=
  if h.extractLsb' 0 2 ≠ 3#2 then 2
  else if h.extractLsb' 2 3 ≠ 7#3 then 4
  else if h.extractLsb' 0 6 = 0x1F#6 then 6
  else 0

/-- A CT or MS instruction from its bytes, and the bytes after it (R124). -/
noncomputable def decode (bs : List Byte) : Except DecodeError (Instr × List Byte) :=
  match lengthOf (BitVec.ofNat 16 (leNat (bs.take 2))) with
  | 2 => if bs.length < 2 then .error .length else
    (checked (decodeK16 (BitVec.ofNat 16 (leNat (bs.take 2))))).map (·, bs.drop 2)
  | 4 => if bs.length < 4 then .error .length else
    (checked (decodeRv (BitVec.ofNat 32 (leNat (bs.take 4))))).map (·, bs.drop 4)
  | 6 => if bs.length < 6 then .error .length else
    (checked (decodeT48 (BitVec.ofNat 48 (leNat (bs.take 6))))).map (·, bs.drop 6)
  | _ => .error .length

/-- A micro-thread instruction from its 8 bytes (R139). -/
noncomputable def decodeBlock (w : BitVec 64) : Except DecodeError Instr := checked (decodeB64 w)

/-- A word of a queue program (R398). What else a program must keep to is verified when it is loaded (R399). -/
noncomputable def decodeQueue (w : BitVec 32) : Except DecodeError Instr :=
  match decodeCrill w with
  | some i => .ok i
  | none => .error .unassigned

/-- The bits R125 puts in the trap value: the instruction's, or the first 32 of a longer prefix. -/
def illegalBits (bs : List Byte) : BitVec 64 :=
  match lengthOf (BitVec.ofNat 16 (leNat (bs.take 2))) with
  | 0 => BitVec.ofNat 64 (leNat (bs.take 4))
  | n => BitVec.ofNat 64 (leNat (bs.take n))

/-- The table gives bits to the K16 rows (16) and the Crill rows (32) only; a 32-bit word that is no
Crill instruction is read as RISC-V, and 48 and 64 bits as T48 and B64. -/
noncomputable def decodeTableWord (nbits w : Nat) : Option Instr :=
  let run (r : Except DecodeError (Instr × List Byte)) : Option Instr :=
    match r with | .ok (i, _) => some i | .error _ => none
  match nbits with
  | 16 => run (decode (natLe 2 w))
  | 32 => match decodeQueue (BitVec.ofNat 32 w) with
    | .ok i => some i
    | .error _ => run (decode (natLe 4 w))
  | 48 => run (decode (natLe 6 w))
  | 64 => match decodeBlock (BitVec.ofNat 64 w) with
    | .ok i => some i
    | .error _ => none
  | _ => none

/-! The encoder, from the same tables. -/

def encR (f7 : BitVec 7) (rs2 rs1 : Reg) (f3 : BitVec 3) (rd : Reg) (opc : BitVec 7) : BitVec 32 :=
  f7 ++ rs2 ++ rs1 ++ f3 ++ rd ++ opc
def encI (imm : BitVec 12) (rs1 : Reg) (f3 : BitVec 3) (rd : Reg) (opc : BitVec 7) : BitVec 32 :=
  imm ++ rs1 ++ f3 ++ rd ++ opc
def encS (imm : BitVec 12) (rs2 rs1 : Reg) (f3 : BitVec 3) : BitVec 32 :=
  imm.extractLsb' 5 7 ++ rs2 ++ rs1 ++ f3 ++ imm.extractLsb' 0 5 ++ 0x23#7
def encB (imm : BitVec 12) (rs2 rs1 : Reg) (f3 : BitVec 3) : BitVec 32 :=
  imm.extractLsb' 11 1 ++ imm.extractLsb' 4 6 ++ rs2 ++ rs1 ++ f3 ++ imm.extractLsb' 0 4 ++
    imm.extractLsb' 10 1 ++ 0x63#7
def encU (imm : BitVec 20) (rd : Reg) (opc : BitVec 7) : BitVec 32 := imm ++ rd ++ opc
def encJ (imm : BitVec 20) (rd : Reg) : BitVec 32 :=
  imm.extractLsb' 19 1 ++ imm.extractLsb' 0 10 ++ imm.extractLsb' 10 1 ++ imm.extractLsb' 11 8 ++ rd ++ 0x6F#7
def encA (f5 : BitVec 5) (aq rl : Bool) (rs2 rs1 : Reg) (f3 : BitVec 3) (rd : Reg) : BitVec 32 :=
  f5 ++ BitVec.ofBool aq ++ BitVec.ofBool rl ++ rs2 ++ rs1 ++ f3 ++ rd ++ 0x2F#7

/-- The word of a RISC-V instruction. -/
def encodeRv : Instr → Option (BitVec 32)
  | .lui rd imm => some (encU imm rd 0x37#7)
  | .auipc rd imm => some (encU imm rd 0x17#7)
  | .jal rd imm => some (encJ imm rd)
  | .jalr rd rs1 imm => some (encI imm rs1 0#3 rd 0x67#7)
  | .beq rs1 rs2 imm => some (encB imm rs2 rs1 0#3)
  | .bne rs1 rs2 imm => some (encB imm rs2 rs1 1#3)
  | .blt rs1 rs2 imm => some (encB imm rs2 rs1 4#3)
  | .bge rs1 rs2 imm => some (encB imm rs2 rs1 5#3)
  | .bltu rs1 rs2 imm => some (encB imm rs2 rs1 6#3)
  | .bgeu rs1 rs2 imm => some (encB imm rs2 rs1 7#3)
  | .lb rd rs1 imm => some (encI imm rs1 0#3 rd 0x03#7)
  | .lh rd rs1 imm => some (encI imm rs1 1#3 rd 0x03#7)
  | .lw rd rs1 imm => some (encI imm rs1 2#3 rd 0x03#7)
  | .ld rd rs1 imm => some (encI imm rs1 3#3 rd 0x03#7)
  | .lbu rd rs1 imm => some (encI imm rs1 4#3 rd 0x03#7)
  | .lhu rd rs1 imm => some (encI imm rs1 5#3 rd 0x03#7)
  | .lwu rd rs1 imm => some (encI imm rs1 6#3 rd 0x03#7)
  | .sb rs1 rs2 imm => some (encS imm rs2 rs1 0#3)
  | .sh rs1 rs2 imm => some (encS imm rs2 rs1 1#3)
  | .sw rs1 rs2 imm => some (encS imm rs2 rs1 2#3)
  | .sd rs1 rs2 imm => some (encS imm rs2 rs1 3#3)
  | .addi rd rs1 imm => some (encI imm rs1 0#3 rd 0x13#7)
  | .slti rd rs1 imm => some (encI imm rs1 2#3 rd 0x13#7)
  | .sltiu rd rs1 imm => some (encI imm rs1 3#3 rd 0x13#7)
  | .xori rd rs1 imm => some (encI imm rs1 4#3 rd 0x13#7)
  | .ori rd rs1 imm => some (encI imm rs1 6#3 rd 0x13#7)
  | .andi rd rs1 imm => some (encI imm rs1 7#3 rd 0x13#7)
  | .slli rd rs1 sh => some (encI (0x00#6 ++ sh) rs1 1#3 rd 0x13#7)
  | .srli rd rs1 sh => some (encI (0x00#6 ++ sh) rs1 5#3 rd 0x13#7)
  | .srai rd rs1 sh => some (encI (0x10#6 ++ sh) rs1 5#3 rd 0x13#7)
  | .add rd rs1 rs2 => some (encR 0x00#7 rs2 rs1 0#3 rd 0x33#7)
  | .sub rd rs1 rs2 => some (encR 0x20#7 rs2 rs1 0#3 rd 0x33#7)
  | .sll rd rs1 rs2 => some (encR 0x00#7 rs2 rs1 1#3 rd 0x33#7)
  | .slt rd rs1 rs2 => some (encR 0x00#7 rs2 rs1 2#3 rd 0x33#7)
  | .sltu rd rs1 rs2 => some (encR 0x00#7 rs2 rs1 3#3 rd 0x33#7)
  | .xor rd rs1 rs2 => some (encR 0x00#7 rs2 rs1 4#3 rd 0x33#7)
  | .srl rd rs1 rs2 => some (encR 0x00#7 rs2 rs1 5#3 rd 0x33#7)
  | .sra rd rs1 rs2 => some (encR 0x20#7 rs2 rs1 5#3 rd 0x33#7)
  | .or rd rs1 rs2 => some (encR 0x00#7 rs2 rs1 6#3 rd 0x33#7)
  | .and rd rs1 rs2 => some (encR 0x00#7 rs2 rs1 7#3 rd 0x33#7)
  | .mul rd rs1 rs2 => some (encR 0x01#7 rs2 rs1 0#3 rd 0x33#7)
  | .mulh rd rs1 rs2 => some (encR 0x01#7 rs2 rs1 1#3 rd 0x33#7)
  | .mulhsu rd rs1 rs2 => some (encR 0x01#7 rs2 rs1 2#3 rd 0x33#7)
  | .mulhu rd rs1 rs2 => some (encR 0x01#7 rs2 rs1 3#3 rd 0x33#7)
  | .div rd rs1 rs2 => some (encR 0x01#7 rs2 rs1 4#3 rd 0x33#7)
  | .divu rd rs1 rs2 => some (encR 0x01#7 rs2 rs1 5#3 rd 0x33#7)
  | .rem rd rs1 rs2 => some (encR 0x01#7 rs2 rs1 6#3 rd 0x33#7)
  | .remu rd rs1 rs2 => some (encR 0x01#7 rs2 rs1 7#3 rd 0x33#7)
  | .addiw rd rs1 imm => some (encI imm rs1 0#3 rd 0x1B#7)
  | .slliw rd rs1 sh => some (encR 0x00#7 sh rs1 1#3 rd 0x1B#7)
  | .srliw rd rs1 sh => some (encR 0x00#7 sh rs1 5#3 rd 0x1B#7)
  | .sraiw rd rs1 sh => some (encR 0x20#7 sh rs1 5#3 rd 0x1B#7)
  | .addw rd rs1 rs2 => some (encR 0x00#7 rs2 rs1 0#3 rd 0x3B#7)
  | .subw rd rs1 rs2 => some (encR 0x20#7 rs2 rs1 0#3 rd 0x3B#7)
  | .sllw rd rs1 rs2 => some (encR 0x00#7 rs2 rs1 1#3 rd 0x3B#7)
  | .srlw rd rs1 rs2 => some (encR 0x00#7 rs2 rs1 5#3 rd 0x3B#7)
  | .sraw rd rs1 rs2 => some (encR 0x20#7 rs2 rs1 5#3 rd 0x3B#7)
  | .mulw rd rs1 rs2 => some (encR 0x01#7 rs2 rs1 0#3 rd 0x3B#7)
  | .divw rd rs1 rs2 => some (encR 0x01#7 rs2 rs1 4#3 rd 0x3B#7)
  | .divuw rd rs1 rs2 => some (encR 0x01#7 rs2 rs1 5#3 rd 0x3B#7)
  | .remw rd rs1 rs2 => some (encR 0x01#7 rs2 rs1 6#3 rd 0x3B#7)
  | .remuw rd rs1 rs2 => some (encR 0x01#7 rs2 rs1 7#3 rd 0x3B#7)
  | .fence fm pr su rd rs1 => some (encI (fm ++ pr ++ su) rs1 0#3 rd 0x0F#7)
  | .fenceTso rd rs1 => some (encI 0x833#12 rs1 0#3 rd 0x0F#7)
  | .fenceI rd rs1 imm => some (encI imm rs1 1#3 rd 0x0F#7)
  | .ecall => some 0x00000073#32
  | .ebreak => some 0x00100073#32
  | .sret => some 0x10200073#32
  | .wfi => some 0x10500073#32
  | .sfenceVma rs1 rs2 => some (encR 0x09#7 rs2 rs1 0#3 0#5 0x73#7)
  | .lrW aq rl rd rs1 => some (encA 0x02#5 aq rl 0#5 rs1 2#3 rd)
  | .lrD aq rl rd rs1 => some (encA 0x02#5 aq rl 0#5 rs1 3#3 rd)
  | .scW aq rl rd rs1 rs2 => some (encA 0x03#5 aq rl rs2 rs1 2#3 rd)
  | .scD aq rl rd rs1 rs2 => some (encA 0x03#5 aq rl rs2 rs1 3#3 rd)
  | .amoswapW aq rl rd rs1 rs2 => some (encA 0x01#5 aq rl rs2 rs1 2#3 rd)
  | .amoswapD aq rl rd rs1 rs2 => some (encA 0x01#5 aq rl rs2 rs1 3#3 rd)
  | .amoaddW aq rl rd rs1 rs2 => some (encA 0x00#5 aq rl rs2 rs1 2#3 rd)
  | .amoaddD aq rl rd rs1 rs2 => some (encA 0x00#5 aq rl rs2 rs1 3#3 rd)
  | .amoxorW aq rl rd rs1 rs2 => some (encA 0x04#5 aq rl rs2 rs1 2#3 rd)
  | .amoxorD aq rl rd rs1 rs2 => some (encA 0x04#5 aq rl rs2 rs1 3#3 rd)
  | .amoandW aq rl rd rs1 rs2 => some (encA 0x0C#5 aq rl rs2 rs1 2#3 rd)
  | .amoandD aq rl rd rs1 rs2 => some (encA 0x0C#5 aq rl rs2 rs1 3#3 rd)
  | .amoorW aq rl rd rs1 rs2 => some (encA 0x08#5 aq rl rs2 rs1 2#3 rd)
  | .amoorD aq rl rd rs1 rs2 => some (encA 0x08#5 aq rl rs2 rs1 3#3 rd)
  | .amominW aq rl rd rs1 rs2 => some (encA 0x10#5 aq rl rs2 rs1 2#3 rd)
  | .amominD aq rl rd rs1 rs2 => some (encA 0x10#5 aq rl rs2 rs1 3#3 rd)
  | .amomaxW aq rl rd rs1 rs2 => some (encA 0x14#5 aq rl rs2 rs1 2#3 rd)
  | .amomaxD aq rl rd rs1 rs2 => some (encA 0x14#5 aq rl rs2 rs1 3#3 rd)
  | .amominuW aq rl rd rs1 rs2 => some (encA 0x18#5 aq rl rs2 rs1 2#3 rd)
  | .amominuD aq rl rd rs1 rs2 => some (encA 0x18#5 aq rl rs2 rs1 3#3 rd)
  | .amomaxuW aq rl rd rs1 rs2 => some (encA 0x1C#5 aq rl rs2 rs1 2#3 rd)
  | .amomaxuD aq rl rd rs1 rs2 => some (encA 0x1C#5 aq rl rs2 rs1 3#3 rd)
  | .csrrw rd rs1 csr => some (encI csr rs1 1#3 rd 0x73#7)
  | .csrrs rd rs1 csr => some (encI csr rs1 2#3 rd 0x73#7)
  | .csrrc rd rs1 csr => some (encI csr rs1 3#3 rd 0x73#7)
  | .csrrwi rd rs1 csr => some (encI csr rs1 5#3 rd 0x73#7)
  | .csrrsi rd rs1 csr => some (encI csr rs1 6#3 rd 0x73#7)
  | .csrrci rd rs1 csr => some (encI csr rs1 7#3 rd 0x73#7)
  | _ => none

def encK (kop : BitVec 4) (vt vs : Reg) (q : BitVec 2) : BitVec 16 := kop ++ vt ++ vs ++ q

/-- The word of a K16 instruction (R129). -/
def encodeK16 : Instr → Option (BitVec 16)
  | .vfaddK vs => some (encK 1#4 0#5 vs 0#2)
  | .vfsubK vs => some (encK 2#4 0#5 vs 0#2)
  | .vfmulK vs => some (encK 3#4 0#5 vs 0#2)
  | .vfmaxK vs => some (encK 5#4 0#5 vs 0#2)
  | .vfminK vs => some (encK 6#4 0#5 vs 0#2)
  | .vaddK vs => some (encK 1#4 0#5 vs 1#2)
  | .vsubK vs => some (encK 2#4 0#5 vs 1#2)
  | .vandK vs => some (encK 3#4 0#5 vs 1#2)
  | .vorK vs => some (encK 4#4 0#5 vs 1#2)
  | .vxorK vs => some (encK 5#4 0#5 vs 1#2)
  | .vmvK vs => some (encK 1#4 0#5 vs 2#2)
  | .vfmaK vs vt => some (encK 4#4 vt vs 0#2)
  | .vsllK n => some (encK 6#4 n 0#5 1#2)
  | .vsraK n => some (encK 7#4 n 0#5 1#2)
  | .vslideupK n => some (encK 2#4 n 0#5 2#2)
  | .vslidednK n => some (encK 3#4 n 0#5 2#2)
  | _ => none

/-- The word of a T48 instruction (R134). -/
def encT48 (c : BitVec 6 × BitVec 6) (o : T48) : BitVec 48 :=
  o.aux ++ o.rep ++ BitVec.ofBool o.fb ++ BitVec.ofBool o.fa ++ o.gm ++ o.b ++ o.a ++ o.d ++
    c.2 ++ c.1 ++ 0x1F#6

/-- The word of a B64 instruction (R139). -/
def encB64 (op : BitVec 8) (o : B64) : BitVec 64 :=
  o.imm ++ o.fmt ++ BitVec.ofBool o.pneg ++ o.pred ++ o.c ++ o.b ++ o.a ++ o.d ++ op

def encQ (op : BitVec 8) (qd qa : BitVec 4) (imm : BitVec 16) : BitVec 32 := op ++ qd ++ qa ++ imm

/-- The word of a Crill instruction (R398, R401). -/
def encodeCrill : Instr → Option (BitVec 32)
  | .crillLi qd imm => some (encQ 0x01#8 qd 0#4 imm)
  | .crillLhi qd imm => some (encQ 0x02#8 qd 0#4 imm)
  | .crillLdp qd imm => some (encQ 0x10#8 qd 0#4 imm)
  | .crillStp qd imm => some (encQ 0x11#8 qd 0#4 imm)
  | .crillLds qd imm => some (encQ 0x12#8 qd 0#4 imm)
  | .crillSts qd imm => some (encQ 0x13#8 qd 0#4 imm)
  | .crillAddi qd qa imm => some (encQ 0x03#8 qd qa imm)
  | .crillAndi qd qa imm => some (encQ 0x09#8 qd qa imm)
  | .crillBeq qd qa imm => some (encQ 0x18#8 qd qa imm)
  | .crillBne qd qa imm => some (encQ 0x19#8 qd qa imm)
  | .crillBltu qd qa imm => some (encQ 0x1A#8 qd qa imm)
  | .crillBgeu qd qa imm => some (encQ 0x1B#8 qd qa imm)
  | .crillAdd qd qa => some (encQ 0x04#8 qd qa 0#16)
  | .crillSub qd qa => some (encQ 0x05#8 qd qa 0#16)
  | .crillAnd qd qa => some (encQ 0x06#8 qd qa 0#16)
  | .crillOr qd qa => some (encQ 0x07#8 qd qa 0#16)
  | .crillXor qd qa => some (encQ 0x08#8 qd qa 0#16)
  | .crillMaxu qd qa => some (encQ 0x0C#8 qd qa 0#16)
  | .crillMinu qd qa => some (encQ 0x0D#8 qd qa 0#16)
  | .crillRdc qd qa => some (encQ 0x20#8 qd qa 0#16)
  | .crillSetc qd qa => some (encQ 0x22#8 qd qa 0#16)
  | .crillWaitc qd qa => some (encQ 0x23#8 qd qa 0#16)
  | .crillShl qd qa n => some (encQ 0x0A#8 qd qa (0#10 ++ n))
  | .crillShr qd qa n => some (encQ 0x0B#8 qd qa (0#10 ++ n))
  | .crillExt qd qa lsb wd => some (encQ 0x0E#8 qd qa (0#2 ++ lsb ++ 0#2 ++ wd))
  | .crillIns qd qa lsb wd => some (encQ 0x0F#8 qd qa (0#2 ++ lsb ++ 0#2 ++ wd))
  | .crillLdt qd qa t => some (encQ 0x14#8 qd qa (0#14 ++ t))
  | .crillJ imm => some (encQ 0x1C#8 0#4 0#4 imm)
  | .crillRep qd n len => some (encQ 0x1D#8 qd 0#4 (n ++ len))
  | .crillSigc qa imm => some (encQ 0x21#8 0#4 qa imm)
  | .crillCancel qa lvl => some (encQ 0x24#8 0#4 qa (0#14 ++ lvl))
  | .crillPsnFail => some (encQ 0x25#8 0#4 0#4 0#16)
  | .crillPsnSkip => some (encQ 0x25#8 0#4 0#4 1#16)
  | .crillPsnPlanes p => some (encQ 0x25#8 0#4 0#4 (0#4 ++ p ++ 2#8))
  | .crillWeld w => some (encQ 0x26#8 0#4 0#4 (0#15 ++ w))
  | .crillEnd => some (encQ 0x27#8 0#4 0#4 0#16)
  | .crillEndCancel => some (encQ 0x27#8 0#4 0#4 1#16)
  | .crillTime qd => some (encQ 0x28#8 qd 0#4 0#16)
  | .crillIdx qd => some (encQ 0x29#8 qd 0#4 0#16)
  | _ => none

/-- The bytes of a CT or MS instruction, as memory holds them; none for the other rows. -/
def encode (i : Instr) : Option (List Byte) :=
  match i.t48? with
  | some o => some (natLe 6 (encT48 i.t48Code o).toNat)
  | none =>
  match encodeK16 i with
  | some w => some (natLe 2 w.toNat)
  | none => (encodeRv i).map fun w => natLe 4 w.toNat

/-- The word of a block instruction (R139). -/
def encodeBlock (i : Instr) : Option (BitVec 64) := i.b64?.map (encB64 i.b64Code)

/-- The row a decoder can tell: the three `hcall` rows share one word (R318). -/
noncomputable def Instr.canon : Instr → Instr
  | .hcallCancel o => .hcallOther o
  | .hcallPreempt o => .hcallOther o
  | i => i

end Sys2Proof
end

