-- ==== Sys2Proof/Machine/Parts.lean ====
section
/-! DEFINITION. The parts of the state that belong to a core: contexts, loops, windows, streams,
engine commands, micro-threads, clusters, matrix sequencers, billets, Plate segments and Crucible
handles. Hart t is context t mod 4 of core t / 4; core g is core g mod 32 of forge die g / 32; cluster q
is LCc of core q / 4 with c = q mod 4 (R5, R448). -/

namespace Sys2Proof.Machine
open Sys2Proof

/-- The CT's privilege modes (R171). -/
inductive Mode where
  | user | supervisor
  deriving DecidableEq, Repr

/-- Who executes a step. -/
inductive Agent where
  | idle
  | ct (hart : Nat)
  | ms (core : Nat)
  | mt (hart i : Nat)
  | ind (hart slot : Nat)
  /-- What acts for a context beside its instructions, always as user: its streams and its descriptor reads (R361). -/
  | bellows (hart : Nat)
  | crill (job queue : Nat)
  deriving DecidableEq, Repr

/-- A store in a class queue (R70): one element, each byte with the bits it writes (R214). One of a vector-fetched
block stands in its context's queue (R65); `mt` is then the key of its micro-thread. -/
structure Pending where
  cls : Nat
  pa : Nat
  bytes : List (Byte × Byte)
  mt : Option Nat := none
  deriving DecidableEq, Repr

/-- A window (R235, R240): the descriptor's eight words, and for GRID the level entries. `since` is the
length of the store history at binding, from which the PARAM path may read (R80). -/
structure Win where
  bound : Bool := false
  desc : List Word := []
  levels : List (Word × Word) := []
  since : Nat := 0
  /-- Its reads obey R69 again: `winval` has been executed on the binding, or the window was bound again (R80, R238). -/
  fresh : Bool := false
  /-- The window has been bound since the unit began. -/
  was : Bool := false
  deriving DecidableEq, Repr

/-- The memory bits of an element a read stream has fetched ahead (R231). A fetch that failed is not
kept: its consumer fetches it again. -/
structure Fetched where
  pos : Nat
  raw : Nat
  pois : Bool
  deriving DecidableEq, Repr

/-- An element a write stream has accepted and not yet placed in a class queue (R232): its position, the cluster that
held it, its lane value, the block scale read at its acceptance (R56), and whether an error has struck it since (R373). -/
structure Accepted where
  pos : Nat
  clus : Nat
  lane : BitVec 32
  scale : Byte
  pois : Bool := false
  deriving DecidableEq, Repr

/-- A register group whose last writer is a load that has not delivered it yet, the load's address (R146, R215), and the
slot of the strip that issued it, 16 outside a `.ind` strip. -/
structure Loading where
  reg : Nat
  size : Nat
  ppc : Word
  slot : Nat
  deriving DecidableEq, Repr

/-- An element that a vector load has read ahead of its others (R68), by the slot of its strip, 16 outside a `.ind` one. -/
structure Sample where
  slot : Nat
  elem : Nat
  lane : BitVec 32
  pois : Bool
  deriving DecidableEq, Repr

/-- A stream control block (R227 to R233). -/
structure Stream where
  bound : Bool := false
  reg : Reg := 0
  desc : List Word := []
  pos : Nat := 0
  /-- Whether the running loop's body uses it, and its position at the `vloop` (R230). -/
  inLoop : Bool := false
  loopPos : Nat := 0
  sew : BitVec 2 := 0
  lmul : BitVec 2 := 0
  vrm : Word := 0
  vpst : Word := 0
  vtb : Word := 0
  vsb : Word := 0
  vts : Word := 0
  fetched : List Fetched := []
  accepted : List Accepted := []
  /-- The failing address of a kept element (R232). -/
  kept : Option Word := none
  /-- The FIFO-mode banks it claimed (R233), as 16·cluster + bank. -/
  banks : List Nat := []
  /-- The passed tensor of the spliced unit it is rebound to (R333). -/
  fifo : Option Nat := none
  /-- The address of its `sbind`, for stall accounts (R459). -/
  ppc : Word := 0
  deriving DecidableEq, Repr

inductive LoopMode where
  | off | seq | ind
  deriving DecidableEq, Repr

/-- What a trap report of R366 says of an element fault. -/
structure FaultInfo where
  count : Nat
  kind : Nat
  wr : Bool
  width : Nat
  base : Word
  stride : Word
  /-- The pages of the faulted elements, in ascending element index (R367). -/
  pages : List Nat := []
  deriving DecidableEq, Repr

/-- A strip that a cluster of a `.ind` loop runs (R164, R369). `off` is the byte offset of its next
body instruction. -/
structure Strip where
  slot : Nat
  base : Nat
  size : Nat
  /-- `vl` in the strip: its size until a `vcompress` (R205). -/
  vl : Nat
  off : Nat
  /-- A stopped strip's cause, trap value and report. -/
  stop : Option (Nat × Word × Option FaultInfo)
  /-- The strip as it was taken: its first iteration and the one after its last (R369). -/
  first : Nat
  fin : Nat
  /-- A `vfetch` of the strip that has started some of its micro-threads: the next element and the block (R245). -/
  fetching : Option (Nat × List Word) := none
  /-- The kind and producer of the wait of its last step, for stall accounts (R459). -/
  stallOn : Option (Nat × Word) := none
  deriving DecidableEq, Repr

/-- The loop context (R162, R166). In `.seq`, `base` is `sbase`: the first iteration of the strip that runs or has
just ended; the next strip begins at count − rem. In `.ind` it is the first iteration that no strip has taken. -/
structure Loop where
  mode : LoopMode := .off
  /-- The loop was entered in supervisor mode: its body runs only in that mode. -/
  sup : Bool := false
  count : Nat := 0
  rem : Nat := 0
  base : Nat := 0
  size : Nat := 0
  savedVl : Nat := 0
  start : Word := 0
  body : List Byte := []
  strips : List Strip := []
  /-- A `.ind` loop takes no further strip until the trap it waits to report is raised (R369). -/
  halt : Bool := false
  /-- Between strips of a `.seq` loop, waiting for a cluster (R7) or for the other context (R331). -/
  gap : Bool := false
  deriving DecidableEq, Repr

/-- The first iteration of the next strip (R163, R164). -/
def Loop.next (l : Loop) : Nat := l.count - l.rem

/-- A user-level event (R314, R315). -/
structure Event where
  event : Nat
  tag : Nat
  deriving DecidableEq, Repr

/-- A completion, or an event of `vcappend`, held back while the event queue is full (R315). -/
inductive Held where
  | cmd (id : Nat)
  | drain (handle : Nat)
  | watch (tag : Nat)
  | event (e : Event)
  deriving DecidableEq, Repr

/-- An engine command (R310 to R312). A finished command stays until its event has room (R315). -/
structure Cmd where
  id : Nat
  fill : Option (BitVec 32)
  src : Word
  dst : Word
  len : Nat
  event : Option Event
  done : Bool
  /-- The pieces of one that has started and not ended: how many it has written, and what it read where its ranges overlap. -/
  sofar : Nat := 0
  buf : List (List (Byte × Bool)) := []
  deriving DecidableEq, Repr

/-- A watch of `uiset` (R314): the commands it waits for and its tag. -/
structure Watch where
  ids : List Nat
  tag : Nat
  deriving DecidableEq, Repr

/-- The unit a context runs (R29, R30). `gang` is the base context of its gang and the gang size;
`dies` the forge dies of a span. -/
structure UnitRef where
  job : Nat
  queue : Nat
  index : Nat
  num : Nat
  gangBase : Nat
  gang : Nat
  dies : List Nat
  ownsMs : Bool
  grants : List Nat
  /-- The P-context of its spliced unit (R331). -/
  splice : Option Nat
  /-- The launch's poison policy (R375): 0 FAIL, 1 SKIP, 2 PLANES with its plane count. -/
  psn : Nat
  planes : Nat
  /-- The packet's CODE, and the address and size of the code object's blocks part (R121, R242). -/
  code : Word
  blkBase : Word
  blkSize : Nat
  deriving DecidableEq, Repr

/-- A passed tensor of a spliced unit (R332, R333): the streams that carry it, the banks taken (16·cluster +
bank, and whether the bank was a cache way), and the positions written and not yet read: memory bits,
poison, and whether the position was written. -/
structure Fifo where
  pSc : Nat
  cSc : Nat
  fmt : BitVec 6
  teed : Bool
  banks : List (Nat × Bool)
  slots : Sparse (BitVec 32 × Bool × Bool)
  /-- The address of P's instruction that wrote it last, for stall accounts (R459). -/
  ppc : Word := 0
  deriving DecidableEq, Repr

/-- A spliced unit (R331), by its P-context: the C-context, the iteration count of the maps, the passed
tensors, and how far each context is with its vloop: 0 not reached, 1 waiting at it, 2 past it. -/
structure Splice where
  c : Nat
  count : Nat
  fifos : List Fifo
  pAt : Nat
  cAt : Nat
  deriving DecidableEq, Repr

/-- How a pre-emption leaves the core (R349). -/
inductive PreForm where
  | light | wait | forced
  deriving DecidableEq, Repr

/-- Whether `xsave` has stopped the unit, until `xrest` and the `sret` after it (R183, R184). -/
inductive Park where
  | no | saved | restored
  deriving DecidableEq, Repr

/-- A control-thread context (R6, R155 to R186, R32). -/
structure Ctx where
  pc : Word := 0
  x : Vector Word 32 := Vector.replicate 32 0
  mode : Mode := .user
  instret : Word := 0
  vrm : Word := 9
  vpst : Word := 0
  vtb : Word := 0
  vsb : Word := 0
  vts : Word := 0x3F800000
  amax : Word := 0
  amaxn : Word := 0
  uivec : Word := 0
  uiepc : Word := 0
  uicause : Word := 0
  vl : Nat := 0
  vty : Word := 2
  ldst : Reg := 0
  ccap : Nat := 0
  sieBit : Bool := false
  spieBit : Bool := false
  spp : Mode := .user
  sie : Word := 0
  sip : Word := 0
  stvec : Word := 0
  sscratch : Word := 0
  sepc : Word := 0
  scause : Word := 0
  stval : Word := 0
  svty : Word := 2
  sldst : Reg := 0
  sfdesc : Word := 0x0000F00000000000
  sfbase : Word := 0
  sfstride : Word := 0
  sfrem : Word := 0
  spsn : Word := 0
  vrst : Vector Word 16 := Vector.replicate 16 0xFFFFFFFFFFFFFFFF
  loop : Loop := {}
  resv : Option Nat := none
  links : List Nat := []
  queue : List Pending := []
  /-- Register groups that loads have not delivered yet (R146, R215). -/
  loading : List Loading := []
  /-- The elements that the next execution of a vector load reads ahead of the others, and those read so (R68, R358). -/
  ahead : List Nat := []
  sampled : List Sample := []
  /-- A `vfetch` that has started some of its micro-threads: the next element and the block (R245). -/
  fetching : Option (Nat × List Word) := none
  /-- A `vxchg` in flight between dies, and the slot, or 16, at which it has failed (R208). -/
  exchg : Option (Option Nat) := none
  /-- The queue key and index of the launch whose killed unit left the stores of `queue` (R376, R391). -/
  leftOf : Option (Nat × Nat) := none
  wins : Vector Win 16 := Vector.replicate 16 {}
  streams : Vector Stream 16 := Vector.replicate 16 {}
  flags : Vector Word 16 := Vector.replicate 16 0
  events : List Event := []
  held : List Held := []
  uimask : BitVec 6 := 0x1E
  handler : Bool := false
  hVty : Word := 0
  hLdst : Reg := 0
  shadow : Vector Word 8 := Vector.replicate 8 0
  cmds : List Cmd := []
  cmdSeq : Nat := 0
  engFail : Option (Nat × Word) := none
  watches : List Watch := []
  linkOut : List (BitVec 32 × Bool) := []
  /-- `ubar`s passed, and whether the unit stands at one it has reached (R306). -/
  ubars : Nat := 0
  ubarAt : Bool := false
  pwaited : Bool := false
  /-- A pre-emption request pending for the unit, and the step of its arrival (R345, R349). -/
  preempt : Bool := false
  preemptAt : Nat := 0
  /-- The request is only for a committed point state: the unit resumes at once (R392). -/
  ckpt : Bool := false
  /-- Waiting at an instruction whose wait honours a pre-emption request (R349). -/
  atWait : Bool := false
  /-- A `wfi` has begun to wait: it completes before an interrupt is taken (R173, R175). -/
  inWfi : Bool := false
  /-- The live mask of the last point taken, for the save (R305). -/
  live : BitVec 32 := 0
  /-- A point reached in a loop body is taken at the end of the strip (R305). -/
  pointDue : Bool := false
  unit : Option UnitRef := none
  park : Park := .no
  dbgStop : Bool := false
  /-- The agent, breakpoint and address of each match that has been reported and whose instruction has not
  executed yet (R457): the agent is 16 for the CT, else the slot of a strip. -/
  matched : List (Nat × Nat × Word) := []
  /-- The unit has executed no instruction yet (R389); a trap was taken in this step (R455). -/
  fresh : Bool := false
  trapped : Bool := false
  /-- The unit has executed `kend` and waits for its spliced partner (R331). -/
  ended : Bool := false
  /-- The pages of the elements in `mf`, as the last element fault met them (R367, R462). -/
  batch : List Nat := []
  /-- Traps with cause 24 at one instruction address, none of which let an element complete (R367). -/
  stuck : Nat := 0
  stuckAt : Word := 0
  stuckLeft : Nat := 0
  stuckRet : Word := 0
  /-- The pages that the core monitor has asked the pager for: the batch of R367. -/
  asked : List Nat := []
  /-- Set while a trap waits for the pager's answer on this context (R367), or for a refilled pool (R371). -/
  pagerWait : Bool := false
  poolWait : Bool := false
  /-- Fault words of the MS and of its drains, not yet raised on the CT (R282). -/
  msFaults : List Word := []
  /-- Instruction bytes fetched ahead, by virtual address; `fence.i` discards them (R153). -/
  ibuf : Sparse Byte := []
  /-- The kind and producer of the wait of the last step, for stall accounts (R459). -/
  stallOn : Option (Nat × Word) := none
  /-- A SAMPLE record is due and does not fit: the context stops issuing until it does (R456). -/
  sampleDue : Bool := false
  deriving DecidableEq, Repr

inductive MtState where
  | stopped | running | faulted
  deriving DecidableEq, Repr

/-- A micro-thread (R18, R243, R247, R258). `block` holds the instructions of the entered block from
index `next` on; an empty block of a running micro-thread is fetched again from `next`. -/
structure Mt where
  state : MtState := .stopped
  next : Nat := 0
  block : List Word := []
  rm : BitVec 3 := 0
  sat : Bool := false
  fz : Bool := false
  dz : Bool := false
  fault : Option (Nat × Nat × BitVec 32) := none
  linkIn : List (BitVec 32 × Bool) := []
  /-- Started in a `.ind` strip, and the last of its strip. What it sends as that end does not reach the next cluster's
  strip: `linkOut` holds it, behind what the link to the next number holds already (R258). -/
  strip : Bool := false
  tail : Bool := false
  linkOut : List (BitVec 32 × Bool) := []
  /-- Runs a block it entered itself (R243). -/
  own : Bool := false
  /-- The address of the `vfetch` that started its chain, for stall accounts (R459). -/
  ppc : Word := 0
  /-- Its class queues while it runs blocks it fetched itself: it is then a party of its own (R81, R261). -/
  queue : List Pending := []
  deriving DecidableEq, Repr

/-- Where the cluster of a retired unit goes once its earlier owner has detached it: the retired unit's launch and heir
(R11). -/
structure Bequest where
  job : Nat
  queue : Nat
  index : Nat
  heir : Option Nat
  deriving DecidableEq, Repr

/-- A lane cluster's assignment (R8 to R10): `owner` is the CL field, `attached` the context that
counts it in its order. -/
structure Clus where
  owner : Option Nat := none
  pend : Bool := false
  attached : Option Nat := none
  job : Option Nat := none
  /-- Its owner has retired while another context still had it attached (R11). -/
  left : Option Bequest := none
  deriving DecidableEq, Repr

/-- A change sent to a core's partition unit (R12, R168): the clusters that move to `dest`, and the context whose HEIR
field changes with its new value. -/
structure LaneMove where
  clus : List Nat
  dest : Nat
  heir : Option (Nat × Option Nat) := none
  deriving DecidableEq, Repr

/-- A core: its heirs (R8), partition unit (R12) and Temper window (R352). -/
structure Core where
  heirs : Vector (Option Nat) 4 := Vector.replicate 4 none
  moves : List LaneMove := []
  /-- Busy cycles of the Anvil in the current window, the count of the window before, and the ramp in force. -/
  busy : Nat := 0
  last : Nat := 0
  ramp : Nat := 1250
  deriving DecidableEq, Repr

inductive MsRun where
  | idle | running | stopped
  deriving DecidableEq, Repr

/-- A matrix sequencer (R15, R277, R282). -/
structure Ms where
  owner : Option Nat := none
  run : MsRun := .idle
  pc : Word := 0
  x : Vector Word 32 := Vector.replicate 32 0
  ta : BitVec 32 := 0x3F800000
  tb : BitVec 32 := 0x3F800000
  faultWord : Word := 0
  faultAddr : Word := 0
  queue : List Pending := []
  ibuf : Sparse Byte := []
  instret : Word := 0
  /-- It stands at a wait that honours a pre-emption request (R265, R349). -/
  atWait : Bool := false
  /-- Who used the Plate last, for R272. -/
  plateOwner : Option (Nat × Nat × Nat × Nat) := none
  plateJob : Option Nat := none
  /-- The kind and producer of the wait of its last step, for stall accounts (R459). -/
  stallOn : Option (Nat × Word) := none
  deriving DecidableEq, Repr

/-- A billet's state word (R263); its rows, poison and scales are in sparse stores. -/
structure Billet where
  tag : BitVec 6 := 0
  axis : Bool := false
  nblk : Nat := 8
  full : Bool := false
  /-- The address of the last `tfull`, `tempty` or releasing `mma`, for stall accounts (R459). -/
  ppc : Word := 0
  deriving DecidableEq, Repr

/-- A Plate segment's tag (R272). -/
structure Seg where
  valid : Bool := false
  fmt : BitVec 6 := 0
  planes : Nat := 0
  spn : Nat := 0
  axis : Bool := false
  srow : Nat := 0
  nscale : Nat := 0
  origin : Nat := 0
  deriving DecidableEq, Repr

/-- A drain in flight (R290): its descriptor words and the region it has read. -/
structure Drain where
  desc : List Word
  data : List (BitVec 32 × Bool)
  hart : Nat
  job : Nat
  deriving DecidableEq, Repr

/-- A Crucible handle's state beside its elements (R284, R290). -/
structure Handle where
  job : Option Nat := none
  drains : List Drain := []
  fault : Option (Nat × Nat) := none
  /-- The address of the last issued writer, for stall accounts (R459), and the step up to which the scoreboard marks the handle
  busy: until that writer's last block write (R287). -/
  ppc : Word := 0
  busyTill : Nat := 0
  deriving DecidableEq, Repr

/-- A valid entry held by a class TLB slice (R364): `va` is the virtual address above the entry's level
(level 1: va[48:42], level 2: va[48:29], level 3: va[48:16]). -/
structure TlbEnt where
  core : Nat
  cls : Nat
  job : Nat
  level : Nat
  va : Nat
  pte : Word
  deriving DecidableEq, Repr

/-- A 64 B sector held in a cache-way bank (R67): its bytes, little-endian, and a poison bit a word. -/
structure Way where
  bank : Nat
  data : BitVec 512
  pois : BitVec 16
  deriving DecidableEq, Repr

end Sys2Proof.Machine
end

