-- ==== Sys2Proof/Machine/HearthParts.lean ====
section
/-! DEFINITION. The parts of the state that belong to the Hearth: jobs, resident queues, runs of queue
programs, launches and pre-empted units. A queue's key is 65536·job + number. -/

namespace Sys2Proof.Machine
open Sys2Proof

/-- A job: its control block (R428), completion counters (R388), handle homes (R284: core by home number)
and word 0 of its cancel register (R429). -/
structure Job where
  state : Nat := 0
  root : Nat := 0
  qtab : Word := 0
  nq : Nat := 0
  cmir : Word := 0
  counters : Sparse Word := []
  homes : List Nat := []
  cancelWord : Word := 0
  /-- Every queue of the job is disabled by a job-level cancel (R390). -/
  disabled : Bool := false
  /-- A function-level reset of its VF ends it: its registers are reset with it (R446). -/
  flr : Bool := false
  deriving DecidableEq, Repr

/-- An entry of a run's effect list (R394, R401). -/
inductive Effect where
  | sigc (c k : Nat)
  | setc (c : Nat) (v : Word)
  | cancel (level index : Nat)
  | psn (policy planes : Nat)
  | weld (off : Bool)
  deriving DecidableEq, Repr

/-- A Crill run (R394). `rep` is the body's first instruction, length, passes, current pass and counter
register of the loop that runs. -/
structure Run where
  index : Nat
  words : List Word
  scratch : List Word
  q : List Word := List.replicate 16 0
  pc : Nat := 0
  used : Nat := 0
  rep : Option (Nat × Nat × Nat × Nat × Nat) := none
  effects : List Effect := []
  /-- The program of the consumer of a splice runs (R395). -/
  consumer : Bool := false
  deriving DecidableEq, Repr

/-- What the Hearth keeps of a launch's kernel record and code object (R320, R321). -/
structure Kernel where
  ct : Word := 0
  ms : Option Word := none
  loop : Nat := 0
  ubar : Bool := false
  ppd : Nat := 0
  blkBase : Word := 0
  blkSize : Nat := 0
  wins : List (Nat × List Word) := []
  /-- The level arrays of the windows of class GRID, read with their descriptors (R236). -/
  levels : List (Nat × List (Word × Word)) := []
  hint : Option Nat := none
  deriving DecidableEq, Repr

/-- A passed tensor of a splice as the Weld found it (R329, R330): the streams, format, whether it is teed,
and P's window. -/
structure Passed where
  pSc : Nat
  cSc : Nat
  fmt : BitVec 6
  teed : Bool
  win : Nat
  deriving DecidableEq, Repr

/-- The consumer of a splice as the Weld confirmed it (R395): its packet copy, the scratch after its run, its
effects, the passed tensors and N_i. -/
structure Mate where
  words : List Word
  scratch : List Word
  effects : List Effect
  passed : List Passed
  count : Nat
  kern : Kernel
  deriving DecidableEq, Repr

/-- A packet as its run left it (R396): to be carried out, or ended with a status. -/
structure Ready where
  index : Nat
  words : List Word
  scratch : List Word
  effects : List Effect
  ending : Option Nat := none
  /-- The Weld has decided (R328), and the consumer where it splices. -/
  decided : Bool := false
  mate : Option Mate := none
  deriving DecidableEq, Repr

/-- A taken packet whose record is not delivered yet (R386, R389). -/
structure Launch where
  index : Nat
  words : List Word
  psn : Nat := 0
  planes : Nat := 0
  kern : Kernel := {}
  seq : Nat := 0
  /-- Started early and its predecessor has not completed (R346). -/
  early : Bool := false
  /-- The index of the launch it is spliced with, whether it is the consumer, N_i and passed tensors. -/
  partner : Option Nat := none
  consumer : Bool := false
  count : Nat := 0
  passed : List Passed := []
  placed : Nat := 0
  retired : List Nat := []
  status : Option Nat := none
  cause : Nat := 0
  ustat : Nat := 0
  funit : Nat := 0
  stval : Word := 0
  pcount : Nat := 0
  tstart : Word := 0
  tend : Word := 0
  deriving DecidableEq, Repr

/-- An entry of one copy of the journal: an accepted packet and its tag (R391, R438). -/
structure JEntry where
  words : List Word
  tag : List Byte
  deriving DecidableEq, Repr

/-- A resident queue (R381, R382). -/
structure QSlot where
  ring : Word
  cring : Word
  w48 : Word
  tables : List (Word × Word)
  scratch : List Word
  read : Nat
  tail : Nat
  acc : Nat
  cdone : Nat
  /-- The verified program, none where it was rejected (R399); empty where the record names none. -/
  prog : Option (List (BitVec 32))
  enable : Bool
  weldoff : Bool
  /-- Accepted packets whose completion is not delivered, as the Hearth works on them, and the copies of the journal that hold
  them, in HBM and in the LPDDR tier (R391). -/
  journal : Sparse (List Word) := []
  copies : Sparse (JEntry × JEntry) := []
  ready : Option Ready := none
  /-- The counter that an unmet `waitc` waits on, with the word it read (R396). -/
  waits : Option (Nat × Word) := none
  /-- That counter has changed since. -/
  rerun : Bool := false
  taken : List Launch := []
  /-- Indices cancelled before they were taken (R390), the level of a cancel that goes on (1 graph, 2 phase), and
  cancels at those levels (level, index) whose graph or phase is not reached yet. -/
  cancels : List Nat := []
  cut : Nat := 0
  later : List (Nat × Nat) := []
  anyFail : Bool := false
  graphFail : Bool := false
  /-- The first packets of the graph and of the phase that the next completion belongs to (R388, R390). -/
  graphFrom : Nat := 0
  phaseFrom : Nat := 0
  lastAct : Nat := 0
  deriving DecidableEq, Repr

/-- A unit that has left its core, or the committed point state of one (R349, R392). Its context, cluster
slices and MS stand under the virtual hart of `id` (see `virtHart`). -/
structure Saved where
  id : Nat
  job : Nat
  queue : Nat
  index : Nat
  num : Nat
  left : Nat
  /-- Clusters it had, by die order. -/
  counts : List Nat
  ms : Bool
  /-- A committed point state in the journal, not a unit that waits to resume. -/
  journal : Bool
  /-- The record of its C-context (R338), and whether this is one. -/
  mate : Option Nat
  isMate : Bool
  /-- The clusters that it left, for R345. -/
  order : List Nat := []
  /-- Each slot's bank modes (R380), and the splice of a P-context. -/
  banks : List (List Nat)
  splice : Option Splice
  /-- The unit of a committed point state, whose context names none. -/
  ref : Option UnitRef := none
  /-- The first words of its save area (R377): SIZE, LIVE, the slots and dies, FORM and MSO as the unit left. -/
  header : List Word := []
  deriving DecidableEq, Repr

/-- What a queue without a slot keeps of its packets so far: that one of them, or of the graph that goes on, has failed,
a cancel that goes on, and where the graph and the phase began (R382, R388, R390). -/
structure QMarks where
  anyFail : Bool
  graphFail : Bool
  cut : Nat
  graphFrom : Nat
  phaseFrom : Nat
  deriving DecidableEq, Repr

structure Hearth where
  jobs : Sparse Job := []
  slots : Sparse QSlot := []
  /-- Queues that ask for a slot, in arrival order (R382). -/
  waiting : List Nat := []
  /-- Cancels of packets of queues that have no slot: key, level and index (R390). -/
  pending : List (Nat × Nat × Nat) := []
  marks : Sparse QMarks := []
  runs : Sparse Run := []
  saved : List Saved := []
  nextId : Nat := 0
  /-- Counts takes and other activity, for the orders of R344, R345 and R382. -/
  seq : Nat := 0
  /-- By PRIORITY level, the queue from which a packet was taken last (R340). -/
  rotation : Sparse Nat := []
  /-- Jobs with a pool event that the host has not answered (R371). -/
  poolEvents : List Nat := []
  /-- Pages (virtual address / 64 KiB) that the pager reported unmapped, by job (R367). -/
  unmapped : List (Nat × Nat) := []
  deriving DecidableEq, Repr

/-- The hart, core and first cluster under which a saved unit's state stands. -/
def virtCore (id : Nat) : Nat := 2 ^ 20 + id
def virtHart (id : Nat) : Nat := 4 * virtCore id
def virtCluster (id : Nat) : Nat := 16 * virtCore id

end Sys2Proof.Machine
end

