-- ==== Sys2Proof/Machine/PlatParts.lean ====
section
/-! DEFINITION. The parts of the state that belong to the platform: host port, Chain, boot, flash, error
logs, migration, patrol, trace and fleet registers (R410 to R461). -/

namespace Sys2Proof.Machine
open Sys2Proof

/-- An entry of the extent table (R430). -/
structure Extent where
  base : Word := 0
  hpa : Word := 0
  len : Word := 0
  state : Nat := 0
  deriving DecidableEq, Repr

/-- An entry of a stall table (R461). -/
structure StallEnt where
  cpc : Word
  ppc : Word
  cycles : Nat
  lag : Nat
  job : Nat
  count : Nat
  ms : Bool
  kind : Nat
  deriving DecidableEq, Repr

/-- A checkpoint region as the patrol engine holds it (R416, R417): its entry, bounds, CURSOR and the
sectors marked beyond it. -/
structure CkReg where
  entry : Nat
  base : Nat
  len : Nat
  cursor : Nat
  marks : List Nat
  deriving DecidableEq, Repr

/-- A page of the corrected-error table (R422). -/
structure CeEnt where
  page : Nat
  src : Nat
  mem : Nat
  sector : Nat
  count : Nat
  first : Word
  last : Word
  deriving DecidableEq, Repr

/-- A migration command under way (R411 to R413): its ring index, the spans it copies as source, destination and bytes, the
source sectors (address / 64) that its dirty filter holds, the recopy rounds used, a page's leaf (address and value), the virtual
addresses of RCNT of both blocks and of the listed entries, and, once those are locked, where they lie. -/
structure MigRun where
  index : Nat
  spans : List (Nat × Nat × Nat)
  dirty : List Nat := []
  rounds : Nat := 0
  leaf : Nat × Word := (0, 0)
  words : List Word := []
  locked : Bool := false
  places : List Nat := []
  deriving DecidableEq, Repr

/-- What boot has taken from the configuration record (R437). -/
structure Cfg where
  cfence : BitVec 128 := 0
  clfence : BitVec 512 := 0
  ports : BitVec 16 := 0
  nvf : Nat := 0
  derate : Nat := 0
  power : Nat := 2400
  debug : Nat := 0
  deriving DecidableEq, Repr

/-- A request of the host through BAR2 (R426). -/
inductive HostReq where
  | read (n : Nat)
  | write (bytes : List Byte)
  | atomic (op : HostAtomic) (n : Nat) (v cmp : Word)
  deriving DecidableEq, Repr

structure Plat where
  /-- STALLCTL, the valid entries by 64·table + entry, and STALLOVF (R461). -/
  stallctl : Word := 0
  stalls : Sparse StallEnt := []
  stallOvf : Sparse Word := []
  /-- The extent table by entry, and the host memory behind extents by host physical address (R430). -/
  extents : Sparse Extent := []
  hostMem : Sparse Byte := []
  /-- The answer to the last request of the host or a peer: bytes and whether they are poisoned; none where the
  request ends unsupported. -/
  answer : Option (List Byte × Bool) := none
  /-- Live ports by peer route (R432): ROUTE0 to ROUTE63, the ports that are down, failed replays. -/
  routes : Sparse Word := []
  portsDown : List Nat := []
  replays : Sparse Nat := []
  /-- The host link: PCIe generation, lanes, and whether CXL is trained (R424); BAR2SEL (R426). -/
  linkGen : Nat := 0
  linkLanes : Nat := 0
  linkCxl : Bool := false
  bar2sel : Word := 0
  /-- The size of the BAR2 window, as a power of 2: 30 to 39 (R426). -/
  bar2log : Nat := 30
  /-- Patrol (R416 to R418): SCRUBCTL, CKSET, the regions in use, and the next sector / 64. -/
  scrubctl : Word := 0x0001518000000001
  ckset : Word := 0
  ckRegs : List CkReg := []
  patrol : Nat := 0
  /-- Error logs (R420 to R423): ELOG, the corrected-error table (least recently used first), ECNT, SRAMERR. -/
  elog : Word := 0
  ceTab : List CeEnt := []
  ecnt : Sparse Word := []
  sramErr : Sparse Word := []
  /-- Migration (R410): MIGRING, and the ring indices that a doorbell has submitted and not finished. -/
  migring : Word := 0
  migJobs : List Nat := []
  migDone : List Nat := []
  /-- Temper and the clock (R352, R453): TEMPER, the dies' steps, CHANGES. -/
  temper : Word := 0x00000960000004E2
  steps : Sparse Nat := []
  changes : Nat := 0
  /-- Fences (R450) as written; bits from the configuration record are in `cfg`. -/
  fenceDie : BitVec 4 := 0
  fenceCore : BitVec 128 := 0
  fenceCl : BitVec 512 := 0
  /-- Failed cores and HBM stacks (R392; stack 8 is the LPDDR tier). -/
  failed : BitVec 128 := 0
  deadStacks : List Nat := []
  glost : Word := 0
  qerr : Sparse Word := []
  /-- Trace (R455, R456): TRCTL, DROPPED, drops since the last DROP record, trained lanes, the buffer oldest
  first and the records sent, each in bytes. -/
  trctl : Word := 0x000000FF003E0000
  dropped : Nat := 0
  drops : Nat := 0
  lanesUp : BitVec 8 := 0
  traceBuf : List (List Byte) := []
  traceOut : List (List Byte) := []
  /-- Breakpoints by 2·m + word (R457), DBGTOK, and the open debug session: its job and EXPIRY. -/
  bps : Sparse Word := []
  debug : Option (Nat × Word) := none
  /-- Boot and the mailbox (R439 to R444). -/
  mode : Nat := 0
  fatal : Nat := 0
  bootSlot : Nat := 15
  cmdst : Nat := 0
  /-- The command that a write to MBCMD began and that has not run, with its argument (R441). -/
  mbcmd : Option (Nat × BitVec 8) := none
  idLost : Bool := false
  cfgFail : Bool := false
  aReason : Nat := 0
  bReason : Nat := 0
  mbarg : Word := 0
  mbnonce : Sparse Byte := []
  mbdata : Sparse Byte := []
  meas : Sparse (List Byte) := []
  fwsvn : Nat := 0
  cfg : Cfg := {}
  /-- A warm reset has happened whose journal stage 3 has not restored (R439, R447). -/
  restore : Bool := false
  /-- The PUF key and the keys derived from it are on the dies (R438, R445). -/
  keys : Bool := false
  upload : Sparse Byte := []
  /-- Flash bytes that differ from their factory content; the counters below are its replay-protected area (R435). -/
  flash : Sparse Byte := []
  /-- A level 2 alarm has erased the PUF helper data, at 0x001_0000 of the flash (R435, R445). -/
  helperGone : Bool := false
  cfgsvn : Nat := 0
  qcount1 : Nat := 0
  qcount2 : Nat := 0
  deriving DecidableEq, Repr

end Sys2Proof.Machine
end

