-- ==== Sys2Proof/Machine/State.lean ====
section
/-! DEFINITION. The state of the machine, why a step may stop, and the state after reset. -/

namespace Sys2Proof.Machine
open Sys2Proof

/-- A move of the hardware or of the outside world that is no row of the opcode table (log 1). -/
inductive Move where
  /-- A cache-way sector of a cluster is evicted (R67). -/
  | dropSector (cluster sector : Nat)
  /-- A TLB slice drops its copies (R364). -/
  | dropTlb (core cls : Nat)
  /-- A line leaves L2, which clears the links on it (R77). -/
  | evictLine (line : Nat)
  /-- The host or a peer writes its own memory (R425). -/
  | outside (pa : Nat) (bytes : List Byte)
  /-- The host writes memory of a CXL device behind an extent, by host physical address (R430). -/
  | hostOwn (hpa : Nat) (bytes : List Byte)
  /-- Instruction bytes are fetched ahead of their use (R153). -/
  | prefetch (a : Agent) (va : Word) (n : Nat)
  /-- Elements of the vector load at which a context or strip stands are read ahead of the others (R68, R358). -/
  | readAhead (hart : Nat) (elems : List Nat)
  /-- A started engine command writes its next n sectors and goes on later (R310, R376). -/
  | commandPart (hart id n : Nat)
  /-- An access of source `src` finds a word of device memory, or of an L2 line, with an uncorrectable error
  (R373, R419). -/
  | poison (word src : Nat) (l2 : Bool)
  /-- An access finds a corrected error in a sector (R419). -/
  | corrected (sector src : Nat) (l2 : Bool)
  /-- An error in a vector slot, billet byte, Plate byte, Crucible element, scratchpad word or word of a cache-way copy
  (stores 0 to 5), or in an element that a FIFO bank holds for a passed tensor, a read or a write stream (stores 6 to 8), named
  by the key of its store: uncorrectable, or corrected (R373, R458). -/
  | strike (store key : Nat) (fatal : Bool)
  /-- An entry of a copy of the journal, in HBM or in the LPDDR tier, no longer bears out its tag (R438, R447). -/
  | journalError (tier : Bool) (key index : Nat)
  /-- The core monitor that Dvorlia ships disposes of a trap (R371). -/
  | monitor (hart : Nat)
  /-- The seams of a forge die fail for a moment: an exchange in flight over them ends in cause 34 (R208). -/
  | seamLoss (die : Nat)
  /-- A record leaves on the trace lanes (R455). -/
  | traceSend
  /-- A boot after reset runs its stages (R439). -/
  | boot
  /-- A bit of a context's sip is driven (R171). -/
  | supervisorLine (hart bit : Nat) (up : Bool)
  /-- The host makes a request at an offset of the BAR2 window of the PF (none) or of a VF (R426, R427). -/
  | bar2 (fn : Option Nat) (off : Nat) (req : HostReq)
  /-- The host gives the BAR2 window another size (R426). -/
  | bar2Resize (log : Nat)
  /-- An aligned 8-byte write to the BAR0 of a VF (R427). -/
  | vfWrite (vf off : Nat) (v : Word)
  /-- The host asks through the control registers that a unit be pre-empted (R349). -/
  | preemptRequest (hart : Nat)
  deriving DecidableEq, Repr

/-- An entry of the agenda: what moves next (log 1). -/
inductive Turn where
  | agent (a : Agent)
  | event (i : Instr)
  | move (m : Move)
  deriving DecidableEq, Repr

/-- Why the machine stops. -/
inductive Fault where
  /-- Raised by `step` when the agenda names a context, core, slot or interpreter that does not exist, and
  by a meaning that is executed while no agent of its kind is moving. Safe: no behaviour of the hardware
  is left out, because no such agent exists. -/
  | noSuchAgent
  deriving DecidableEq, Repr

/-- Why an instruction has no meaning here. -/
inductive Refusal where
  /-- Raised by an arm of `exec` that has no meaning yet. Safe: nothing can be proved of it. -/
  | notModelled (mnemonic : String)
  deriving DecidableEq, Repr

/-- The whole machine. -/
structure State where
  /-- The agent that moves (the model's own, log 1). -/
  who : Agent
  /-- What moves in the coming steps; when it is empty the default order of log 1 applies. -/
  agenda : List Turn
  /-- Steps taken (the model's own; cycle and time are functions of it, log 2). -/
  tick : Nat
  /-- Free values drawn (the model's own, log 2). -/
  free : Nat
  ctxs : Sparse Ctx
  clus : Sparse Clus
  cores : Sparse Core
  mss : Sparse Ms
  /-- Device, host and peer memory by physical address; an unlisted byte reads 0 (log 3). -/
  mem : List Host.Cell
  /-- Poisoned 4-byte words, by physical address / 4 (R373). -/
  memPois : Sparse Bool
  /-- What each store overwrote while a PARAM window is bound: address and bytes, newest first (R80). -/
  memLog : List (Nat × List Byte)
  /-- Lines of granted extents that L2 holds dirty, by address / 512 (R431). -/
  dirty : List Nat
  /-- Migration commands under way, with their dirty filters (R411). -/
  migs : List MigRun
  /-- Entries of the checkpoint set table that have been written and not taken up (R416). -/
  ckNew : List Nat
  /-- Vector slots: key ((4·cluster + context)·32 + register)·128 + slot (R6, R13). -/
  vreg : Sparse Slot
  vpois : Sparse Bool
  /-- Mask bits: key ((4·cluster + context)·9 + register)·2048 + position; register 8 is mf (R188, R378). -/
  mbit : Sparse Bool
  mpois : Sparse Bool
  /-- Micro-threads: key (4·cluster + context)·128 + position (R18). -/
  mts : Sparse Mt
  /-- Spliced units by their P-context (R331). -/
  splices : Sparse Splice
  /-- Bank modes: key 16·cluster + bank; 0 cache way, 1 scratchpad, 2 FIFO (R22). -/
  bankMode : Sparse Nat
  /-- Switches that wait for a held bank (R23). -/
  bankReq : Sparse Nat
  /-- Scratchpad bytes: key (16·cluster + bank)·65536 + byte (R24); poison by 4-byte word. -/
  scratch : Sparse Byte
  scratchPois : Sparse Bool
  /-- Cache-way sectors: key cluster·2^46 + address / 64 (R67). -/
  ways : Sparse Way
  tlb : List TlbEnt
  /-- Billets: key 8·core + billet; row bytes ·16384; scales ·1024, unlisted 0x38 (R263). -/
  billets : Sparse Billet
  brow : Sparse Byte
  bpois : Sparse Bool
  bscale : Sparse Byte
  /-- Plate bytes: key (core·16384 + row)·256 + column (R271); segment tags: 64·core + segment (R272). -/
  plate : Sparse Byte
  platePois : Sparse Bool
  segs : Sparse Seg
  /-- Crucible elements: key ((24·core + handle)·128 + row)·256 + column (R14, R286). -/
  cruc : Sparse (BitVec 32)
  crucPois : Sparse Bool
  handles : Sparse Handle
  hearth : Hearth
  plat : Plat
  deriving DecidableEq, Repr

/-- The machine after a cold reset. -/
def State.reset : State :=
  { who := .idle, agenda := [], tick := 0, free := 0
    ctxs := [], clus := [], cores := [], mss := []
    mem := [], memPois := [], memLog := [], dirty := [], migs := [], ckNew := []
    vreg := [], vpois := [], mbit := [], mpois := [], mts := [], splices := []
    bankMode := [], bankReq := [], scratch := [], scratchPois := [], ways := [], tlb := []
    billets := [], brow := [], bpois := [], bscale := []
    plate := [], platePois := [], segs := []
    cruc := [], crucPois := [], handles := []
    hearth := {}, plat := {} }

end Sys2Proof.Machine
end

