-- ==== Sys2Proof/Machine/Ops.lean ====
section
/-! DEFINITION. The named operations over the state: sparse stores, contexts and issuers, the clusters a
context holds, home memory with its poison, cache-way copies, links and class queues, taking an
exception (R175) and returning from one (R178). -/

namespace Sys2Proof.Machine
open Sys2Proof

/-- What a step answers. -/
abbrev Out := Host.Outcome State Fault Refusal

/-! Sparse stores. -/

/-- The value at a key, `d` where none is listed. -/
def sparseGet {α : Type} (d : α) : Sparse α → Nat → α
  | [], _ => d
  | (k', v) :: t, k => if k = k' then v else if k < k' then d else sparseGet d t k

/-- Lists a value at a key. -/
def sparsePut {α : Type} : Sparse α → Nat → α → Sparse α
  | [], k, v => [(k, v)]
  | (k', v') :: t, k, v =>
    if k = k' then (k, v) :: t else if k < k' then (k, v) :: (k', v') :: t else (k', v') :: sparsePut t k v

/-- Lists a value at a key, or nothing where it is the value an unlisted key holds. -/
def sparseSet {α : Type} [DecidableEq α] (d : α) : Sparse α → Nat → α → Sparse α
  | [], k, v => if v = d then [] else [(k, v)]
  | (k', v') :: t, k, v =>
    if k = k' then (if v = d then t else (k, v) :: t)
    else if k < k' then (if v = d then (k', v') :: t else (k, v) :: (k', v') :: t)
    else (k', v') :: sparseSet d t k v

/-- Forgets every key from lo up to, not including, hi. -/
def sparseClear {α : Type} (m : Sparse α) (lo hi : Nat) : Sparse α :=
  m.filter fun p => p.1 < lo || hi ≤ p.1

/-- The canonical form: keys strictly rising, no entry equal to the unlisted value. -/
def canonical {α : Type} [DecidableEq α] (d : α) : Sparse α → Bool
  | [] => true
  | [(_, v)] => v ≠ d
  | (k, v) :: (k', v') :: t => v ≠ d && k < k' && canonical d ((k', v') :: t)

/-! Contexts and their parts. -/

def State.ctx (s : State) (h : Nat) : Ctx := sparseGet {} s.ctxs h
def State.setCtx (s : State) (h : Nat) (c : Ctx) : State := { s with ctxs := sparsePut s.ctxs h c }
def State.modCtx (s : State) (h : Nat) (f : Ctx → Ctx) : State := s.setCtx h (f (s.ctx h))
def State.ms (s : State) (g : Nat) : Ms := sparseGet {} s.mss g
def State.setMs (s : State) (g : Nat) (m : Ms) : State := { s with mss := sparsePut s.mss g m }
def State.modMs (s : State) (g : Nat) (f : Ms → Ms) : State := s.setMs g (f (s.ms g))
def State.core (s : State) (g : Nat) : Core := sparseGet {} s.cores g
def State.setCore (s : State) (g : Nat) (c : Core) : State := { s with cores := sparsePut s.cores g c }
def State.cluster (s : State) (q : Nat) : Clus := sparseGet {} s.clus q
def State.setCluster (s : State) (q : Nat) (c : Clus) : State := { s with clus := sparsePut s.clus q c }

/-- The core of a hart, and its context number (R448). -/
def coreOf (h : Nat) : Nat := h / 4
def ctxNo (h : Nat) : Nat := h % 4
def dieOfCore (g : Nat) : Nat := g / 32

/-- The hart whose windows, translation root and class queues an agent uses (R128). -/
def State.hart (s : State) : Nat :=
  match s.who with
  | .ct h => h
  | .mt h _ => h
  | .ind h _ => h
  | .bellows h => h
  | .ms g => (s.ms g).owner.getD (4 * g)
  | .idle => 0
  | .crill .. => 0

/-- The core of the moving agent. -/
def State.issuerCore (s : State) : Nat :=
  match s.who with
  | .ms g => g
  | _ => coreOf s.hart

def State.isMs (s : State) : Bool := match s.who with | .ms _ => true | _ => false
/-- Reads for the moving agent's context as user, as every descriptor read is made (R361). -/
def asUser {α : Type} (f : State → α × State) (s : State) : α × State :=
  let who := s.who
  let (r, t) := f (match who with
    | .ct h => { s with who := .bellows h }
    | .ind h _ => { s with who := .bellows h }
    | _ => s)
  (r, { t with who := who })

def State.isInd (s : State) : Bool := match s.who with | .ind .. => true | _ => false

/-- A scalar register of a context (R149): x0 reads 0, and a running handler sees the shadow copies of
x10 to x17 (R180). -/
def Ctx.rx (c : Ctx) (r : Reg) : Word :=
  if r = 0#5 then 0#64
  else if c.handler ∧ 10 ≤ r.toNat ∧ r.toNat ≤ 17 then c.shadow.toArray.getD (r.toNat - 10) 0#64
  else c.x[r.toFin]

/-- Writes a scalar register of a context; a write of x0 is discarded. -/
def Ctx.wx (c : Ctx) (r : Reg) (v : Word) : Ctx :=
  if r = 0#5 then c
  else if c.handler ∧ 10 ≤ r.toNat ∧ r.toNat ≤ 17 then
    { c with shadow := c.shadow.setIfInBounds (r.toNat - 10) v }
  else { c with x := c.x.set r.toFin v }

def Ms.rx (m : Ms) (r : Reg) : Word := if r = 0#5 then 0#64 else m.x[r.toFin]
def Ms.wx (m : Ms) (r : Reg) (v : Word) : Ms := if r = 0#5 then m else { m with x := m.x.set r.toFin v }

/-- The moving agent's scalar register. -/
def State.rx (s : State) (r : Reg) : Word :=
  match s.who with
  | .ms g => (s.ms g).rx r
  | _ => (s.ctx s.hart).rx r

def State.wx (s : State) (r : Reg) (v : Word) : State :=
  match s.who with
  | .ms g => s.modMs g (·.wx r v)
  | _ => s.modCtx s.hart (·.wx r v)

/-- A fresh free value (log 2). -/
def State.draw (s : State) : Word × State := (Config.freeBits s.free, { s with free := s.free + 1 })
def State.drawNat (s : State) : Nat × State := (Config.freeNat s.free, { s with free := s.free + 1 })

/-- Goes on with a result, or ends with its error. -/
def after {ε α β σ : Type} (r : Except ε α × σ) (k : α → σ → Except ε β × σ) : Except ε β × σ :=
  match r with
  | (.error e, s) => (.error e, s)
  | (.ok a, s) => k a s

/-! Retiring an instruction. -/

/-- An instruction completes or traps: its wait is over, and in user mode the one-shot skip ends (R375). -/
def Ctx.endSkip (c : Ctx) : Ctx :=
  let c := { c with atWait := false, inWfi := false, ahead := [], sampled := [] }
  if c.mode = .user then { c with spsn := c.spsn &&& 0xFFFFFFFFFFFFFFFE } else c

def stripOf (c : Ctx) (slot : Nat) : Option Strip := c.loop.strips.find? (·.slot = slot)
def modStrip (c : Ctx) (slot : Nat) (f : Strip → Strip) : Ctx :=
  { c with loop := { c.loop with strips := c.loop.strips.map fun t => if t.slot = slot then f t else t } }

/-- The address of the moving agent's instruction. -/
def State.pc (s : State) : Word :=
  match s.who with
  | .ms g => (s.ms g).pc
  | .ind h slot =>
    let c := s.ctx h
    c.loop.start + BitVec.ofNat 64 (((stripOf c slot).map (·.off)).getD 0)
  | _ => (s.ctx s.hart).pc

/-- The moving agent's instruction is complete and the next one follows it. -/
def State.retire (s : State) (len : Nat) : State :=
  match s.who with
  | .ct h => s.modCtx h fun c => { c.endSkip with pc := c.pc + BitVec.ofNat 64 len, instret := c.instret + 1, stallOn := none }
  | .ms g => s.modMs g fun m => { m with pc := m.pc + BitVec.ofNat 64 len, instret := m.instret + 1, atWait := false, stallOn := none }
  | .ind h slot => s.modCtx h fun c =>
    modStrip { c.endSkip with instret := c.instret + 1 } slot fun t => { t with off := t.off + len, stallOn := none }
  | _ => s

/-- The moving agent's instruction is complete and control goes to `target`. -/
def State.jump (s : State) (target : Word) : State :=
  match s.who with
  | .ct h => s.modCtx h fun c => { c.endSkip with pc := target, instret := c.instret + 1, stallOn := none }
  | .ms g => s.modMs g fun m => { m with pc := target, instret := m.instret + 1, atWait := false, stallOn := none }
  | _ => s

/-! Waiting (R459, R461). -/

/-- STALL_CHARGE (R459, R461): lost cycles of kind k, with their producer and element lag, go to the entry of the pair, to the
lowest free entry, or to STALLOVF. Each of n clusters counts its own. The cycles that pass in a step are free. -/
def chargeTable (p : Plat) (table job : Nat) (e : StallEnt) (fresh : Bool) (n cycles : Nat) : Plat :=
  let cap (v : Nat) := Nat.min v 0xFFFFFFFF
  let keys := (List.range 64).map (· + 64 * table)
  let isMatch (k : Nat) : Bool := match p.stalls.find? (·.1 = k) with
    | some (_, o) => o.cpc = e.cpc && o.ppc = e.ppc && o.job = job && o.ms = e.ms && o.kind = e.kind
    | none => false
  match keys.find? isMatch with
  | some k =>
    let o := sparseGet e p.stalls k
    { p with
      stalls := sparsePut p.stalls k { o with
        cycles := cap (o.cycles + n * cycles), lag := Nat.max o.lag (Nat.min e.lag 0xFFFF)
        count := if fresh then cap (o.count + n) else o.count } }
  | none =>
    match keys.find? fun k => !p.stalls.any (·.1 = k) with
    | some k => { p with
        stalls := sparsePut p.stalls k { e with cycles := cap (n * cycles), lag := Nat.min e.lag 0xFFFF, count := n } }
    | none => { p with
        stallOvf := sparsePut p.stallOvf table (sparseGet 0 p.stallOvf table + BitVec.ofNat 64 (n * cycles)) }

/-! The clusters a context holds (R8 to R14, R28). -/

/-- The context whose clusters a context holds: the P-context of a spliced unit (R331), else itself. -/
def State.holder (s : State) (h : Nat) : Nat := ((s.ctx h).unit.bind (·.splice)).getD h

/-- The cluster order: the clusters attached to the context, ascending (R9, R28). -/
def State.order (s : State) (h : Nat) : List Nat :=
  (s.clus.filter fun p => p.2.attached = some (s.holder h)).map (·.1)

/-- What the moving agent waited for in its last step (R459). -/
def State.stallOn (s : State) : Option (Nat × Word) :=
  match s.who with
  | .ms g => (s.ms g).stallOn
  | .ind h slot => (stripOf (s.ctx h) slot).bind (·.stallOn)
  | _ => (s.ctx s.hart).stallOn
def State.setStallOn (s : State) (v : Nat × Word) : State :=
  match s.who with
  | .ms g => s.modMs g fun m => { m with stallOn := some v }
  | .ind h slot => s.modCtx h fun c => modStrip c slot fun t => { t with stallOn := some v }
  | _ => s.modCtx s.hart fun c => { c with stallOn := some v }

/-- The issue stages that hold an instruction of the moving agent: the MS's, a strip's cluster's, or those of the context's
clusters (R459). -/
def State.issuers (s : State) : Nat :=
  match s.who with
  | .ct h => Nat.max 1 (s.order h).length
  | _ => 1

/-- The moving agent waits: its instruction has no effect in this step. Kind 0 is a wait that no account
records (R460). -/
def State.stallFor (s : State) (kind : Nat) (ppc : Word) (lag : Nat) : State :=
  let h := s.hart
  let job := ((s.ctx h).unit.map (·.job)).getD 0
  let ctl := s.plat.stallctl
  let on := ctl.getLsbD 0 && !ctl.getLsbD 1 &&
    (ctl.getLsbD 47 || (ctl.extractLsb' 48 16).toNat == job)
  if kind = 0 ∨ !on then s
  else
    let e : StallEnt := { cpc := s.pc, ppc := ppc, cycles := 0, lag := lag, job := job, count := 0,
                          ms := s.isMs, kind := kind }
    let fresh : Bool := s.stallOn ≠ some (kind, ppc)
    { s.setStallOn (kind, ppc) with
      plat := chargeTable s.plat h job e fresh s.issuers (Config.cycleGap s.issuerCore s.tick) }

def State.stall (s : State) : State := s.stallFor 0 0 0

/-- A wait that honours a pre-emption request of the unit (R349): `step` takes it there. -/
def State.waitFor (s : State) (kind : Nat) (ppc : Word) (lag : Nat) : State :=
  let t := s.stallFor kind ppc lag
  match s.who with
  | .ct h => t.modCtx h fun c => { c with atWait := true }
  | .ind h _ => t.modCtx h fun c => { c with atWait := true }
  | .ms g => t.modMs g fun m => { m with atWait := true }
  | _ => t
def State.wait (s : State) : State := s.waitFor 0 0 0

/-- `dies`: dies attached, 1 outside a span launch (R158). -/
def diesOf (order : List Nat) : Nat := Nat.max 1 (order.map (· / 128)).eraseDups.length

/-- SEW in bytes and LMUL of a valid `vty` (R157). -/
def vtySb (vty : Word) : Nat := if vty.extractLsb' 0 2 = 1#2 then 2 else 4
def vtyLmul (vty : Word) : Nat := 2 ^ (vty.extractLsb' 2 2).toNat
def vtyVill (vty : Word) : Bool := vty.getLsbD 63

/-- VLMAX under R14; 0 while VILL is set (R156). -/
def vlmaxOf (n : Nat) (vty : Word) : Nat :=
  if vtyVill vty then 0 else n * 512 * vtyLmul vty / vtySb vty

/-- CCAP bounds a grant unless it is 0 (R14). -/
def capped (ccap n v : Nat) : Nat := if ccap = 0 then v else Nat.min v (ccap * n)

/-- The elements an instruction of the moving agent acts on: the clusters in order, `vl`, the element
size and grouping, and the strip base of `vsidx` (R13, R164, R167). -/
structure View where
  hart : Nat
  order : List Nat
  /-- Every cluster of the context, and the slot of `order` in it (R369). -/
  all : List Nat
  slot : Nat
  vl : Nat
  sb : Nat
  lmul : Nat
  base : Nat
  vty : Word

def noStrip (slot : Nat) : Strip :=
  { slot := slot, base := 0, size := 0, vl := 0, off := 0, stop := none, first := 0, fin := 0 }

def State.view (s : State) : View :=
  let h := s.hart
  let c := s.ctx h
  let ord := s.order h
  match s.who with
  | .ind _ slot =>
    let t := (stripOf c slot).getD (noStrip slot)
    let one := (ord.drop slot).take 1
    { hart := h, order := one, all := ord, slot := slot, vl := Nat.min t.vl (vlmaxOf one.length c.vty)
      sb := vtySb c.vty, lmul := vtyLmul c.vty, base := t.base, vty := c.vty }
  | _ =>
    { hart := h, order := ord, all := ord, slot := 0, vl := Nat.min c.vl (vlmaxOf ord.length c.vty)
      sb := vtySb c.vty, lmul := vtyLmul c.vty
      base := if c.loop.mode = .seq then c.loop.base else 0, vty := c.vty }

def View.n (v : View) : Nat := v.order.length
def View.vlmax (v : View) : Nat := vlmaxOf v.n v.vty
def View.bits (v : View) : Nat := 8 * v.sb
/-- The number of the micro-thread at element 0 (R18). -/
def View.mt0 (v : View) : Nat := 128 * v.slot

/-- Where element e of a group lies under R13: cluster, register of the group, byte of the 512. -/
def placeOf (order : List Nat) (sb e : Nat) : Nat × Nat × Nat :=
  let n := order.length
  (order.getD (e * sb / 512 % n) 0, e * sb / (512 * n), e * sb % 512)
def View.loc (v : View) (e : Nat) : Nat × Nat × Nat := placeOf v.order v.sb e

/-- The element lag of a wait (R459, log 115): of the elements l, ascending, that still lack the producer, each cluster needs
its first; the greatest of these, less the k that the producer has delivered. -/
def View.lag (v : View) (l : List Nat) (k : Nat) : Nat :=
  (v.order.filterMap fun q => l.find? fun e => (v.loc e).1 = q).foldl Nat.max 0 - k

/-- The place of a mask bit in its cluster: the element's rank among those the cluster holds (R378). -/
def maskPlace (order : List Nat) (sb e : Nat) : Nat × Nat :=
  let (q, r, b) := placeOf order sb e
  (q, r * (512 / sb) + b / sb)
def View.maskLoc (v : View) (e : Nat) : Nat × Nat := maskPlace v.order v.sb e
/-- The place of bit e of `mf`: in a `.ind` strip of slot s it is bit s·C + e of the context's (R369). -/
def View.mfLoc (v : View) (e : Nat) : Nat × Nat :=
  maskPlace v.all v.sb (v.slot * (512 * v.lmul / v.sb) + e)

/-! Home memory (R67, R373). -/

def State.memByte (s : State) (pa : Nat) : Byte := sparseGet 0#8 s.mem pa
/-- The HBM stack of an address, or 8 for the LPDDR tier (R406, R421). -/
def memOf (pa : Nat) : Nat :=
  if pa < 0x8000000000 then 2 * (pa / 2 ^ 37 % 4) + (pa / 2 ^ 11 % 2 + pa / 2 ^ 16 % 2) % 2 else 8
/-- A word is poisoned by an error, or by the failure of the stack that holds it. -/
def State.wordPois (s : State) (pa : Nat) : Bool :=
  sparseGet false s.memPois (pa / 4) ||
  (pa < 0x40000000000 && s.plat.deadStacks.contains (memOf pa))

/-- Canonical form of memory. -/
abbrev Memory.wf (m : List Host.Cell) : Prop := canonical (0#8 : Byte) m = true

def State.memBytes (s : State) (pa n : Nat) : List Byte := (List.range n).map fun i => s.memByte (pa + i)
def State.memNat (s : State) (pa n : Nat) : Nat := leNat (s.memBytes pa n)
/-- Whether any byte of the n at pa lies in a poisoned word. -/
def State.memPoisoned (s : State) (pa n : Nat) : Bool := (List.range n).any fun i => s.wordPois (pa + i)

/-- Whether some window is bound whose PARAM path may still read old bytes (R80). -/
def Win.isParam (w : Win) : Bool := w.bound && !w.fresh && ((w.desc.getD 1 0).extractLsb' 48 3 == 1#3)
def State.paramBound (s : State) : Bool := s.ctxs.any fun p => p.2.wins.toList.any Win.isParam

/-- Whose store it is: a context's, its MS's or one of its thread-fetched micro-threads' on a core (parties of their
own, R65), or one that comes from no core. -/
inductive Writer where
  | hart (h : Nat)
  | msOf (g : Nat)
  | mtOf (g : Nat)
  | other
  deriving DecidableEq, Repr

def Writer.core? : Writer → Option Nat
  | .hart h => some (coreOf h)
  | .msOf g => some g
  | .mtOf g => some g
  | .other => none

def mergeByte (old v mask : Byte) : Byte := (old &&& ~~~mask) ||| (v &&& mask)

def putMem (m : List Host.Cell) (pa : Nat) : List (Byte × Byte) → List Host.Cell
  | [] => m
  | (v, k) :: t => putMem (sparseSet 0#8 m pa (mergeByte (sparseGet 0#8 m pa) v k)) (pa + 1) t

/-- The 4-byte words that n bytes at pa write whole. -/
def wholeWords (pa n : Nat) : List Nat :=
  (List.range ((pa + n) / 4 - (pa + 3) / 4)).map (· + (pa + 3) / 4)

/-- Bits [8i+7:8i] of a sector. -/
def sectorByte (d : BitVec 512) (i : Nat) : Byte := d.extractLsb' (8 * i) 8
def setSectorByte (d : BitVec 512) (i : Nat) (b : Byte) : BitVec 512 :=
  (d &&& ~~~(255#512 <<< (8 * i))) ||| ((b.zeroExtend 512) <<< (8 * i))

def wayKey (q pa : Nat) : Nat := q * 2 ^ 46 + pa / 64

/-- The bytes of a store that fall into the sector at `base`, merged into a copy of it. -/
def mergeSector (base : Nat) (d : BitVec 512) (pa : Nat) : List (Byte × Byte) → BitVec 512
  | [] => d
  | (v, k) :: t =>
    let d' := if base ≤ pa ∧ pa < base + 64 then
      setSectorByte d (pa - base) (mergeByte (sectorByte d (pa - base)) v k) else d
    mergeSector base d' (pa + 1) t

/-- A store updates the copies in the cache ways of its own core (R67). -/
def updateWays (ws : Sparse Way) (g pa : Nat) (bs : List (Byte × Byte)) : Sparse Way :=
  ws.map fun p =>
    let q := p.1 / 2 ^ 46
    let base := p.1 % 2 ^ 46 * 64
    if q / 4 = g ∧ base < pa + bs.length ∧ pa < base + 64 then
      let clean := wholeWords pa bs.length
      let keep := (List.range 16).foldl (fun m i =>
        if clean.contains (base / 4 + i) then m &&& ~~~(1#16 <<< i) else m) p.2.pois
      (p.1, { p.2 with data := mergeSector base p.2.data pa bs, pois := keep })
    else p

/-- Whether a write to n bytes at pa touches a line of 512 B or a sector of 64 B. -/
def touches (unit k pa n : Nat) : Bool := k * unit < pa + n && pa < k * unit + unit

/-- Another party's write clears the links and reservations it touches (R77, R151). -/
def clearLinks (cs : Sparse Ctx) (own : Option Nat) (pa n : Nat) : Sparse Ctx :=
  cs.map fun p =>
    if own = some p.1 then p
    else (p.1, { p.2 with
      links := p.2.links.filter fun l => !touches 512 l pa n
      resv := p.2.resv.filter fun r => !touches 64 r pa n })

def Writer.hart? : Writer → Option Nat
  | .hart h => some h
  | _ => none

/-- Adds the extent lines that n bytes at pa are in to the dirty ones (R425, R431). -/
def soil (l : List Nat) (pa n : Nat) : List Nat :=
  if pa < 0x100000000000 ∨ 0x200000000000 ≤ pa then l
  else ((List.range ((pa + n + 511) / 512 - pa / 512)).map (pa / 512 + ·)).foldl (fun l k => if l.contains k then l else k :: l) l

/-- The sectors of its source that a write of n bytes at pa touches go to the dirty filter of a migration (R411). -/
def MigRun.mark (r : MigRun) (pa n : Nat) : MigRun :=
  { r with dirty := ((List.range ((pa + n + 63) / 64 - pa / 64)).map (pa / 64 + ·)).foldl (fun l k =>
      if r.spans.any (fun (x, _, m) => x ≤ 64 * k && 64 * k < x + m) && !l.contains k then l ++ [k] else l) r.dirty }

/-- The entries of the checkpoint set table at `at'` whose BASE or LEN a write of n bytes at pa touches (R416). -/
def ckTouched (at' : Nat) (l : List Nat) (pa n : Nat) : List Nat :=
  if pa + n ≤ at' ∨ at' + 2048 ≤ pa then l
  else l ++ ((List.range 64).filter fun k => pa < at' + 32 * k + 16 && at' + 32 * k < pa + n && !l.contains k)

/-- A write performed at the home slice in one update (R67, R68): the bytes, the poison of the words it
writes whole, the store history of PARAM windows, the copies of its own core and the links of others. -/
def State.homeWrite (s : State) (w : Writer) (pa : Nat) (bs : List (Byte × Byte)) : State :=
  { s with
    memLog := if s.paramBound then (pa, s.memBytes pa bs.length) :: s.memLog else s.memLog
    mem := putMem s.mem pa bs
    dirty := soil s.dirty pa bs.length
    migs := s.migs.map (·.mark pa bs.length)
    ckNew := ckTouched s.plat.ckset.toNat s.ckNew pa bs.length
    memPois := if bs.all (fun b => b.2 = 0xFF#8) then
        (wholeWords pa bs.length).foldl (fun m k => sparseSet false m k false) s.memPois else s.memPois
    ways := match w.core? with
      | some g => updateWays s.ways g pa bs
      | none => s.ways
    ctxs := clearLinks s.ctxs w.hart? pa bs.length }

def fullBytes (bs : List Byte) : List (Byte × Byte) := bs.map (·, 0xFF#8)

/-- Marks or cleans the words that n bytes at pa touch. -/
def State.setPois (s : State) (pa n : Nat) (p : Bool) : State :=
  { s with
    memPois := (List.range ((pa + n + 3) / 4 - pa / 4)).foldl
      (fun m i => sparseSet false m (pa / 4 + i) p) s.memPois }

/-! Class queues (R70). -/

def classOf (pa : Nat) : Nat := pa / 512 % 4

/-- A byte as its own context sees it: its queued stores over the home value (R67). -/
def overlay (q : List Pending) (pa : Nat) (b : Byte) : Byte :=
  q.foldl (fun b p =>
    if p.pa ≤ pa ∧ pa < p.pa + p.bytes.length then
      match p.bytes[pa - p.pa]? with
      | some (v, k) => mergeByte b v k
      | none => b
    else b) b

/-- Whether a queued store writes the whole word that holds pa. -/
def coversWord (q : List Pending) (pa : Nat) : Bool :=
  q.any fun p => p.bytes.all (fun b => b.2 = 0xFF#8) && (wholeWords p.pa p.bytes.length).contains (pa / 4)

/-! Micro-threads by number (R18): number i is position i mod 128 of the cluster at slot i / 128. -/

def mtKeyOf (order : List Nat) (h i : Nat) : Nat := (4 * order.getD (i / 128) 0 + ctxNo h) * 128 + i % 128
def State.mtKey (s : State) (h i : Nat) : Nat := mtKeyOf (s.order h) h i
def State.thread (s : State) (h i : Nat) : Mt := sparseGet {} s.mts (s.mtKey h i)
def State.setThread (s : State) (h i : Nat) (m : Mt) : State := { s with mts := sparsePut s.mts (s.mtKey h i) m }

/-- The moving agent is a micro-thread that runs blocks it fetched itself: a party of its own (R81, R261). -/
def State.ownParty (s : State) : Bool :=
  match s.who with
  | .mt h i => (s.thread h i).own
  | _ => false

/-- The moving agent's queue: its own for the MS and for a thread-fetched micro-thread, the context's otherwise (R25,
R81, R128). -/
def State.queue (s : State) : List Pending :=
  match s.who with
  | .ms g => (s.ms g).queue
  | .mt h i => if (s.thread h i).own then (s.thread h i).queue else (s.ctx h).queue
  | _ => (s.ctx s.hart).queue

def State.setQueue (s : State) (q : List Pending) : State :=
  match s.who with
  | .ms g => s.modMs g fun m => { m with queue := q }
  | .mt h i =>
    if (s.thread h i).own then s.setThread h i { s.thread h i with queue := q }
    else s.modCtx h fun c => { c with queue := q }
  | _ => s.modCtx s.hart fun c => { c with queue := q }

/-- The key of the moving micro-thread. -/
def State.mtTag (s : State) : Option Nat :=
  match s.who with
  | .mt h i => some (s.mtKey h i)
  | _ => none

/-- The stores the moving agent sees before they are performed (R67): those of its party, and to a micro-thread that runs
blocks it fetched itself also those of its vector-fetched block. -/
def State.seen (s : State) : List Pending :=
  match s.who with
  | .mt h i =>
    if (s.thread h i).own then (s.ctx h).queue.filter (·.mt = some (s.mtKey h i)) ++ (s.thread h i).queue
    else (s.ctx h).queue
  | _ => s.queue

/-- A context's micro-threads, by key: those of its clusters, and those that it has left stopped in clusters of its core
that it has given up, whose stores may still wait (R10, R81). -/
def State.threadsOf (s : State) (h : Nat) : Sparse Mt :=
  s.mts.filter fun p => p.1 / 128 % 4 = ctxNo h && ((s.order h).contains (p.1 / 512) || p.1 / 2048 = coreOf h)

/-- The stores of micro-threads join their context's own, in the order of the numbers (R81). -/
def State.joinThreads (s : State) (h : Nat) (who : Nat → Mt → Bool) : State :=
  let l := (s.threadsOf h).filter fun p => who p.1 p.2 && !p.2.queue.isEmpty
  if l.isEmpty then s
  else
    let s := s.modCtx h fun c => { c with queue := c.queue ++ l.flatMap fun p => p.2.queue.map fun e => { e with mt := some p.1 } }
    { s with mts := s.mts.map fun p => if l.any (·.1 = p.1) then (p.1, { p.2 with queue := [] }) else p }

/-- Whether a store of a context waits: its own, or one of its micro-threads'. -/
def State.storesWait (s : State) (h : Nat) : Bool :=
  !(s.ctx h).queue.isEmpty || (s.threadsOf h).any fun p => !p.2.queue.isEmpty

def State.writer (s : State) : Writer :=
  match s.who with
  | .ms g => .msOf g
  | .ct h => .hart h
  | .mt h i => if (s.thread h i).own then .mtOf (coreOf h) else .hart h
  | .ind h _ => .hart h
  | .bellows h => .hart h
  | _ => .other

/-- A store enters its class queue (R71). -/
def State.enqueue (s : State) (pa : Nat) (bs : List (Byte × Byte)) : State :=
  s.setQueue (s.queue ++ [{ cls := classOf pa, pa := pa, bytes := bs, mt := s.mtTag }])

/-- Whether the moving agent has no store waiting in the class of pa. -/
def State.classEmpty (s : State) (pa : Nat) : Bool := !s.seen.any (·.cls == classOf pa)

/-- The store waiting longest in a class, and the queue without it. -/
def takeClass (cls : Nat) : List Pending → Option (Pending × List Pending)
  | [] => none
  | p :: t => if p.cls = cls then some (p, t) else (takeClass cls t).map fun r => (r.1, p :: r.2)

/-- What n bytes at pa read as for the moving agent at the home slice, and whether a word of them is
poisoned. -/
def State.readHome (s : State) (pa n : Nat) : List Byte × Bool :=
  let q := s.seen
  ((List.range n).map fun i => overlay q (pa + i) (s.memByte (pa + i)),
   (List.range n).any fun i => s.wordPois (pa + i) && !coversWord q (pa + i))

/-! Cache-way copies (R67, R84). -/

/-- Whether memory at pa is homed on this device (R406, R425). -/
def onDevice (pa : Nat) : Bool := pa < 0x40000000000 || (0x100000000000 ≤ pa && pa < 0x200000000000)

/-- The sector that holds pa as its home slice has it. -/
def State.homeSector (s : State) (pa : Nat) : BitVec 512 × BitVec 16 :=
  let base := pa / 64 * 64
  ((List.range 64).foldl (fun d i => setSectorByte d i (s.memByte (base + i))) 0#512,
   (List.range 16).foldl (fun m i => if s.wordPois (base + 4 * i) then m ||| (1#16 <<< i) else m) 0#16)

/-- The banks of a cluster in cache-way mode (R22). -/
def State.bankModeOf (s : State) (q bank : Nat) : Nat := sparseGet 0 s.bankMode (16 * q + bank)
def State.cacheBanks (s : State) (q : Nat) : List Nat :=
  (List.range 16).filter fun b => s.bankModeOf q b = 0

/-- A load that bypasses the cache ways replaces the core's copies of its sector (R67, R84). -/
def State.refreshSector (s : State) (g pa : Nat) : State :=
  let (d, p) := s.homeSector pa
  { s with ways := s.ways.map fun e =>
      if e.1 / 2 ^ 46 / 4 = g ∧ e.1 % 2 ^ 46 = pa / 64 then (e.1, { e.2 with data := d, pois := p }) else e }

/-- A fill brings the sectors of the line that are not held; hardware chooses the bank (R22). -/
def State.fillLine (s : State) (q pa : Nat) : State :=
  let banks := s.cacheBanks q
  if banks.isEmpty ∨ !onDevice pa then s
  else
    let (r, s) := s.drawNat
    let bank := banks.getD (r % banks.length) 0
    (List.range 8).foldl (fun s i =>
      let a := pa / 512 * 512 + 64 * i
      if s.ways.any (·.1 = wayKey q a) then s
      else
        let (d, p) := s.homeSector a
        { s with ways := sparsePut s.ways (wayKey q a) { bank := bank, data := d, pois := p } }) s

/-- What n bytes at pa, within one sector, read as through cluster q's cache ways (R84). -/
def State.readCached (s : State) (q pa n : Nat) : (List Byte × Bool) × State :=
  match s.ways.find? (·.1 = wayKey q pa) with
  | some (_, w) =>
    let que := s.seen
    (((List.range n).map fun i => overlay que (pa + i) (sectorByte w.data ((pa + i) % 64)),
      (List.range n).any fun i => w.pois.getLsbD ((pa + i) % 64 / 4) && !coversWord que (pa + i)), s)
  | none => (s.readHome pa n, s.fillLine q pa)

/-- `fence.acq` at `.die` or wider drops every line of the core's four clusters (R73). -/
def State.dropWays (s : State) (g : Nat) : State :=
  { s with ways := s.ways.filter fun e => e.1 / 2 ^ 46 / 4 ≠ g }

/-! Taking an exception (R175), and what an element fault reports with it (R366). -/

/-- Whether the context stands in its captured loop body, in the mode that entered the loop (R162, R166). -/
def Ctx.inBody (c : Ctx) : Bool :=
  c.loop.mode ≠ .off && (c.pc - c.loop.start).toNat < c.loop.body.length && c.loop.sup == (c.mode == .supervisor)

/-- The end of a loop (R163, R164, R230): `vl` is the saved one, the streams of the body stand past the
loop, and control goes on after `vnext`. -/
def closeLoop (c : Ctx) : Ctx :=
  { c with
    vl := c.loop.savedVl
    pc := c.loop.start + BitVec.ofNat 64 c.loop.body.length
    streams := c.streams.map fun t =>
      if t.bound && t.inLoop then { t with pos := t.loopPos + c.loop.count, inLoop := false } else t
    loop := {} }

/-- The words of R366 for an element fault of a context. -/
def faultDesc (c : Ctx) (vl : Nat) (i : FaultInfo) : Word :=
  (BitVec.ofNat 16 i.count) ++ (BitVec.ofNat 4 i.kind) ++ (0#4) ++ BitVec.ofBool i.wr ++
    BitVec.ofBool c.inBody ++ (BitVec.ofNat 6 i.width) ++ (0#16) ++ (BitVec.ofNat 16 vl)

/-- The iterations of the running loop that no strip has begun: a `.seq` strip counts as begun, and its size leaves
`rem` only at `vnext` (R163, R366). -/
def Ctx.notBegun (c : Ctx) : Nat :=
  if !c.inBody then 0 else if c.loop.mode = .seq then c.loop.rem - c.loop.size else c.loop.rem

/-- The CSRs of R366: an element fault describes its access, any other trap says that there is none. -/
def reportFault (c : Ctx) (vl : Nat) : Option FaultInfo → Ctx
  | some i => { c with
      sfdesc := faultDesc c vl i, sfbase := i.base, sfstride := i.stride, batch := i.pages
      sfrem := BitVec.ofNat 64 c.notBegun }
  | none => { c with sfdesc := (c.sfdesc &&& 0x00000FFFFFFFFFFF) ||| 0x0000F00000000000, batch := [] }

/-- TRAP_ENTRY (R175): what a trap or supervisor interrupt does to its context. Links and reservations of
the context end (R77, R151). -/
def trapEntry (c : Ctx) (intr : Bool) (cause : Nat) (epc tv : Word) (info : Option FaultInfo) : Ctx :=
  let c := reportFault c c.vl info
  { c.endSkip with
    sepc := epc
    scause := BitVec.ofBool intr ++ (BitVec.ofNat 63 cause)
    stval := tv
    svty := c.vty, sldst := c.ldst
    spp := c.mode, spieBit := c.sieBit, sieBit := false
    mode := .supervisor
    pc := c.stvec &&& 0xFFFFFFFFFFFFFFFC
    links := [], resv := none, trapped := true, stallOn := none, exchg := c.exchg.filter (·.isSome) }

/-! User-level events (R315). -/

/-- Held events enter the queue in the order in which they were held. -/
def unholdGo : List Held → List Event → List Held × List Event
  | .event e :: t, ev => if ev.length < 16 then unholdGo t (ev ++ [e]) else (.event e :: t, ev)
  | l, ev => (l, ev)

def Ctx.unhold (c : Ctx) : Ctx :=
  let (l, ev) := unholdGo c.held c.events
  { c with held := l, events := ev }

/-- Delivers a user-level event of the context, which waits while the queue is full. -/
def State.postEvent (s : State) (h event tag : Nat) : State :=
  s.modCtx h fun c => { c with held := c.held ++ [Held.event { event := event, tag := tag }] }.unhold

/-- A completion with its event: held back whole while the queue is full, and no completion overtakes one
held before it. -/
def State.completing (s : State) (h : Nat) (me : Held) (ev : Option Event) (k : State → State) : State :=
  let c := s.ctx h
  match ev with
  | none => k s
  | some e =>
    if c.events.length < 16 ∧ (c.held = [] ∨ c.held.head? = some me) then
      (k s).modCtx h fun c => { c with events := c.events ++ [e], held := c.held.filter (· ≠ me) }.unhold
    else if c.held.contains me then s
    else s.modCtx h fun c => { c with held := c.held ++ [me] }

/-- The fault word of R282. -/
def msWord (source cause handle : Nat) : Word :=
  BitVec.ofNat 64 (handle * 65536 + source * 256 + cause)

/-- The MS stops at its instruction and its fault waits for the CT (R282). -/
def State.msTrap (s : State) (g cause : Nat) (tv : Word) : State :=
  let m := s.ms g
  let w := msWord 1 cause 0
  let s := s.setMs g { m with run := .stopped, faultWord := w, faultAddr := tv }
  match m.owner with
  | some h => s.modCtx h fun c => { c with msFaults := c.msFaults ++ [w] }
  | none => s

/-- Once every strip of a halted `.ind` loop has stopped or finished, the lowest stopped slot's trap is
raised (R369). -/
def settleInd (c : Ctx) : Ctx :=
  if c.loop.mode = .ind ∧ c.loop.halt ∧ c.loop.strips.all (·.stop.isSome) then
    match c.loop.strips.find? fun t => c.loop.strips.all (t.slot ≤ ·.slot) with
    | some t =>
      match t.stop with
      | some (cause, tv, info) =>
        let epc := c.loop.start + BitVec.ofNat 64 t.off
        let c' := trapEntry c false cause epc tv none
        let full := (c.loop.strips.mergeSort fun a b => a.slot ≤ b.slot).filterMap fun u => u.stop.bind (·.2.2)
        match info with
        | some i =>
          let r := reportFault c t.size (some { i with
            count := (full.map (·.count)).sum, pages := (full.flatMap (·.pages)).eraseDups })
          { c' with sfdesc := r.sfdesc, sfbase := r.sfbase, sfstride := r.sfstride, sfrem := r.sfrem
                    batch := r.batch }
        | none => c'
      | none => c
    | none => c
  else c

/-- A cluster of a `.ind` loop stops at its instruction, and the loop takes no further strip (R369). -/
def State.stopStrip (s : State) (h slot cause : Nat) (tv : Word) (info : Option FaultInfo) : State :=
  s.modCtx h fun c =>
    let c := modStrip c slot fun t => { t with stop := some (cause, tv, info) }
    let base := ((stripOf c slot).map (·.base)).getD 0
    settleInd { c.endSkip with
      loop := { c.loop with halt := true }
      vrst := c.vrst.setIfInBounds slot (BitVec.ofNat 64 base) }

/-- The moving agent's instruction raises a cause: precisely, or after its elements (R148). -/
def State.trapWith (s : State) (cause : Nat) (tv : Word) (info : Option FaultInfo) : State :=
  match s.who with
  | .ct h => s.modCtx h fun c => trapEntry c false cause c.pc tv info
  | .ms g => s.msTrap g cause tv
  | .ind h slot => s.stopStrip h slot cause tv info
  | _ => s

def State.trap (s : State) (cause : Nat) (tv : Word) : State := s.trapWith cause tv none

/-- Illegal-instruction for an instruction that decoded: the trap value is its bits (R125). The MS
reports it as underlying cause 2 (R128). -/
def State.illegal (s : State) (bits : Word) : State := s.trap 2 bits

/-- An invalid `vty` sets VILL and nothing else, and `vl` becomes 0 (R160). -/
def vtyValid (v : Word) : Bool :=
  (v.extractLsb' 0 2 = 1#2 || v.extractLsb' 0 2 = 2#2) && v.extractLsb' 8 56 = 0#56

/-- The return from an exception (R178). A stopped `.ind` loop or a `.seq` body resumes at sepc by itself
(R166). -/
def returnFrom (c : Ctx) : Ctx :=
  let ok := vtyValid c.svty
  { c with
    vty := if ok then c.svty else 0x8000000000000000
    vl := if ok then c.vl else 0
    ldst := c.sldst
    mode := c.spp
    sieBit := c.spieBit
    spp := .user
    pc := c.sepc }

end Sys2Proof.Machine
end

