-- ==== Sys2Proof/Machine/Translate.lean ====
section
/-! DEFINITION. Translation: windows (R26, R27, R237), the page walk (R360 to R363), the TLB copies of the
class slices (R364), the physical map (R406, R425), and home reads with what they credit (R417). -/

namespace Sys2Proof.Machine
open Sys2Proof

/-- The 100 MHz count and a core's cycle count after n steps (R149, log 2). -/
def timeAt : Nat → Nat
  | 0 => Config.timeGap 0
  | n + 1 => timeAt n + Config.timeGap (n + 1)
def cycleAt (g : Nat) : Nat → Nat
  | 0 => Config.cycleGap g 0
  | n + 1 => cycleAt g n + Config.cycleGap g (n + 1)

def State.time (s : State) : Word := BitVec.ofNat 64 (timeAt s.tick)

/-! The physical map. -/

/-- Whether a granted extent holds pa (R430). -/
def State.extentAt (s : State) (pa : Nat) : Bool :=
  s.plat.extents.any fun e => e.2.state == 2 && e.2.base.toNat ≤ pa && pa < e.2.base.toNat + e.2.len.toNat

/-- Whether a live port leads to peer p (R432, R458): bytes of ROUTEp name ports, bit 7 valid; a
port that the configuration record disables is skipped. -/
def State.peerUp (s : State) (p : Nat) : Bool :=
  let r := sparseGet 0#64 s.plat.routes p
  (List.range 4).any fun i =>
    let b := (r.extractLsb' (8 * i) 8).toNat
    128 ≤ b && s.plat.cfg.ports.getLsbD (b % 16) && !s.plat.portsDown.contains (b % 16)

/-- Installed memory (R360, R406, R425, R430): HBM, the LPDDR tier, host memory, granted extents and
reachable peers. -/
def State.installed (s : State) (pa : Nat) : Bool :=
  pa < 0x8000000000 ||
  (0x20000000000 ≤ pa && pa < 0x40000000000) ||
  (0x40000000000 ≤ pa && pa < 0x80000000000) ||
  (0x100000000000 ≤ pa && pa < 0x200000000000 && s.extentAt pa) ||
  (0x8000000000000 ≤ pa && pa < 0x10000000000000 && pa % 2 ^ 45 < 0x40000000000 &&
    s.peerUp ((pa - 0x8000000000000) / 2 ^ 45))

/-! Checkpoint credit (R417). -/

def advanceCursor : Nat → Nat → List Nat → Nat × List Nat
  | 0, c, m => (c, m)
  | n + 1, c, m => if m.contains c then advanceCursor n (c + 64) (m.filter (· ≠ c)) else (c, m)

/-- One sector read at home, credited to a region. The flag says that the pass ended. -/
def creditRegion (r : CkReg) (a : Nat) : CkReg × Bool :=
  if a < r.base ∨ r.base + r.len ≤ a then (r, false)
  else if a = r.cursor then
    let (c, m) := advanceCursor (r.marks.length + 1) (r.cursor + 64) r.marks
    if r.base + r.len ≤ c then ({ r with cursor := r.base, marks := [] }, true)
    else ({ r with cursor := c, marks := m }, false)
  else if r.cursor < a ∧ a ≤ r.cursor + 256 * 64 then ({ r with marks := a :: r.marks.filter (· ≠ a) }, false)
  else (r, false)

/-- Credits a home read of the sectors of n bytes at pa, writing CURSOR and LAST to the set table. -/
def State.credit (s : State) (pa n : Nat) : State :=
  if s.plat.ckRegs.isEmpty then s
  else
    (List.range ((pa + n + 63) / 64 - pa / 64)).foldl (fun s i =>
      let a := (pa / 64 + i) * 64
      let step := s.plat.ckRegs.map fun r => (r, creditRegion r a)
      let s' := { s with plat := { s.plat with ckRegs := step.map (·.2.1) } }
      step.foldl (fun s (r, r', ended) =>
        if r = r' ∧ !ended then s
        else
          let at' := s.plat.ckset.toNat + 32 * r.entry
          let s := s.homeWrite .other (at' + 0x18) (fullBytes (natLe 8 r'.cursor))
          if ended then s.homeWrite .other (at' + 0x10) (fullBytes (natLe 8 s.time.toNat)) else s) s') s

/-! Windows. -/

def isAperture (va : Word) : Bool := va.extractLsb' 44 20 = 0xFFFFF#20
def isClusterLocal (va : Word) : Bool := va.extractLsb' 44 20 = 0xFFFFE#20
def canonicalVa (va : Word) : Bool := va.extractLsb' 49 15 = 0x7FFF#15 && va.getLsbD 48 ||
  va.extractLsb' 49 15 = 0#15 && !va.getLsbD 48

def Win.base (w : Win) : Word := w.desc.getD 0 0
def Win.cls (w : Win) : Nat := ((w.desc.getD 1 0).extractLsb' 48 3).toNat
def Win.size (w : Win) : Nat := ((w.desc.getD 1 0).extractLsb' 0 40).toNat

def Ctx.win (c : Ctx) (n : Nat) : Win := c.wins.toArray.getD n {}
def Ctx.setWin (c : Ctx) (n : Nat) (w : Win) : Ctx := { c with wins := c.wins.setIfInBounds n w }

/-- What an access names. -/
inductive Access where
  | fetch | load | store | amo
  /-- A store or an atomic that is only tested: it needs what that needs and leaves D alone (R363). -/
  | probe | amoProbe
  deriving DecidableEq, Repr

def Access.writes : Access → Bool
  | .store | .amo | .probe | .amoProbe => true
  | _ => false

/-- Where an address leads: memory at a virtual address (with the history length a PARAM read may go back
to), zero beyond a PARAM window, or a fault with its cause 25 address. -/
inductive Reach where
  | va (va : Word) (param : Option Nat)
  | zero
  | bad (tv : Word)
  | sram
  deriving DecidableEq, Repr

/-- Whether an access sets D: a tested one does not. -/
def Access.dirties : Access → Bool
  | .store | .amo => true
  | _ => false

/-- Resolves an address of n bytes through the context's windows (R24, R26, R27, R237). -/
def reach (c : Ctx) (va : Word) (n : Nat) (acc : Access) : Reach :=
  if isClusterLocal va then .sram
  else if isAperture va then
    let w := c.win (va.extractLsb' 40 4).toNat
    let off := (va.extractLsb' 0 40).toNat
    let under := w.base + BitVec.ofNat 64 off
    if !w.bound then .bad va
    else if w.cls ≠ 0 ∧ acc.writes then .bad under
    else if w.size < off + n then
      if w.cls = 1 then .zero else .bad under
    else .va under (if w.isParam then some w.since else none)
  else .va va none

/-! The walk. -/

def pteV (e : Word) : Bool := e.getLsbD 0
def pteLeaf (e : Word) : Bool := e.extractLsb' 1 3 ≠ 0#3
def ptePpn (e : Word) : Nat := (e.extractLsb' 16 36).toNat * 65536

/-- Malformed in itself (R361): reserved bits, TIER 11, W without R, or a pointer with leaf fields set. -/
def pteBad (e : Word) : Bool :=
  e.extractLsb' 60 3 ≠ 0#3 || e.extractLsb' 58 2 = 3#2 || e.extractLsb' 52 6 ≠ 0#6 ||
  e.extractLsb' 8 8 ≠ 0#8 || (e.getLsbD 2 && !e.getLsbD 1) ||
  (!pteLeaf e && (e.getLsbD 63 || e.extractLsb' 58 2 ≠ 0#2 || e.getLsbD 7 || e.getLsbD 6 ||
    e.getLsbD 5 || e.getLsbD 4))

/-- A valid entry that its level takes: what a slice may hold a copy of (R361, R364). -/
def pteHeld (level : Nat) (e : Word) : Bool :=
  pteV e && !pteBad e &&
  match level with
  | 1 => !pteLeaf e
  | 2 => !pteLeaf e || (!e.getLsbD 5 && e.extractLsb' 16 13 == 0#13)
  | _ => pteLeaf e

inductive TErr where
  /-- `poison`: an atomic that its leaf permits but for POISON. -/
  | page | access | poison | window (tv : Word)
  deriving DecidableEq, Repr

/-- A translation: the physical address, and whether its leaf poisons reads (R361). -/
structure Xl where
  pa : Nat
  pois : Bool

/-- Whose slices and tables translate, and in which mode (R361). -/
structure Space where
  core : Nat
  job : Nat
  root : Nat
  user : Bool

def State.space (s : State) : Space :=
  let c := s.ctx s.hart
  let job := (c.unit.map (·.job)).getD 0
  { core := s.issuerCore, job := job
    root := (sparseGet {} s.hearth.jobs job).root
    user := match s.who with
      | .ct h => (s.ctx h).mode = .user
      | .ind h _ => (s.ctx h).mode = .user
      | _ => true }

/-- A table entry from the slice's copy, or from its home slice (R360, R364); none when it cannot be
read. A valid leaf or pointer read from memory is copied into the slice. -/
def fetchEntry (s : State) (sp : Space) (cls level va pteAddr : Nat) (copies : Bool) :
    Option Word × State :=
  match (if copies then
      s.tlb.find? fun t => t.core = sp.core && t.cls = cls && t.job = sp.job && t.level = level && t.va = va
    else none) with
  | some t => (some t.pte, s)
  | none =>
    if !s.installed pteAddr || s.memPoisoned pteAddr 8 then (none, s)
    else
      let e := BitVec.ofNat 64 (s.memNat pteAddr 8)
      let rest := s.tlb.filter fun t =>
        !(t.core = sp.core && t.cls = cls && t.job = sp.job && t.level = level && t.va = va)
      let s := { s with
        tlb := if pteHeld level e then
          { core := sp.core, cls := cls, job := sp.job, level := level, va := va, pte := e } :: rest else rest }
      (some e, s)

/-- A leaf the walk arrived at. -/
structure Leaf where
  pte : Word
  addr : Nat
  level : Nat

/-- The walk to a leaf (R360). -/
def walk (s : State) (sp : Space) (va : Word) (copies : Bool) : Except TErr Leaf × State :=
  let cls := classOf va.toNat
  let v := (va.extractLsb' 0 49).toNat
  let a1 := sp.root + 8 * (v / 2 ^ 42)
  match fetchEntry s sp cls 1 (v / 2 ^ 42) a1 copies with
  | (none, s) => (.error .access, s)
  | (some e1, s) =>
    if !pteV e1 then (.error .page, s)
    else if pteLeaf e1 || pteBad e1 then (.error .access, s)
    else
      let a2 := ptePpn e1 + 8 * (v / 2 ^ 29 % 8192)
      match fetchEntry s sp cls 2 (v / 2 ^ 29) a2 copies with
      | (none, s) => (.error .access, s)
      | (some e2, s) =>
        if !pteV e2 then (.error .page, s)
        else if pteBad e2 then (.error .access, s)
        else if pteLeaf e2 then
          if e2.getLsbD 5 || e2.extractLsb' 16 13 ≠ 0#13 then (.error .access, s)
          else (.ok { pte := e2, addr := a2, level := 2 }, s)
        else
          let a3 := ptePpn e2 + 8 * (v / 2 ^ 16 % 8192)
          match fetchEntry s sp cls 3 (v / 2 ^ 16) a3 copies with
          | (none, s) => (.error .access, s)
          | (some e3, s) =>
            if !pteV e3 then (.error .page, s)
            else if !pteLeaf e3 || pteBad e3 then (.error .access, s)
            else (.ok { pte := e3, addr := a3, level := 3 }, s)

/-- Permission of a leaf (R361). -/
def permits (e : Word) (user : Bool) (acc : Access) : Bool :=
  (!user || e.getLsbD 4) &&
  match acc with
  | .fetch => e.getLsbD 3
  | .load => e.getLsbD 1
  | .store | .probe => e.getLsbD 2 && !e.getLsbD 63
  | .amo | .amoProbe => e.getLsbD 1 && e.getLsbD 2 && !e.getLsbD 63

def leafPa (l : Leaf) (va : Word) : Nat :=
  if l.level = 2 then ptePpn l.pte + va.toNat % 2 ^ 29 else ptePpn l.pte + va.toNat % 2 ^ 16

/-- A copy of another member of the CONT group that a slice may use (R362), if it needs no A or D update. -/
def contMember (s : State) (sp : Space) (va : Word) (acc : Access) : Option Leaf :=
  let v := (va.extractLsb' 0 49).toNat
  let cls := classOf va.toNat
  (s.tlb.find? fun t => t.core = sp.core && t.cls = cls && t.job = sp.job && t.level = 3 &&
    t.va / 32 = v / 2 ^ 21 && t.pte.getLsbD 5 && t.pte.getLsbD 6 && (!acc.writes || t.pte.getLsbD 7)).map
    fun t => { pte := (t.pte &&& ~~~(0x1F0000 : Word)) ||| BitVec.ofNat 64 (v / 2 ^ 16 % 32 * 65536)
               addr := 0, level := 3 }

/-- Uses a leaf: permission, then A and D by an atomic update that restarts the walk when memory no
longer holds the entry (R363). -/
def useLeaf (s : State) (sp : Space) (va : Word) (acc : Access) (l : Leaf) (again : Bool) :
    Except TErr Xl × State × Bool :=
  if !permits l.pte sp.user acc then
    (.error (if (acc = .amo ∨ acc = .amoProbe) ∧ permits (l.pte &&& 0x7FFFFFFFFFFFFFFF) sp.user acc then .poison else .access), s, false)
  else
    let want := l.pte ||| 0x40#64 ||| (if acc.dirties then 0x80#64 else 0#64)
    let pa := leafPa l va
    if !s.installed pa then (.error .access, s, false)
    else if want = l.pte then (.ok { pa := pa, pois := l.pte.getLsbD 63 }, s, false)
    else if s.memNat l.addr 8 ≠ l.pte.toNat then (.error .access, s, again)
    else
      let s := s.homeWrite .other l.addr (fullBytes (natLe 8 want.toNat))
      let s := { s with tlb := s.tlb.map fun t =>
                  if t.core = sp.core && t.job = sp.job && t.level = l.level && t.pte = l.pte &&
                     t.va = (va.extractLsb' 0 49).toNat / (if l.level = 2 then 2 ^ 29 else 2 ^ 16) then
                    { t with pte := want } else t }
      (.ok { pa := pa, pois := l.pte.getLsbD 63 }, s, false)

/-- Translation of a virtual address that lies in no aperture (R360 to R365). -/
def State.translateIn (s : State) (sp : Space) (va : Word) (acc : Access) : Except TErr Xl × State :=
  if !canonicalVa va then (.error .access, s)
  else
    let own := s.tlb.any fun t => t.core = sp.core && t.cls = classOf va.toNat && t.job = sp.job &&
      t.level = 3 && t.va = (va.extractLsb' 0 49).toNat / 2 ^ 16
    match (if own then none else contMember s sp va acc) with
    | some l => let (r, s, _) := useLeaf s sp va acc l false; (r, s)
    | none =>
      match walk s sp va true with
      | (.error e, s) => (.error e, s)
      | (.ok l, s) =>
        match useLeaf s sp va acc l true with
        | (r, s, false) => (r, s)
        | (_, s, true) =>
          match walk s sp va false with
          | (.error e, s) => (.error e, s)
          | (.ok l, s) => let (r, s, _) := useLeaf s sp va acc l false; (r, s)

def State.translate (s : State) (va : Word) (acc : Access) : Except TErr Xl × State :=
  s.translateIn s.space va acc

/-- The cause of a failed translation for a scalar access, descriptor read or fetch (R365). An AMO reads through its leaf
first, so one with POISON = 1 gives it cause 26, as R150 says (log 100). -/
def scalarCause (acc : Access) : TErr → Nat
  | .window _ => 25
  | .poison => 26
  | .page => match acc with | .fetch => 12 | .load => 13 | _ => 15
  | .access => match acc with | .fetch => 1 | .load => 5 | _ => 7

/-- The cause of a failed translation for a vector, region or micro-thread element (R365). -/
def elementCause (acc : Access) : TErr → Nat
  | .window _ => 25
  | .poison => 7
  | .page => 24
  | .access => if acc.writes then 7 else 5

/-- The faulting address (R175): the underlying one, or the aperture address of an unbound window. -/
def errVa (va : Word) : TErr → Word
  | .window tv => tv
  | _ => va

/-! Reads of PARAM windows (R80). -/

/-- A byte as it stood before the last `back` stores of the history, each undone whole (R68). -/
def oldByte (now : Byte) (pa : Nat) (log : List (Nat × List Byte)) (back : Nat) : Byte :=
  (log.take back).foldl (fun b e => if e.1 ≤ pa then e.2.getD (pa - e.1) b else b) now

/-- A read of n bytes on the read-only path: any version since the binding. -/
def State.readParam (s : State) (pa n since : Nat) : (List Byte × Bool) × State :=
  let back := s.memLog.length - since
  let (r, s) := s.drawNat
  let k := r % (back + 1)
  (((List.range n).map fun i => oldByte (s.memByte (pa + i)) (pa + i) s.memLog k, s.memPoisoned pa n), s)

end Sys2Proof.Machine
end

