-- ==== Sys2Proof/Machine/Fetch.lean ====
section
/-! DEFINITION. Instruction fetch by halfwords (R124 to R126, R153): fetched bytes that wait in a context's
or MS's buffer first, else home memory. Poison of a code word has no stated effect (log 27). -/

namespace Sys2Proof.Machine
open Sys2Proof

/-- The moving agent's instruction bytes fetched ahead (R153). -/
def State.ibuf (s : State) : Sparse Byte :=
  match s.who with
  | .ms g => (s.ms g).ibuf
  | _ => (s.ctx s.hart).ibuf

/-- n bytes of code that do not cross a page. -/
def State.fetchBytes (s : State) (a : Word) (n : Nat) : Except (Nat × Word) (List Byte) × State :=
  if isAperture a || isClusterLocal a then (.error (1, a), s)
  else
    match s.translate a .fetch with
    | (.error e, s) => (.error (scalarCause .fetch e, a), s)
    | (.ok x, s) => (.ok (s.memBytes x.pa n), s)

/-- The halfword of an instruction at an address. -/
def State.fetchHalf (s : State) (a : Word) : Except (Nat × Word) (List Byte) × State :=
  match s.ibuf.find? (·.1 = a.toNat), s.ibuf.find? (·.1 = (a + 1).toNat) with
  | some (_, b0), some (_, b1) => (.ok [b0, b1], s)
  | _, _ => s.fetchBytes a 2

def State.fetchHalves (s : State) (a : Word) : Nat → Except (Nat × Word) (List Byte) × State
  | 0 => (.ok [], s)
  | n + 1 =>
    after (s.fetchHalf a) fun b s => after (s.fetchHalves (a + 2) n) fun t s => (.ok (b ++ t), s)

/-- The bytes of the instruction at an address: as many as its first halfword says. DEDUCED (log 106): of a prefix of 64 bits or
more 4 bytes are read, so that it is illegal (R125) whatever stands behind them. A failure is a cause and the address of the first byte not fetched. -/
def State.fetchInstr (s : State) (a : Word) : Except (Nat × Word) (List Byte) × State :=
  after (s.fetchHalf a) fun b s =>
    let more := match lengthOf (BitVec.ofNat 16 (leNat b)) with
      | 0 => 1
      | n => n / 2 - 1
    after (s.fetchHalves (a + 2) more) fun t s => (.ok (b ++ t), s)

end Sys2Proof.Machine
end

