-- ==== Sys2Proof/Machine/Body.lean ====
section
/-! DEFINITION. An instruction of a loop body as capture sees it (R162): what it reads and writes of the vector registers,
and vLAST as capture resolves it (R131, R133). -/

namespace Sys2Proof.Machine
open Sys2Proof

/-- A body instruction as capture sees it (R162): a RISC-V or K16 instruction, or the group, op and fields
of a T48 one. -/
inductive BodyOp where
  | base (i : Instr)
  | t48 (grp op : BitVec 6) (o : T48)
  deriving DecidableEq, Repr

/-- The instruction in a unit of 2, 4 or 6 bytes; none where the bytes fail to decode. -/
def readBody (w : List Byte) : Option BodyOp :=
  let n := leNat w
  let known (i : Option Instr) : Option BodyOp :=
    match i with
    | some i => if i.wellFormed then some (.base i) else none
    | none => none
  match lengthOf (BitVec.ofNat 16 (leNat (w.take 2))) with
  | 2 => known (decodeK16 (BitVec.ofNat 16 n))
  | 4 => known (decodeRv (BitVec.ofNat 32 n))
  | 6 =>
    let w := BitVec.ofNat 48 n
    let grp := w.extractLsb' 6 6
    let op := w.extractLsb' 12 6
    match shapeAt grp op with
    | some p => if p.ok (t48Fields w) then some (.t48 grp op (t48Fields w)) else none
    | none => none
  | _ => none

/-- d is a vector register read as a source: the multiply-accumulates, the vector stores and atomics, `gsc`
and `kvst`. -/
def readsD (grp op : BitVec 6) : Bool :=
  match grp with
  | 0x04#6 => op = 0x03#6 || op = 0x04#6 || op = 0x05#6
  | 0x0C#6 => op = 0x01#6 || op = 0x03#6 || op = 0x05#6 || op = 0x07#6
  | 0x0D#6 => true
  | 0x14#6 => op = 0x01#6 || op = 0x03#6
  | _ => false

/-- d is a vector destination, so the instruction sets `ldst` (R131): `vsidx` and `vidx`, `ufstat` with its
lane form, the element groups but for compares and `vmv.x`, the loads, atomics that return, `tcol`, `cread`,
`gld` and `kvld`. -/
def writesD (grp op : BitVec 6) (o : T48) : Bool :=
  match grp with
  | 0x01#6 => op = 0x05#6 || op = 0x06#6
  | 0x02#6 => op = 0x03#6 && o.b ≠ 0#5
  | 0x04#6 => !(op = 0x13#6 || op = 0x14#6 || op = 0x15#6)
  | 0x05#6 => !(op = 0x0F#6 || op = 0x10#6 || op = 0x11#6 || op = 0x14#6)
  | 0x06#6 | 0x07#6 => true
  | 0x0C#6 => op = 0x00#6 || op = 0x02#6 || op = 0x04#6 || op = 0x06#6
  | 0x0D#6 => !o.aux.getLsbD 7
  | 0x10#6 => op = 0x01#6
  | 0x12#6 => op = 0x02#6
  | 0x14#6 => op = 0x00#6 || op = 0x02#6
  | _ => false

/-- The K16 forms: their vector sources, and for `vmv.k` its destination. -/
def k16Regs : Instr → Option (List Reg × Option Reg)
  | .vfaddK v | .vfsubK v | .vfmulK v | .vfmaxK v | .vfminK v => some ([v], none)
  | .vaddK v | .vsubK v | .vandK v | .vorK v | .vxorK v => some ([v], none)
  | .vfmaK v w => some ([v, w], none)
  | .vsllK _ | .vsraK _ | .vslideupK _ | .vslidednK _ => some ([], none)
  | .vmvK v => some ([], some v)
  | _ => none

/-- The vector registers a T48 instruction names. -/
def vecRegs : BodyOp → List Reg
  | .base _ => []
  | .t48 grp op o =>
    match shapeAt grp op with
    | none => []
    | some p =>
      (if p.a = .vec then [o.a] else []) ++ (if p.bVec o then [o.b] else []) ++
        (if readsD grp op || writesD grp op o then [o.d] else [])

def isK16 : BodyOp → Bool
  | .base i => (k16Regs i).isSome
  | .t48 .. => false

/-- The register that `ldst` names after the instruction. -/
def ldstAfter (last : Reg) : BodyOp → Reg
  | .base (.vmvK v) => v
  | .base _ => last
  | .t48 grp op o => if writesD grp op o then o.d else last

def setsLdst : BodyOp → Bool
  | .base (.vmvK _) => true
  | .base _ => false
  | .t48 grp op o => writesD grp op o

/-- vLAST of the instruction at byte `off` of a body, from the instructions before it; `last` where none of them sets
`ldst` (R133). -/
def resolveLast : Nat → List Byte → Nat → Reg → Reg
  | 0, _, _, last => last
  | n + 1, body, off, last =>
    let len := lengthOf (BitVec.ofNat 16 (leNat (body.take 2)))
    if len = 0 ∨ off < len then last
    else match readBody (body.take len) with
      | some i => resolveLast n (body.drop len) (off - len) (ldstAfter last i)
      | none => last

/-- vLAST of the moving agent's instruction: `ldst` (R131), and in a strip of a `.ind` loop the register that capture
resolved, whatever other strips write meanwhile (R133, R164). -/
def State.vlast (s : State) : Reg :=
  let c := s.ctx s.hart
  match s.who with
  | .ind _ slot => resolveLast 64 c.loop.body (((stripOf c slot).map (·.off)).getD 0) c.ldst
  | _ => c.ldst

end Sys2Proof.Machine
end

