-- ==== Sys2Proof/Machine/Num.lean ====
section
/-! DEFINITION. Numbers (R35 to R47): exact values, the floating formats, and the one rounding. -/

namespace Sys2Proof.Machine
open Sys2Proof

/-- An exact value: not a number, an infinity, or num/den with a sign (a zero keeps its sign). -/
inductive Xv where
  | nan
  | inf (neg : Bool)
  | fin (neg : Bool) (num den : Nat)
  deriving DecidableEq, Repr

/-- What the largest exponent encodes (R37). -/
inductive FpTop where
  | ieee   -- infinity and NaN
  | e4m3   -- NaN at S.1111.111 only
  | plain  -- neither
  deriving DecidableEq, Repr

/-- A floating format (R37): mantissa and exponent bits, bias, largest finite magnitude bits. -/
structure Fp where
  mb : Nat
  eb : Nat
  bias : Nat
  top : FpTop
  maxMag : Nat
  deriving DecidableEq, Repr

def fp32 : Fp := ⟨23, 8, 127, .ieee, 0x7F7FFFFF⟩
def bf16 : Fp := ⟨7, 8, 127, .ieee, 0x7F7F⟩
def fp16 : Fp := ⟨10, 5, 15, .ieee, 0x7BFF⟩
def e4m3 : Fp := ⟨3, 4, 7, .e4m3, 0x7E⟩
def e5m2 : Fp := ⟨2, 5, 15, .ieee, 0x7B⟩
def e3m2 : Fp := ⟨2, 3, 3, .plain, 0x1F⟩
def e2m3 : Fp := ⟨3, 2, 1, .plain, 0x1F⟩
def e2m1 : Fp := ⟨1, 2, 1, .plain, 0x7⟩

def Fp.signBit (f : Fp) : Nat := 2 ^ (f.mb + f.eb)
/-- The NaN an operation or a narrowing produces (R38). -/
def Fp.nanBits (f : Fp) : Nat :=
  match f.top with
  | .ieee => (2 ^ f.eb - 1) * 2 ^ f.mb + 2 ^ (f.mb - 1)
  | .e4m3 => 0x7F
  | .plain => 0
def Fp.infMag (f : Fp) : Nat := (2 ^ f.eb - 1) * 2 ^ f.mb

def sgnMag (f : Fp) (neg : Bool) (mag : Nat) : Nat := if neg then f.signBit + mag else mag

/-- The value of magnitude bits: m · 2^(e − 1) quanta of the smallest subnormal (R37). -/
def magValue (f : Fp) (mag : Nat) : Nat × Nat :=
  let e := mag / 2 ^ f.mb
  let m := mag % 2 ^ f.mb
  let q := 2 ^ (f.bias + f.mb)   -- the smallest subnormal is 2/q
  if e = 0 then (2 * m, q) else (2 * (2 ^ f.mb + m) * 2 ^ (e - 1), q)

/-- Decodes the bits of a format (R37). -/
def Fp.decode (f : Fp) (bits : Nat) : Xv :=
  let neg : Bool := bits / f.signBit % 2 = 1
  let mag := bits % f.signBit
  let fin : Xv := let (n, d) := magValue f mag; .fin neg n d
  match f.top with
  | .ieee => if mag = f.infMag then .inf neg else if f.infMag < mag then .nan else fin
  | .e4m3 => if mag = 0x7F then .nan else fin
  | .plain => fin

/-- ⌊log₂ (n/d)⌋ of a positive rational. -/
def ilog2 (n d : Nat) : Int :=
  let k : Int := (Nat.log2 n : Int) - Nat.log2 d
  let ge : Bool := if 0 ≤ k then d * 2 ^ k.toNat ≤ n else d ≤ n * 2 ^ (-k).toNat
  if ge then k else k - 1

/-- Whether mode rm moves a magnitude away from zero, given its integer part and remainder r/d (R43). -/
def roundsUp (rm : BitVec 3) (neg : Bool) (int r d : Nat) : Bool :=
  match rm with
  | 2#3 => false
  | 3#3 => neg && r ≠ 0
  | 4#3 => !neg && r ≠ 0
  | 5#3 => d ≤ 2 * r
  | _ => d < 2 * r || (d == 2 * r && int % 2 == 1)

/-- n/d rounded to an integer magnitude. -/
def roundInt (rm : BitVec 3) (neg : Bool) (n d : Nat) : Nat :=
  let i := n / d
  if roundsUp rm neg i (n % d) d then i + 1 else i

/-- Magnitude bits of n/d in a format whose exponent range has no upper end: one rounding, at the
subnormal spacing below the smallest normal (R43). -/
def roundMag (f : Fp) (rm : BitVec 3) (neg : Bool) (n d : Nat) : Nat :=
  if n = 0 then 0
  else
    let qmin : Int := 1 - (f.bias : Int) - f.mb
    let q := max (ilog2 n d - f.mb) qmin
    let m := if 0 ≤ q then roundInt rm neg n (d * 2 ^ q.toNat) else roundInt rm neg (n * 2 ^ (-q).toNat) d
    (q - qmin).toNat * 2 ^ f.mb + m

/-- Overflow of a finite value (R44). -/
def overflowBits (f : Fp) (rm : BitVec 3) (sat neg : Bool) : Nat :=
  match f.top with
  | .plain => sgnMag f neg f.maxMag
  | .e4m3 => sgnMag f neg (if sat then f.maxMag else 0x7F)
  | .ieee =>
    let away : Bool := match rm with
      | 2#3 => false
      | 3#3 => neg
      | 4#3 => !neg
      | _ => true
    sgnMag f neg (if sat || !away then f.maxMag else f.infMag)

/-- Round (R145): `sat` is the SAT column in force; `keepInf` marks lane results of arithmetic and of
loads, where an infinity is never made finite. -/
def Fp.round (f : Fp) (rm : BitVec 3) (sat keepInf : Bool) (x : Xv) : Nat :=
  match x with
  | .nan => f.nanBits
  | .inf neg =>
    match f.top with
    | .ieee => sgnMag f neg (if sat && !keepInf then f.maxMag else f.infMag)
    | .e4m3 => sgnMag f neg (if sat then f.maxMag else 0x7F)
    | .plain => sgnMag f neg f.maxMag
  | .fin neg n d =>
    let mag := roundMag f rm neg n d
    if f.maxMag < mag then overflowBits f rm sat neg else sgnMag f neg mag

/-- A lane result of arithmetic: the SAT = 0 column (R44). -/
def Fp.lane (f : Fp) (rm : BitVec 3) (x : Xv) : Nat := f.round rm false true x

/-! Exact arithmetic (R190, IEEE 754). -/

def xneg : Xv → Xv
  | .nan => .nan
  | .inf s => .inf (!s)
  | .fin s n d => .fin (!s) n d

def xmul : Xv → Xv → Xv
  | .fin s n d, .fin t m e => .fin (s != t) (n * m) (d * e)
  | .inf s, .fin t m _ => if m = 0 then .nan else .inf (s != t)
  | .fin s n _, .inf t => if n = 0 then .nan else .inf (s != t)
  | .inf s, .inf t => .inf (s != t)
  | _, _ => .nan

/-- The sum; an exact zero sum of opposite signs is +0, under RDN −0. -/
def xadd (rm : BitVec 3) : Xv → Xv → Xv
  | .fin s n d, .fin t m e =>
    let a : Int := if s then -(n * e : Nat) else (n * e : Nat)
    let b : Int := if t then -(m * d : Nat) else (m * d : Nat)
    let c := a + b
    if c = 0 then .fin (if s = t then s else rm == 3#3) 0 1
    else .fin (c < 0) c.natAbs (d * e)
  | .inf s, .fin .. => .inf s
  | .fin .., .inf t => .inf t
  | .inf s, .inf t => if s = t then .inf s else .nan
  | _, _ => .nan

def xdiv : Xv → Xv → Xv
  | .fin s n d, .fin t m e =>
    if m = 0 then (if n = 0 then .nan else .inf (s != t)) else .fin (s != t) (n * e) (d * m)
  | .inf s, .fin t _ _ => .inf (s != t)
  | .fin s _ _, .inf t => .fin (s != t) 0 1
  | _, _ => .nan

/-- Compares two values that are numbers: less, and equal (−0 = +0). -/
def xcmp : Xv → Xv → Option Ordering
  | .nan, _ => none
  | _, .nan => none
  | .inf s, .inf t => some (if s = t then .eq else if s then .lt else .gt)
  | .inf s, .fin .. => some (if s then .lt else .gt)
  | .fin .., .inf t => some (if t then .gt else .lt)
  | .fin s n d, .fin t m e =>
    let a : Int := if s then -(n * e : Nat) else (n * e : Nat)
    let b : Int := if t then -(m * d : Nat) else (m * d : Nat)
    some (compare a b)

/-! Irrational results (R192). A value that lies strictly between two neighbours of a grid finer than any
rounding boundary is passed on as the point half way between them, which rounds alike. -/

/-- ⌊√n⌋, one bit a pass from bit k down. -/
def isqrtGo (n : Nat) : Nat → Nat → Nat
  | 0, r => if (r + 1) * (r + 1) ≤ n then r + 1 else r
  | k + 1, r =>
    let r' := r + 2 ^ (k + 1)
    isqrtGo n k (if r' * r' ≤ n then r' else r)
def isqrt (n : Nat) : Nat := isqrtGo n (Nat.log2 n / 2 + 1) 0

/-- √(n/d) on a grid of 2^−200. -/
def sqrtQ (n d : Nat) : Nat × Nat :=
  let y := n * 4 ^ 200 / d
  let r := isqrt y
  if r * r * d = n * 4 ^ 200 then (r, 2 ^ 200) else (2 * r + 1, 2 ^ 201)

def xsqrt : Xv → Xv
  | .nan => .nan
  | .inf s => if s then .nan else .inf false
  | .fin s n d => if n = 0 then .fin s 0 1 else if s then .nan else let (a, b) := sqrtQ n d; .fin false a b

def xrcp (x : Xv) : Xv := xdiv (.fin false 1 1) x

def xrsq : Xv → Xv
  | .nan => .nan
  | .inf s => if s then .nan else .fin false 0 1
  | .fin s n d => if n = 0 then .inf s else if s then .nan else let (a, b) := sqrtQ d n; .fin false a b

/-- Multiplies by 2^(2^−j) for each set bit of a fraction, on a grid of 2^−400: `root` is 2^(2^−j) and
`r`/2^w the fraction still to be read. -/
def pow2Go (r w root acc : Nat) : Nat → Nat
  | 0 => acc
  | k + 1 =>
    let root' := isqrt (root * 2 ^ 400)
    let r2 := 2 * r
    if 2 ^ w ≤ r2 then pow2Go (r2 - 2 ^ w) w root' (acc * root' / 2 ^ 400) k
    else pow2Go r2 w root' acc k

/-- 2^x of a finite value with a power of two as denominator. -/
def xexp2 : Xv → Xv
  | .nan => .nan
  | .inf s => if s then .fin false 0 1 else .inf false
  | .fin s n d =>
    if n = 0 then .fin false 1 1
    else if 512 * d ≤ n then (if s then .fin false 1 (2 ^ 512) else .fin false (2 ^ 512) 1)
    else
      let w := Nat.log2 d
      -- x = i + r/d with 0 ≤ r < d
      let i : Int := if s then -((n + d - 1) / d : Nat) else (n / d : Nat)
      let r := if s then ((n + d - 1) / d) * d - n else n % d
      let f := if r = 0 then 2 ^ 400 else pow2Go r w (2 * 2 ^ 400) (2 ^ 400) w
      if 0 ≤ i then .fin false (f * 2 ^ i.toNat) (2 ^ 400) else .fin false f (2 ^ 400 * 2 ^ (-i).toNat)

/-- k bits of log₂ of y/2^500 in [1, 2), by repeated squaring. -/
def log2Go (y acc : Nat) : Nat → Nat
  | 0 => acc
  | k + 1 =>
    let y2 := y * y / 2 ^ 500
    if 2 ^ 501 ≤ y2 then log2Go (y2 / 2) (2 * acc + 1) k else log2Go y2 (2 * acc) k

def xlog2 : Xv → Xv
  | .nan => .nan
  | .inf s => if s then .nan else .inf false
  | .fin s n d =>
    if n = 0 then .inf true
    else if s then .nan
    else
      let e := ilog2 n d
      let (a, b) : Nat × Nat := if 0 ≤ e then (n, d * 2 ^ e.toNat) else (n * 2 ^ (-e).toNat, d)
      if a = b then .fin (e < 0) e.natAbs 1
      else
        -- log₂ = e + (2F + 1)/2^201
        let v : Int := e * 2 ^ 201 + (2 * log2Go (a * 2 ^ 500 / b) 0 200 + 1 : Nat)
        .fin (v < 0) v.natAbs (2 ^ 201)

end Sys2Proof.Machine
end

