-- ==== Sys2Proof/Machine/Convert.lean ====
section
/-! DEFINITION. Conversions between memory formats and lanes (R35 to R45, R49 to R55). -/

namespace Sys2Proof.Machine
open Sys2Proof

/-- The unscaled format of a code (R35). -/
def baseFmt (f : BitVec 6) : BitVec 6 := f &&& 0x1F#6

/-- The floating layout of a code, its scaled variant included (R37). -/
def fpOf (f : BitVec 6) : Option Fp :=
  match (baseFmt f).toNat with
  | 0x00 => some fp32
  | 0x01 => some bf16
  | 0x02 => some fp16
  | 0x03 => some e4m3
  | 0x04 => some e5m2
  | 0x05 => some e3m2
  | 0x06 => some e2m3
  | 0x07 => some e2m1
  | _ => none

/-- Floating and scaled formats use floating lanes (R40). -/
def floatKind (f : BitVec 6) : Bool := scaledFmt f || (fpOf f).isSome

/-- Bits of an element's value: b for a plane format of b planes (R35, R49). -/
def valueBits (f : BitVec 6) : Nat := if planeFmt f then (baseFmt f).toNat - 0x10 else fmtWidth f

def unsignedFmt (f : BitVec 6) : Bool := f == 0x09#6 || f == 0x0B#6 || f == 0x0D#6

/-- The floating lane of an element size (R40). -/
def laneFp (sb : Nat) : Fp := if sb = 2 then bf16 else fp32

/-- The state a memory access converts under (R40, R50, R53): captured by a stream (R228). `planes` is
the launch's plane limit, 0 for none (R454). -/
structure Cap where
  rm : BitVec 3
  sat : Bool
  vpst : Word
  vtb : Word
  vsb : Word
  vts : BitVec 32
  planes : Nat

def planeLimit (c : Ctx) : Nat :=
  match c.unit with
  | some u => if u.psn = 2 then u.planes else 0
  | none => 0

def Ctx.cap (c : Ctx) : Cap :=
  { rm := c.vrm.extractLsb' 0 3, sat := c.vrm.getLsbD 3, vpst := c.vpst, vtb := c.vtb, vsb := c.vsb
    vts := c.vts.extractLsb' 0 32, planes := planeLimit c }

def Stream.cap (t : Stream) (c : Ctx) : Cap :=
  { rm := t.vrm.extractLsb' 0 3, sat := t.vrm.getLsbD 3, vpst := t.vpst, vtb := t.vtb, vsb := t.vsb
    vts := t.vts.extractLsb' 0 32, planes := planeLimit c }

/-- The planes that a read of a plane format takes: min(q, p) with q from PREAD or PLANES (R50, R454). -/
def planeCount (b q limit : Nat) : Nat :=
  let q := if q = 0 then b else Nat.min q b
  if limit = 0 then q else Nat.min q limit

/-- R51: p bits read as a p-bit integer, placed at the middle of what the missing bits could cover. -/
def planeValue (raw p b : Nat) : Int :=
  let v : Int := if 2 ^ (p - 1) ≤ raw then (raw : Int) - 2 ^ p else raw
  v * 2 ^ (b - p) + (if p < b then 2 ^ (b - p - 1) else 0)

def intXv (v : Int) : Xv := .fin (v < 0) v.natAbs 1

/-- Two's complement or unsigned reading of w bits. -/
def intOf (signed : Bool) (w v : Nat) : Int :=
  let v := v % 2 ^ w
  if signed && 2 ^ (w - 1) ≤ v then (v : Int) - 2 ^ w else v

/-- The value stored in memory bits of a format that is not a plane format, before any scale. -/
def memXv (f : BitVec 6) (raw : Nat) : Xv :=
  match fpOf f with
  | some p => p.decode raw
  | none => intXv (intOf (!unsignedFmt f) (fmtWidth f) raw)

def bitsOfInt (w : Nat) (v : Int) : Nat := (v % (2 ^ w : Nat)).toNat

/-- An integer target (R43, R44). -/
def toInteger (signed : Bool) (w : Nat) (rm : BitVec 3) (sat : Bool) (x : Xv) : Nat :=
  let lo : Int := if signed then -(2 ^ (w - 1) : Nat) else 0
  let hi : Int := if signed then (2 ^ (w - 1) : Nat) - 1 else (2 ^ w : Nat) - 1
  match x with
  | .nan => 0
  | .inf neg => bitsOfInt w (if neg then lo else hi)
  | .fin neg n d =>
    let r : Int := roundInt rm neg n d
    let v := if neg then -r else r
    bitsOfInt w (if sat then max lo (min hi v) else v)

/-- m × s × t (R55). -/
def scaleUp (m : Xv) (s : Byte) (t : BitVec 32) : Xv :=
  xmul (xmul m (e4m3.decode s.toNat)) (fp32.decode t.toNat)

/-- x / (s × t) (R55). -/
def scaleDown (x : Xv) (s : Byte) (t : BitVec 32) : Xv :=
  xdiv x (xmul (e4m3.decode s.toNat) (fp32.decode t.toNat))

/-- Widen (R40, R51, R55): `v` is the exact value read, `raw` its bits for an unscaled integer lane. -/
def widen (c : Cap) (f : BitVec 6) (sb : Nat) (v : Xv) (s : Byte) : BitVec 32 :=
  if floatKind f then
    let x := if scaledFmt f then scaleUp v s c.vts else v
    BitVec.ofNat 32 ((laneFp sb).round c.rm c.sat true x)
  else
    match v with
    | .fin neg n _ => BitVec.ofNat 32 (bitsOfInt (8 * sb) (if neg then -(n : Int) else n))
    | _ => 0

/-- Whether a lane's value passes to a format bit for bit: the lane format itself (R44). -/
def sameAsLane (f : BitVec 6) (sb : Nat) : Bool :=
  (sb == 4 && (f == 0x00#6 || f == 0x08#6 || f == 0x09#6)) ||
  (sb == 2 && (f == 0x01#6 || f == 0x0A#6 || f == 0x0B#6))

/-- Narrow (R40, R44, R52, R55): the memory bits of a lane value. -/
def narrow (c : Cap) (f : BitVec 6) (sb : Nat) (x : BitVec 32) (s : Byte) : Nat :=
  if sameAsLane f sb then x.toNat % 2 ^ (8 * sb)
  else if floatKind f then
    let v := (laneFp sb).decode x.toNat
    let v := if scaledFmt f then scaleDown v s c.vts else v
    match fpOf f with
    | some p => p.round c.rm c.sat (f == 0x00#6) v
    | none => toInteger true (valueBits f) c.rm c.sat v
  else
    toInteger (!unsignedFmt f) (valueBits f) c.rm c.sat (intXv (intOf true (8 * sb) x.toNat))

/-- Formats that update `amax` and `amaxn` from a lane (R58). -/
def narrows (f : BitVec 6) (sb : Nat) : Bool :=
  scaledFmt f || ((fpOf f).isSome && f != 0x00#6 && !sameAsLane f sb)

/-- A lane value's update of `amax` and `amaxn`. -/
def noteLane (c : Ctx) (sb : Nat) (x : BitVec 32) : Ctx :=
  let bits := if sb = 2 then x.toNat % 65536 * 65536 else x.toNat
  match fp32.decode bits with
  | .nan => { c with amaxn := 1 }
  | _ =>
    let mag := bits % 2 ^ 31
    if c.amax.toNat < mag then { c with amax := BitVec.ofNat 64 mag } else c

/-- The update of R58 by one element that a store, scatter or stream write has written. -/
def noteAmax (c : Ctx) (f : BitVec 6) (sb : Nat) (x : BitVec 32) : Ctx := if !narrows f sb then c else noteLane c sb x

/-- The update of R58 by one element that a `cdrain` has written: every format but f32 narrows a C value, the integer and
plane formats too (DEDUCED from R38, log 93). -/
def noteDrain (c : Ctx) (f : BitVec 6) (x : BitVec 32) : Ctx := if f = 0x00#6 then c else noteLane c 4 x

/-- SEW 16 takes no 32-bit integer format (R40). -/
def laneTakes (f : BitVec 6) (sb : Nat) : Bool := !(sb == 2 && (f == 0x08#6 || f == 0x09#6))

end Sys2Proof.Machine
end

