-- ==== Sys2Proof/Machine/Scalar.lean ====
section
/-! DEFINITION. RV64I and M on scalar registers (R149), and the control transfers. -/

namespace Sys2Proof.Machine
open Sys2Proof

/-- An RV64I instruction of the CT, of the MS or of a strip's cluster (R128, R142, R164). -/
def scalarStep (s : State) (k : State → State) : Out :=
  match s.who with
  | .ct _ => .next (k s)
  | .ms _ => .next (k s)
  | .ind .. => .next (k s)
  | _ => .fault .noSuchAgent

/-- An instruction that the MS may not execute: there it is underlying cause 2 (R128, R142). -/
def ctStep (s : State) (bits : Word) (k : State → State) : Out :=
  match s.who with
  | .ct _ => .next (k s)
  | .ind .. => .next (k s)
  | .ms _ => .next (s.illegal bits)
  | _ => .fault .noSuchAgent

def rvBits (w : BitVec 32) : Word := w.zeroExtend 64

/-- rd ← f rs1 rs2. -/
def alu2 (rd rs1 rs2 : Reg) (f : Word → Word → Word) (s : State) : State :=
  (s.wx rd (f (s.rx rs1) (s.rx rs2))).retire 4
/-- rd ← f rs1 imm. -/
def alu1 (rd rs1 : Reg) (f : Word → Word) (s : State) : State := (s.wx rd (f (s.rx rs1))).retire 4

/-- A 32-bit result sign-extended to 64 bits. -/
def sx32 (v : BitVec 32) : Word := v.signExtend 64
def lo32 (v : Word) : BitVec 32 := v.extractLsb' 0 32
def immW (i : BitVec 12) : Word := i.signExtend 64
def boolW (b : Bool) : Word := if b then 1 else 0

/-! RISC-V division (M): by zero the quotient is all ones and the remainder the dividend; the overflow
case gives the dividend and 0. -/
def divS {w : Nat} (a b : BitVec w) : BitVec w := if b = 0 then BitVec.allOnes w else a.sdiv b
def remS {w : Nat} (a b : BitVec w) : BitVec w := if b = 0 then a else a.srem b
def divU {w : Nat} (a b : BitVec w) : BitVec w := if b = 0 then BitVec.allOnes w else a / b
def remU {w : Nat} (a b : BitVec w) : BitVec w := if b = 0 then a else a % b

/-! High halves of the 128-bit product (M). -/
def mulhSS (a b : Word) : Word := BitVec.ofInt 64 (a.toInt * b.toInt / 2 ^ 64)
def mulhSU (a b : Word) : Word := BitVec.ofInt 64 (a.toInt * b.toNat / 2 ^ 64)
def mulhUU (a b : Word) : Word := BitVec.ofNat 64 (a.toNat * b.toNat / 2 ^ 64)

def uImm (imm : BitVec 20) : Word := ((imm ++ 0#12 : BitVec 32)).signExtend 64

def execLui (rd : Reg) (imm : BitVec 20) (s : State) : Out :=
  scalarStep s fun s => (s.wx rd (uImm imm)).retire 4
def execAuipc (rd : Reg) (imm : BitVec 20) (s : State) : Out :=
  scalarStep s fun s => (s.wx rd (s.pc + uImm imm)).retire 4

/-- J- and B-type offsets in bytes. -/
def jOff (imm : BitVec 20) : Word := ((imm ++ 0#1 : BitVec 21)).signExtend 64
def bOff (imm : BitVec 12) : Word := ((imm ++ 0#1 : BitVec 13)).signExtend 64

def execJal (rd : Reg) (imm : BitVec 20) (s : State) : Out :=
  scalarStep s fun s => (s.wx rd (s.pc + 4)).jump (s.pc + jOff imm)
def execJalr (rd rs1 : Reg) (imm : BitVec 12) (s : State) : Out :=
  scalarStep s fun s => (s.wx rd (s.pc + 4)).jump ((s.rx rs1 + immW imm) &&& 0xFFFFFFFFFFFFFFFE)

/-- A conditional branch. -/
def branch (rs1 rs2 : Reg) (imm : BitVec 12) (c : Word → Word → Bool) (s : State) : State :=
  if c (s.rx rs1) (s.rx rs2) then s.jump (s.pc + bOff imm) else s.retire 4

def execBeq (rs1 rs2 : Reg) (imm : BitVec 12) (s : State) : Out :=
  scalarStep s (branch rs1 rs2 imm fun a b => a == b)
def execBne (rs1 rs2 : Reg) (imm : BitVec 12) (s : State) : Out :=
  scalarStep s (branch rs1 rs2 imm fun a b => a != b)
def execBlt (rs1 rs2 : Reg) (imm : BitVec 12) (s : State) : Out :=
  scalarStep s (branch rs1 rs2 imm fun a b => a.slt b)
def execBge (rs1 rs2 : Reg) (imm : BitVec 12) (s : State) : Out :=
  scalarStep s (branch rs1 rs2 imm fun a b => !a.slt b)
def execBltu (rs1 rs2 : Reg) (imm : BitVec 12) (s : State) : Out :=
  scalarStep s (branch rs1 rs2 imm fun a b => a.ult b)
def execBgeu (rs1 rs2 : Reg) (imm : BitVec 12) (s : State) : Out :=
  scalarStep s (branch rs1 rs2 imm fun a b => !a.ult b)

def execAddi (rd rs1 : Reg) (imm : BitVec 12) (s : State) : Out :=
  scalarStep s (alu1 rd rs1 fun a => a + immW imm)
def execSlti (rd rs1 : Reg) (imm : BitVec 12) (s : State) : Out :=
  scalarStep s (alu1 rd rs1 fun a => boolW (a.slt (immW imm)))
def execSltiu (rd rs1 : Reg) (imm : BitVec 12) (s : State) : Out :=
  scalarStep s (alu1 rd rs1 fun a => boolW (a.ult (immW imm)))
def execXori (rd rs1 : Reg) (imm : BitVec 12) (s : State) : Out :=
  scalarStep s (alu1 rd rs1 fun a => a ^^^ immW imm)
def execOri (rd rs1 : Reg) (imm : BitVec 12) (s : State) : Out :=
  scalarStep s (alu1 rd rs1 fun a => a ||| immW imm)
def execAndi (rd rs1 : Reg) (imm : BitVec 12) (s : State) : Out :=
  scalarStep s (alu1 rd rs1 fun a => a &&& immW imm)
def execAddiw (rd rs1 : Reg) (imm : BitVec 12) (s : State) : Out :=
  scalarStep s (alu1 rd rs1 fun a => sx32 (lo32 (a + immW imm)))
def execSlli (rd rs1 : Reg) (sh : BitVec 6) (s : State) : Out :=
  scalarStep s (alu1 rd rs1 fun a => a <<< sh.toNat)
def execSrli (rd rs1 : Reg) (sh : BitVec 6) (s : State) : Out :=
  scalarStep s (alu1 rd rs1 fun a => a >>> sh.toNat)
def execSrai (rd rs1 : Reg) (sh : BitVec 6) (s : State) : Out :=
  scalarStep s (alu1 rd rs1 fun a => a.sshiftRight sh.toNat)
def execSlliw (rd rs1 : Reg) (sh : BitVec 5) (s : State) : Out :=
  scalarStep s (alu1 rd rs1 fun a => sx32 (lo32 a <<< sh.toNat))
def execSrliw (rd rs1 : Reg) (sh : BitVec 5) (s : State) : Out :=
  scalarStep s (alu1 rd rs1 fun a => sx32 (lo32 a >>> sh.toNat))
def execSraiw (rd rs1 : Reg) (sh : BitVec 5) (s : State) : Out :=
  scalarStep s (alu1 rd rs1 fun a => sx32 ((lo32 a).sshiftRight sh.toNat))

/-- Shift amounts: the low 6 bits, or 5 for the W forms. -/
def sh6 (b : Word) : Nat := (b.extractLsb' 0 6).toNat
def sh5 (b : Word) : Nat := (b.extractLsb' 0 5).toNat

def execAdd (rd rs1 rs2 : Reg) (s : State) : Out :=
  scalarStep s (alu2 rd rs1 rs2 fun a b => a + b)
def execSub (rd rs1 rs2 : Reg) (s : State) : Out :=
  scalarStep s (alu2 rd rs1 rs2 fun a b => a - b)
def execSll (rd rs1 rs2 : Reg) (s : State) : Out :=
  scalarStep s (alu2 rd rs1 rs2 fun a b => a <<< sh6 b)
def execSlt (rd rs1 rs2 : Reg) (s : State) : Out :=
  scalarStep s (alu2 rd rs1 rs2 fun a b => boolW (a.slt b))
def execSltu (rd rs1 rs2 : Reg) (s : State) : Out :=
  scalarStep s (alu2 rd rs1 rs2 fun a b => boolW (a.ult b))
def execXor (rd rs1 rs2 : Reg) (s : State) : Out :=
  scalarStep s (alu2 rd rs1 rs2 fun a b => a ^^^ b)
def execSrl (rd rs1 rs2 : Reg) (s : State) : Out :=
  scalarStep s (alu2 rd rs1 rs2 fun a b => a >>> sh6 b)
def execSra (rd rs1 rs2 : Reg) (s : State) : Out :=
  scalarStep s (alu2 rd rs1 rs2 fun a b => a.sshiftRight (sh6 b))
def execOr (rd rs1 rs2 : Reg) (s : State) : Out :=
  scalarStep s (alu2 rd rs1 rs2 fun a b => a ||| b)
def execAnd (rd rs1 rs2 : Reg) (s : State) : Out :=
  scalarStep s (alu2 rd rs1 rs2 fun a b => a &&& b)
def execAddw (rd rs1 rs2 : Reg) (s : State) : Out :=
  scalarStep s (alu2 rd rs1 rs2 fun a b => sx32 (lo32 a + lo32 b))
def execSubw (rd rs1 rs2 : Reg) (s : State) : Out :=
  scalarStep s (alu2 rd rs1 rs2 fun a b => sx32 (lo32 a - lo32 b))
def execSllw (rd rs1 rs2 : Reg) (s : State) : Out :=
  scalarStep s (alu2 rd rs1 rs2 fun a b => sx32 (lo32 a <<< sh5 b))
def execSrlw (rd rs1 rs2 : Reg) (s : State) : Out :=
  scalarStep s (alu2 rd rs1 rs2 fun a b => sx32 (lo32 a >>> sh5 b))
def execSraw (rd rs1 rs2 : Reg) (s : State) : Out :=
  scalarStep s (alu2 rd rs1 rs2 fun a b => sx32 ((lo32 a).sshiftRight (sh5 b)))

def execMul (rd rs1 rs2 : Reg) (s : State) : Out :=
  ctStep s (rvBits (encR 1#7 rs2 rs1 0#3 rd 0x33#7)) (alu2 rd rs1 rs2 fun a b => a * b)
def execMulh (rd rs1 rs2 : Reg) (s : State) : Out :=
  ctStep s (rvBits (encR 1#7 rs2 rs1 1#3 rd 0x33#7)) (alu2 rd rs1 rs2 fun a b => mulhSS a b)
def execMulhsu (rd rs1 rs2 : Reg) (s : State) : Out :=
  ctStep s (rvBits (encR 1#7 rs2 rs1 2#3 rd 0x33#7)) (alu2 rd rs1 rs2 fun a b => mulhSU a b)
def execMulhu (rd rs1 rs2 : Reg) (s : State) : Out :=
  ctStep s (rvBits (encR 1#7 rs2 rs1 3#3 rd 0x33#7)) (alu2 rd rs1 rs2 fun a b => mulhUU a b)
def execDiv (rd rs1 rs2 : Reg) (s : State) : Out :=
  ctStep s (rvBits (encR 1#7 rs2 rs1 4#3 rd 0x33#7)) (alu2 rd rs1 rs2 fun a b => divS a b)
def execDivu (rd rs1 rs2 : Reg) (s : State) : Out :=
  ctStep s (rvBits (encR 1#7 rs2 rs1 5#3 rd 0x33#7)) (alu2 rd rs1 rs2 fun a b => divU a b)
def execRem (rd rs1 rs2 : Reg) (s : State) : Out :=
  ctStep s (rvBits (encR 1#7 rs2 rs1 6#3 rd 0x33#7)) (alu2 rd rs1 rs2 fun a b => remS a b)
def execRemu (rd rs1 rs2 : Reg) (s : State) : Out :=
  ctStep s (rvBits (encR 1#7 rs2 rs1 7#3 rd 0x33#7)) (alu2 rd rs1 rs2 fun a b => remU a b)
def execMulw (rd rs1 rs2 : Reg) (s : State) : Out :=
  ctStep s (rvBits (encR 1#7 rs2 rs1 0#3 rd 0x3B#7)) (alu2 rd rs1 rs2 fun a b => sx32 (lo32 a * lo32 b))
def execDivw (rd rs1 rs2 : Reg) (s : State) : Out :=
  ctStep s (rvBits (encR 1#7 rs2 rs1 4#3 rd 0x3B#7)) (alu2 rd rs1 rs2 fun a b => sx32 (divS (lo32 a) (lo32 b)))
def execDivuw (rd rs1 rs2 : Reg) (s : State) : Out :=
  ctStep s (rvBits (encR 1#7 rs2 rs1 5#3 rd 0x3B#7)) (alu2 rd rs1 rs2 fun a b => sx32 (divU (lo32 a) (lo32 b)))
def execRemw (rd rs1 rs2 : Reg) (s : State) : Out :=
  ctStep s (rvBits (encR 1#7 rs2 rs1 6#3 rd 0x3B#7)) (alu2 rd rs1 rs2 fun a b => sx32 (remS (lo32 a) (lo32 b)))
def execRemuw (rd rs1 rs2 : Reg) (s : State) : Out :=
  ctStep s (rvBits (encR 1#7 rs2 rs1 7#3 rd 0x3B#7)) (alu2 rd rs1 rs2 fun a b => sx32 (remU (lo32 a) (lo32 b)))

end Sys2Proof.Machine
end

