-- ==== Sys2Proof/Machine/ScalarMem.lean ====
section
/-! DEFINITION. Scalar loads, stores, LR/SC and AMOs (R149 to R152), and the base's fences. -/

namespace Sys2Proof.Machine
open Sys2Proof

/-- Sets WOOB (R27, R179). -/
def State.setWoob (s : State) : State :=
  s.modCtx s.hart fun c => { c with uicause := c.uicause ||| 0x100000000 }

/-- The read inside an atomic, or of a structure that a store or `kvfork` works on: the value and its poison, the core's
copies refreshed (R84). It is none of the reads that R417 counts. -/
def State.readUpdate (s : State) (x : Xl) (n : Nat) : (List Byte × Bool) × State :=
  let (bs, p) := s.readHome x.pa n
  ((bs, p || x.pois), s.refreshSector s.issuerCore x.pa)

/-- A load of n bytes at a translated address that bypasses the cache ways (R84): checkpoints are credited (R417). -/
def State.readBypass (s : State) (x : Xl) (n : Nat) : (List Byte × Bool) × State :=
  let (r, s) := s.readUpdate x n
  (r, s.credit x.pa n)

/-- A read of n bytes, each byte by an access of its own (R150). -/
def readBytewise (s : State) (va : Word) : Nat → Nat → Except (Nat × Word) (List Byte) × State
  | _, 0 => (.ok [], s)
  | i, n + 1 =>
    let a := va + BitVec.ofNat 64 i
    match s.translate a .load with
    | (.error e, s) => (.error (scalarCause .load e, errVa a e), s)
    | (.ok x, s) =>
      let ((bs, p), s) := s.readBypass x 1
      if p then (.error (26, a), s)
      else match readBytewise s va (i + 1) n with
        | (.ok t, s) => (.ok (bs ++ t), s)
        | (.error e, s) => (.error e, s)

/-- A scalar load of n bytes (R150), or a descriptor read: the value, or cause and trap value. -/
def State.scalarRead (s : State) (va : Word) (n : Nat) : Except (Nat × Word) Nat × State :=
  match reach (s.ctx s.hart) va n .load with
  | .sram => (.error (5, va), s)
  | .bad tv => (.error (25, tv), s)
  | .zero => (.ok 0, s.setWoob)
  | .va a param =>
    if a.toNat % n = 0 then
      match s.translate a .load with
      | (.error e, s) => (.error (scalarCause .load e, errVa a e), s)
      | (.ok x, s) =>
        let ((bs, p), s) := match (if s.isMs then none else param) with
          | some since => let ((bs, p), s) := s.readParam x.pa n since; ((bs, p || x.pois), s)
          | none => s.readBypass x n
        if p then (.error (26, a), s) else (.ok (leNat bs), s)
    else match readBytewise s a 0 n with
      | (.ok bs, s) => (.ok (leNat bs), s)
      | (.error e, s) => (.error e, s)

/-- The physical addresses of a misaligned store's bytes (R150). -/
def storeBytewise (s : State) (va : Word) : Nat → Nat → Except (Nat × Word) (List Nat) × State
  | _, 0 => (.ok [], s)
  | i, n + 1 =>
    let a := va + BitVec.ofNat 64 i
    match s.translate a .store with
    | (.error e, s) => (.error (scalarCause .store e, errVa a e), s)
    | (.ok x, s) => match storeBytewise s va (i + 1) n with
      | (.ok t, s) => (.ok (x.pa :: t), s)
      | (.error e, s) => (.error e, s)

/-- A scalar store of n bytes: it enters its class queue, or answers cause and trap value. -/
def State.scalarWrite (s : State) (va : Word) (n : Nat) (v : Nat) : Except (Nat × Word) State × State :=
  match reach (s.ctx s.hart) va n .store with
  | .sram => (.error (7, va), s)
  | .bad tv => (.error (25, tv), s)
  | .zero => (.error (25, va), s)
  | .va a _ =>
    if a.toNat % n = 0 then
      match s.translate a .store with
      | (.error e, s) => (.error (scalarCause .store e, errVa a e), s)
      | (.ok x, s) => (.ok (s.enqueue x.pa (fullBytes (natLe n v))), s)
    else match storeBytewise s a 0 n with
      | (.ok pas, s) =>
        (.ok ((pas.zip (natLe n v)).foldl (fun s (pa, b) => s.enqueue pa [(b, 0xFF#8)]) s), s)
      | (.error e, s) => (.error e, s)

/-- rd ← a load of n bytes, sign- or zero-extended. -/
def loadOp (rd rs1 : Reg) (imm : BitVec 12) (n : Nat) (signed : Bool) (s : State) : State :=
  match s.scalarRead (s.rx rs1 + immW imm) n with
  | (.error (c, tv), s) => s.trap c tv
  | (.ok v, s) =>
    let w := BitVec.ofNat (8 * n) v
    (s.wx rd (if signed then w.signExtend 64 else w.zeroExtend 64)).retire 4

def storeOp (rs1 rs2 : Reg) (imm : BitVec 12) (n : Nat) (s : State) : State :=
  match s.scalarWrite (s.rx rs1 + immW imm) n (s.rx rs2).toNat with
  | (.error (c, tv), s) => s.trap c tv
  | (.ok s, _) => s.retire 4

def execLb (rd rs1 : Reg) (imm : BitVec 12) (s : State) : Out := scalarStep s (loadOp rd rs1 imm 1 true)
def execLh (rd rs1 : Reg) (imm : BitVec 12) (s : State) : Out := scalarStep s (loadOp rd rs1 imm 2 true)
def execLw (rd rs1 : Reg) (imm : BitVec 12) (s : State) : Out := scalarStep s (loadOp rd rs1 imm 4 true)
def execLd (rd rs1 : Reg) (imm : BitVec 12) (s : State) : Out := scalarStep s (loadOp rd rs1 imm 8 true)
def execLbu (rd rs1 : Reg) (imm : BitVec 12) (s : State) : Out := scalarStep s (loadOp rd rs1 imm 1 false)
def execLhu (rd rs1 : Reg) (imm : BitVec 12) (s : State) : Out := scalarStep s (loadOp rd rs1 imm 2 false)
def execLwu (rd rs1 : Reg) (imm : BitVec 12) (s : State) : Out := scalarStep s (loadOp rd rs1 imm 4 false)
def execSb (rs1 rs2 : Reg) (imm : BitVec 12) (s : State) : Out := scalarStep s (storeOp rs1 rs2 imm 1)
def execSh (rs1 rs2 : Reg) (imm : BitVec 12) (s : State) : Out := scalarStep s (storeOp rs1 rs2 imm 2)
def execSw (rs1 rs2 : Reg) (imm : BitVec 12) (s : State) : Out := scalarStep s (storeOp rs1 rs2 imm 4)
def execSd (rs1 rs2 : Reg) (imm : BitVec 12) (s : State) : Out := scalarStep s (storeOp rs1 rs2 imm 8)

/-! Fences (R72, R73). -/

/-- Every earlier store of the moving agent has been performed. Loads, and `.cm` atomics and gsc, are
performed when they execute (log 7). -/
def State.drained (s : State) : Bool := s.queue.isEmpty

/-- The acquire half of a fence: at `.die` and wider the core's cache-way copies go (R73). -/
def State.acquire (s : State) (scope : Nat) : State :=
  if 2 ≤ scope then s.dropWays s.issuerCore else s

/-- Runs k once the earlier stores have been performed, and waits until then. -/
def afterDrain (s : State) (k : State → State) : State := if s.drained then k s else s.stall

/-- Whether every store that a release at a scope covers is performed: those to a peer only at `.sys` (R66, R433). -/
def State.drainedFor (s : State) (scope : Nat) : Bool := s.queue.all fun p => scope < 4 && 2 ^ 51 ≤ p.pa

def fenceAcq (len scope : Nat) (s : State) : State := (s.acquire scope).retire len
def fenceSc (len scope : Nat) (s : State) : State :=
  if s.drainedFor scope then (s.acquire scope).retire len else s.stall

/-- R152: an empty set orders nothing; any I/O bit widens the fence to `.sys`; fm, rd and rs1 are
ignored. -/
def execFence (_fm pr su : BitVec 4) (_rd _rs1 : Reg) (s : State) : Out :=
  scalarStep s fun s =>
    if pr = 0#4 ∨ su = 0#4 then s.retire 4
    else if pr.extractLsb' 2 2 ≠ 0#2 ∨ su.extractLsb' 2 2 ≠ 0#2 then fenceSc 4 4 s
    else fenceSc 4 3 s

def execFenceTso (_rd _rs1 : Reg) (s : State) : Out := scalarStep s (fenceSc 4 3)

/-- Later fetches see the context's own earlier stores to code (R128, R153). -/
def execFenceI (_rd _rs1 : Reg) (_imm : BitVec 12) (s : State) : Out :=
  scalarStep s fun s => afterDrain s fun s =>
    match s.who with
    | .ms g => (s.modMs g fun m => { m with ibuf := [] }).retire 4
    | _ => (s.modCtx s.hart fun c => { c with ibuf := [] }).retire 4

/-! LR, SC and AMO (R150 to R152). -/

/-- Runs an atomic access of n bytes at x[rs1]: alignment, windows, the earlier accesses of its class
(R74) and, with rl, of every class. `k` receives the underlying address. -/
def atomicAccess (rs1 : Reg) (n : Nat) (rl : Bool) (acc : Access) (s : State) (k : Word → Xl → State → State) :
    State :=
  let va := s.rx rs1
  let low := match acc with | .load => 4 | _ => 6
  match reach (s.ctx s.hart) va n acc with
  | .sram => if va.toNat % n ≠ 0 then s.trap low va else s.trap (low + 1) va
  | .bad tv => if va.toNat % n ≠ 0 then s.trap low tv else s.trap 25 tv
  | .zero => if va.toNat % n ≠ 0 then s.trap low va else s.trap 25 va
  | .va a _ =>
    if a.toNat % n ≠ 0 then s.trap low a
    else match s.translate a acc with
      | (.error e, s) => s.trap (scalarCause acc e) (errVa a e)
      | (.ok x, s) => if (rl && !s.drainedFor 3) || !s.classEmpty x.pa then s.stall else k a x s

/-- The acquire of an `.aq` access (R152). -/
def aqDone (aq : Bool) (s : State) : State := (if aq then s.acquire 3 else s).retire 4

def lrOp (aq rl : Bool) (rd rs1 : Reg) (n : Nat) (s : State) : State :=
  atomicAccess rs1 n rl .load s fun a x s =>
    if !onDevice x.pa then s.trap 5 a
    else
      let ((bs, p), s) := s.readBypass x n
      if p then s.trap 26 a
      else
        let s := s.modCtx s.hart fun c => { c with resv := some (x.pa / 64) }
        aqDone aq (s.wx rd ((BitVec.ofNat (8 * n) (leNat bs)).signExtend 64))

def scOp (aq rl : Bool) (rd rs1 rs2 : Reg) (n : Nat) (s : State) : State :=
  atomicAccess rs1 n rl .store s fun a x s =>
    if !onDevice x.pa then s.trap 7 a
    else
      let ok : Bool := (s.ctx s.hart).resv = some (x.pa / 64)
      let v := (s.rx rs2).toNat
      let s := s.modCtx s.hart fun c => { c with resv := none }
      let s := if ok then s.homeWrite s.writer x.pa (fullBytes (natLe n v)) else s
      aqDone aq (s.wx rd (boolW (!ok)))

/-- An AMO: one read-modify-write at the home slice; f acts on the n-byte value (R74, R150). -/
def amoOp (aq rl : Bool) (rd rs1 rs2 : Reg) (n : Nat) (f : BitVec (8 * n) → BitVec (8 * n) → BitVec (8 * n))
    (s : State) : State :=
  atomicAccess rs1 n rl .amo s fun a x s =>
    let ((bs, p), s) := s.readUpdate x n
    if p then s.trap 26 a
    else
      let old := BitVec.ofNat (8 * n) (leNat bs)
      let new := f old ((s.rx rs2).setWidth (8 * n))
      let s := s.homeWrite s.writer x.pa (fullBytes (natLe n new.toNat))
      aqDone aq (s.wx rd (old.signExtend 64))

def pick {w : Nat} (c : Bool) (a b : BitVec w) : BitVec w := if c then a else b

def amoBits (f5 : BitVec 5) (aq rl : Bool) (rs2 rs1 : Reg) (f3 : BitVec 3) (rd : Reg) : Word :=
  rvBits (encA f5 aq rl rs2 rs1 f3 rd)

def execLrW (aq rl : Bool) (rd rs1 : Reg) (s : State) : Out :=
  ctStep s (amoBits 0x02#5 aq rl 0#5 rs1 2#3 rd) (lrOp aq rl rd rs1 4)
def execScW (aq rl : Bool) (rd rs1 rs2 : Reg) (s : State) : Out :=
  ctStep s (amoBits 0x03#5 aq rl rs2 rs1 2#3 rd) (scOp aq rl rd rs1 rs2 4)
def execLrD (aq rl : Bool) (rd rs1 : Reg) (s : State) : Out :=
  ctStep s (amoBits 0x02#5 aq rl 0#5 rs1 3#3 rd) (lrOp aq rl rd rs1 8)
def execScD (aq rl : Bool) (rd rs1 rs2 : Reg) (s : State) : Out :=
  ctStep s (amoBits 0x03#5 aq rl rs2 rs1 3#3 rd) (scOp aq rl rd rs1 rs2 8)
def execAmoswapW (aq rl : Bool) (rd rs1 rs2 : Reg) (s : State) : Out :=
  ctStep s (amoBits 0x01#5 aq rl rs2 rs1 2#3 rd) (amoOp aq rl rd rs1 rs2 4 fun _a b => b)
def execAmoswapD (aq rl : Bool) (rd rs1 rs2 : Reg) (s : State) : Out :=
  ctStep s (amoBits 0x01#5 aq rl rs2 rs1 3#3 rd) (amoOp aq rl rd rs1 rs2 8 fun _a b => b)
def execAmoaddW (aq rl : Bool) (rd rs1 rs2 : Reg) (s : State) : Out :=
  ctStep s (amoBits 0x00#5 aq rl rs2 rs1 2#3 rd) (amoOp aq rl rd rs1 rs2 4 fun a b => a + b)
def execAmoaddD (aq rl : Bool) (rd rs1 rs2 : Reg) (s : State) : Out :=
  ctStep s (amoBits 0x00#5 aq rl rs2 rs1 3#3 rd) (amoOp aq rl rd rs1 rs2 8 fun a b => a + b)
def execAmoxorW (aq rl : Bool) (rd rs1 rs2 : Reg) (s : State) : Out :=
  ctStep s (amoBits 0x04#5 aq rl rs2 rs1 2#3 rd) (amoOp aq rl rd rs1 rs2 4 fun a b => a ^^^ b)
def execAmoxorD (aq rl : Bool) (rd rs1 rs2 : Reg) (s : State) : Out :=
  ctStep s (amoBits 0x04#5 aq rl rs2 rs1 3#3 rd) (amoOp aq rl rd rs1 rs2 8 fun a b => a ^^^ b)
def execAmoandW (aq rl : Bool) (rd rs1 rs2 : Reg) (s : State) : Out :=
  ctStep s (amoBits 0x0C#5 aq rl rs2 rs1 2#3 rd) (amoOp aq rl rd rs1 rs2 4 fun a b => a &&& b)
def execAmoandD (aq rl : Bool) (rd rs1 rs2 : Reg) (s : State) : Out :=
  ctStep s (amoBits 0x0C#5 aq rl rs2 rs1 3#3 rd) (amoOp aq rl rd rs1 rs2 8 fun a b => a &&& b)
def execAmoorW (aq rl : Bool) (rd rs1 rs2 : Reg) (s : State) : Out :=
  ctStep s (amoBits 0x08#5 aq rl rs2 rs1 2#3 rd) (amoOp aq rl rd rs1 rs2 4 fun a b => a ||| b)
def execAmoorD (aq rl : Bool) (rd rs1 rs2 : Reg) (s : State) : Out :=
  ctStep s (amoBits 0x08#5 aq rl rs2 rs1 3#3 rd) (amoOp aq rl rd rs1 rs2 8 fun a b => a ||| b)
def execAmominW (aq rl : Bool) (rd rs1 rs2 : Reg) (s : State) : Out :=
  ctStep s (amoBits 0x10#5 aq rl rs2 rs1 2#3 rd) (amoOp aq rl rd rs1 rs2 4 fun a b => pick (a.slt b) a b)
def execAmominD (aq rl : Bool) (rd rs1 rs2 : Reg) (s : State) : Out :=
  ctStep s (amoBits 0x10#5 aq rl rs2 rs1 3#3 rd) (amoOp aq rl rd rs1 rs2 8 fun a b => pick (a.slt b) a b)
def execAmomaxW (aq rl : Bool) (rd rs1 rs2 : Reg) (s : State) : Out :=
  ctStep s (amoBits 0x14#5 aq rl rs2 rs1 2#3 rd) (amoOp aq rl rd rs1 rs2 4 fun a b => pick (a.slt b) b a)
def execAmomaxD (aq rl : Bool) (rd rs1 rs2 : Reg) (s : State) : Out :=
  ctStep s (amoBits 0x14#5 aq rl rs2 rs1 3#3 rd) (amoOp aq rl rd rs1 rs2 8 fun a b => pick (a.slt b) b a)
def execAmominuW (aq rl : Bool) (rd rs1 rs2 : Reg) (s : State) : Out :=
  ctStep s (amoBits 0x18#5 aq rl rs2 rs1 2#3 rd) (amoOp aq rl rd rs1 rs2 4 fun a b => pick (a.ult b) a b)
def execAmominuD (aq rl : Bool) (rd rs1 rs2 : Reg) (s : State) : Out :=
  ctStep s (amoBits 0x18#5 aq rl rs2 rs1 3#3 rd) (amoOp aq rl rd rs1 rs2 8 fun a b => pick (a.ult b) a b)
def execAmomaxuW (aq rl : Bool) (rd rs1 rs2 : Reg) (s : State) : Out :=
  ctStep s (amoBits 0x1C#5 aq rl rs2 rs1 2#3 rd) (amoOp aq rl rd rs1 rs2 4 fun a b => pick (a.ult b) b a)
def execAmomaxuD (aq rl : Bool) (rd rs1 rs2 : Reg) (s : State) : Out :=
  ctStep s (amoBits 0x1C#5 aq rl rs2 rs1 3#3 rd) (amoOp aq rl rd rs1 rs2 8 fun a b => pick (a.ult b) b a)

end Sys2Proof.Machine
end

