-- ==== Sys2Proof/Machine/Element.lean ====
section
/-! DEFINITION. Element accesses to memory (R24, R211 to R217): where a byte range leads, and reading and
writing one element of any format. -/

namespace Sys2Proof.Machine
open Sys2Proof

/-- A failed element access: cause and trap value. -/
abbrev Bad := Nat × Word

/-- Where an element access of some bytes leads. -/
inductive Place where
  | mem (x : Xl) (param : Option Nat)
  | zero
  | sram (key : Nat)


/-- The address of a byte range of the cluster-local space in a cluster (R24). -/
def State.sramKey (s : State) (q : Nat) (va : Word) : Option Nat :=
  let bank := (va.extractLsb' 16 4).toNat
  if va.extractLsb' 20 24 ≠ 0#24 ∨ s.bankModeOf q bank ≠ 1 then none
  else some ((16 * q + bank) * 65536 + (va.extractLsb' 0 16).toNat)

/-- Resolves an element's n bytes in the cluster q that holds the element (R24, R26, R27, R212). -/
def State.place (s : State) (va : Word) (n : Nat) (q : Nat) (acc : Access) : Except Bad Place × State :=
  match reach (s.ctx s.hart) va n acc with
  | .sram =>
    match s.sramKey q va with
    | some k => (.ok (.sram k), s)
    | none => (.error (if acc.writes then 7 else 5, va), s)
  | .bad tv => (.error (25, tv), s)
  | .zero => (.ok .zero, s.setWoob)
  | .va a param =>
    match s.translate a acc with
    | (.error e, s) => (.error (elementCause acc e, errVa a e), s)
    | (.ok x, s) => (.ok (.mem x param), s)

def State.sramBytes (s : State) (k n : Nat) : List Byte := (List.range n).map fun i => sparseGet 0#8 s.scratch (k + i)
def State.sramPois (s : State) (k n : Nat) : Bool := (List.range n).any fun i => sparseGet false s.scratchPois ((k + i) / 4)

/-- Reads a resolved byte range; without `nt` it may be served by the cache ways of the class's cluster
(R25, R84, R216). -/
def State.readPlace (s : State) (p : Place) (n : Nat) (nt : Bool) : (List Byte × Bool) × State :=
  match p with
  | .zero => ((List.replicate n 0#8, false), s)
  | .sram k => ((s.sramBytes k n, s.sramPois k n), s)
  | .mem x (some since) =>
    let ((bs, p), s) := s.readParam x.pa n since
    ((bs, p || x.pois), s)
  | .mem x none =>
    if nt then s.readBypass x n
    else
      let q := 4 * s.issuerCore + classOf x.pa
      let hit := s.ways.any (·.1 = wayKey q x.pa)
      let ((bs, p), s) := s.readCached q x.pa n
      ((bs, p || x.pois), if hit then s else s.credit x.pa n)

def putSram (m : Sparse Byte) (k : Nat) : List (Byte × Byte) → Sparse Byte
  | [] => m
  | (v, mask) :: t => putSram (sparsePut m k (mergeByte (sparseGet 0#8 m k) v mask)) (k + 1) t

/-- Writes a resolved byte range: through its class queue, or into the SRAM. -/
def State.writePlace (s : State) (p : Place) (bs : List (Byte × Byte)) : State :=
  match p with
  | .zero => s
  | .sram k => { s with
      scratch := putSram s.scratch k bs
      scratchPois := if bs.all (fun b => b.2 = 0xFF#8) then
          (wholeWords k bs.length).foldl (fun m w => sparsePut m w false) s.scratchPois else s.scratchPois }
  | .mem x _ => s.enqueue x.pa bs

/-- A byte address of 64 bits from a bit address (R212). -/
def bitVa (ba : Nat) : Word := BitVec.ofNat 64 (ba / 8)

def strideOf (c : Cap) : Nat := (c.vpst.extractLsb' 0 48).toNat
def preadOf (c : Cap) : Nat := (c.vpst.extractLsb' 60 4).toNat

/-- The block scale of an element (R54, R56). DEDUCED (log 102): it is a load for a store too, so that a page without R under it
gives cause 5 there. -/
def State.scaleByte (s : State) (c : Cap) (f : BitVec 6) (ba q : Nat) : Except Bad (Byte × Bool) × State :=
  if ba < 8 * c.vtb.toNat then (.error (31, bitVa ba), s)
  else
    let block := (ba - 8 * c.vtb.toNat) / (32 * fmtWidth f)
    after (s.place (c.vsb + BitVec.ofNat 64 block) 1 q .load) fun p s =>
      let ((bs, pois), s) := s.readPlace p 1 true
      (.ok (bs.headD 0#8, pois), s)

/-- The scale of an element, 1.0 for an unscaled format. -/
def State.scaleFor (s : State) (c : Cap) (f : BitVec 6) (ba q : Nat) : Except Bad (Byte × Bool) × State :=
  if scaledFmt f then s.scaleByte c f ba q else (.ok (0x38#8, false), s)

/-- Resolves single bytes one after another. -/
def placeBytes (q : Nat) (acc : Access) : List Word → State → Except Bad (List Place) × State
  | [], s => (.ok [], s)
  | va :: l, s => after (s.place va 1 q acc) fun p s => after (placeBytes q acc l s) fun t s => (.ok (p :: t), s)

/-- Resolves the bytes that an element has apart. One that lies only partly within its windows' bounds is beyond them before
any of its bytes is translated (R237): it reads zero, or fails with the element's address. -/
def State.placeApart (s : State) (q : Nat) (acc : Access) (l : List Word) : Except Bad (List Place) × State :=
  let at' := l.map fun va => reach (s.ctx s.hart) va 1 acc
  let tv := match at'.head? with
    | some (.bad tv) => tv
    | some (.va a _) => a
    | _ => l.headD 0
  if at'.contains .zero then (.ok (l.map fun _ => .zero), s.setWoob)
  else if at'.any fun r => match r with | .bad _ => true | _ => false then (.error (25, tv), s)
  else placeBytes q acc l s

/-- Resolves the bytes of an element at its first p planes (R49). -/
def placePlanes (s : State) (c : Cap) (ba q : Nat) (acc : Access) (p : Nat) : Except Bad (List Place) × State :=
  s.placeApart q acc ((List.range p).map fun k => bitVa ba + BitVec.ofNat 64 (k * strideOf c))

/-- Reads one byte at each place, and whether any is poisoned. Where one lies beyond a PARAM window the whole element
does, and reads zero (R237). -/
def readPlaces (s : State) (nt : Bool) (l : List Place) : (List Nat × Bool) × State :=
  if l.any fun p => match p with | .zero => true | _ => false then ((l.map fun _ => 0, false), s)
  else l.foldl (fun ((bs, pois), s) p =>
    let ((b, bad), s) := s.readPlace p 1 nt
    ((bs ++ [(b.headD 0#8).toNat], pois || bad), s)) (([], false), s)

/-- The bits of planes 0 to p − 1 of an element, most significant first, and their poison (R49, R51). -/
def readPlanes (s : State) (c : Cap) (ba q : Nat) (nt : Bool) (p : Nat) : Except Bad (Nat × Bool) × State :=
  after (placePlanes s c ba q .load p) fun l s =>
    let ((bs, pois), s) := readPlaces s nt l
    (.ok (bs.foldl (fun raw b => 2 * raw + b / 2 ^ (ba % 8) % 2) 0, pois), s)

/-- The one or two bytes of an element whose width is below 8 bits (R39, R217). -/
def placeSmall (s : State) (ba w q : Nat) (acc : Access) : Except Bad (List Place) × State :=
  s.placeApart q acc (if ba % 8 + w ≤ 8 then [bitVa ba] else [bitVa ba, bitVa ba + 1])

/-- The memory bits of an element whose width is below 8 bits, and their poison. -/
def readSmall (s : State) (ba w q : Nat) (nt : Bool) : Except Bad (Nat × Bool) × State :=
  after (placeSmall s ba w q .load) fun l s =>
    let ((bs, pois), s) := readPlaces s nt l
    (.ok ((bs.getD 0 0 + 256 * bs.getD 1 0) / 2 ^ (ba % 8) % 2 ^ w, pois), s)

/-- The planes a read of a plane format takes. -/
def Cap.planeReads (c : Cap) (f : BitVec 6) : Nat := planeCount (valueBits f) (preadOf c) c.planes

/-- The memory bits an element's read takes, and their poison. -/
def State.readRaw (s : State) (c : Cap) (f : BitVec 6) (ba q : Nat) (nt : Bool) : Except Bad (Nat × Bool) × State :=
  if planeFmt f then readPlanes s c ba q nt (c.planeReads f)
  else if fmtWidth f < 8 then readSmall s ba (fmtWidth f) q nt
  else
    let n := fmtWidth f / 8
    let va := bitVa ba
    if va.toNat % n ≠ 0 then (.error (4, va), s)
    else after (s.place va n q .load) fun p s =>
      let ((bs, pois), s) := s.readPlace p n nt
      (.ok (leNat bs, pois), s)

/-- The exact value of those bits before any scale. -/
def rawXv (c : Cap) (f : BitVec 6) (raw : Nat) : Xv :=
  if planeFmt f then intXv (planeValue raw (c.planeReads f) (valueBits f)) else memXv f raw

/-- The lane value of memory bits already read: the scale is read now (R56). -/
def State.widenRaw (s : State) (c : Cap) (f : BitVec 6) (sb ba q raw : Nat) (pois : Bool) :
    Except Bad (BitVec 32 × Bool) × State :=
  after (s.scaleFor c f ba q) fun (sc, sp) s => (.ok (widen c f sb (rawXv c f raw) sc, pois || sp), s)

/-- Loads one element (R213): the lane value and its poison. -/
def State.readElem (s : State) (c : Cap) (f : BitVec 6) (sb ba q : Nat) (nt : Bool) :
    Except Bad (BitVec 32 × Bool) × State :=
  after (s.readRaw c f ba q nt) fun (raw, pois) s => s.widenRaw c f sb ba q raw pois

/-- The places an element store goes to: the planes (R52), one or two bytes, or the whole element. Where there may be
several, all are tested before the first sets D (R363). -/
def State.storePlaces (s : State) (c : Cap) (f : BitVec 6) (ba q : Nat) : Except Bad (List Place) × State :=
  if planeFmt f then
    after (placePlanes s c ba q .probe (valueBits f)) fun _ s => placePlanes s c ba q .store (valueBits f)
  else if fmtWidth f < 8 then
    after (placeSmall s ba (fmtWidth f) q .probe) fun _ s => placeSmall s ba (fmtWidth f) q .store
  else
    let n := fmtWidth f / 8
    let va := bitVa ba
    if va.toNat % n ≠ 0 then (.error (6, va), s)
    else after (s.place va n q .store) fun p s => (.ok [p], s)

/-- The bytes, with the bits they write, that each place of an element store receives (R214). -/
def storeBytes (f : BitVec 6) (ba bits : Nat) (places : List Place) : List (Place × List (Byte × Byte)) :=
  let sh := ba % 8
  if planeFmt f then
    let b := valueBits f
    (List.range places.length).zip places |>.map fun (k, p) =>
      (p, [(BitVec.ofNat 8 (bits / 2 ^ (b - 1 - k) % 2 * 2 ^ sh), BitVec.ofNat 8 (2 ^ sh))])
  else if fmtWidth f < 8 then
    let v := bits * 2 ^ sh
    let m := (2 ^ fmtWidth f - 1) * 2 ^ sh
    (List.range places.length).zip places |>.map fun (k, p) =>
      (p, [(BitVec.ofNat 8 (v / 256 ^ k), BitVec.ofNat 8 (m / 256 ^ k))])
  else places.map fun p => (p, fullBytes (natLe (fmtWidth f / 8) bits))

/-- Stores one element whose scale has been read (R214): its memory change, or cause and trap value. -/
def State.writeScaled (s : State) (c : Cap) (f : BitVec 6) (sb ba q : Nat) (x : BitVec 32) (sc : Byte) :
    Except Bad Unit × State :=
  after (s.storePlaces c f ba q) fun places s =>
    (.ok (), (storeBytes f ba (narrow c f sb x sc) places).foldl (fun s (p, bs) => s.writePlace p bs) s)

/-- The scale of an element that is to be written; a poisoned one raises cause 26 (R214). -/
def State.writeScale (s : State) (c : Cap) (f : BitVec 6) (ba q i : Nat) : Except Bad Byte × State :=
  after (s.scaleFor c f ba q) fun (sc, sp) s => (if sp then .error (26, BitVec.ofNat 64 i) else .ok sc, s)

/-- Stores one element of the moving agent (R214): its memory change, or cause and trap value. The caller
has tested the element's own poison; its scale comes before its address. -/
def State.writeElem (s : State) (c : Cap) (f : BitVec 6) (sb ba q i : Nat) (x : BitVec 32) :
    Except Bad Unit × State :=
  after (s.writeScale c f ba q i) fun sc s => s.writeScaled c f sb ba q x sc

end Sys2Proof.Machine
end

