-- ==== Sys2Proof/Machine/Flags.lean ====
section
/-! DEFINITION. Mask bits and what governs elements: `m0` to `m7` and `mf` with their poison (R145, R147,
R148, R188, R369), and the poison skip of R375. -/

namespace Sys2Proof.Machine
open Sys2Proof

/-- The store key of a mask bit at a position of a cluster: register 8 is `mf` (R378). -/
def maskKey (h q m pos : Nat) : Nat := ((4 * q + ctxNo h) * 9 + m) * 2048 + pos

def View.maskKey (v : View) (m e : Nat) : Nat :=
  let (q, p) := if m = 8 then v.mfLoc e else v.maskLoc e
  Machine.maskKey v.hart q m p

/-- Bit e of a mask register, and its poison. -/
def State.maskBit (s : State) (v : View) (m e : Nat) : Bool × Bool :=
  (sparseGet false s.mbit (v.maskKey m e), sparseGet false s.mpois (v.maskKey m e))

def State.setMaskBit (s : State) (v : View) (m e : Nat) (b p : Bool) : State :=
  { s with mbit := sparsePut s.mbit (v.maskKey m e) b, mpois := sparsePut s.mpois (v.maskKey m e) p }

def State.setMaskBits (s : State) (v : View) (m : Nat) (l : List (Nat × Bool × Bool)) : State :=
  l.foldl (fun s (e, b, p) => s.setMaskBit v m e b p) s

/-- The store keys of `mf` that a view stands for: of a strip the bits of its slot (R369), else every bit the context's
clusters hold, those beyond VLMAX too (R145). -/
def View.mfKey (v : View) (key : Nat) : Bool :=
  key / 2048 % 9 == 8 && key / 18432 % 4 == ctxNo v.hart && v.all.contains (key / 73728) &&
  (v.order == v.all || (List.range v.vlmax).any fun e => v.maskKey 8 e == key)

/-- Whether any bit of `mf` is set. -/
def State.mfSet (s : State) (v : View) : Bool := s.mbit.any fun p => p.2 && v.mfKey p.1

/-- The bits of `mf` that the view's elements use and that are set. -/
def State.mfCount (s : State) (v : View) : Nat :=
  ((List.range v.vlmax).filter fun e => (s.maskBit v 8 e).1).length

def State.clearMf (s : State) (v : View) : State :=
  if s.mfSet v then
    { s with
      mbit := s.mbit.map fun p => if v.mfKey p.1 then (p.1, false) else p
      mpois := s.mpois.map fun p => if v.mfKey p.1 then (p.1, false) else p }
  else s

/-- The governing mask's bit for an element: set, or poisoned and so treated as set (R188). -/
def State.governs (s : State) (v : View) (mk e : Nat) : Bool :=
  mk = 0 || (let (b, p) := s.maskBit v mk e; b || p)

/-- Whether the governing bit of an element is poisoned. -/
def State.governPois (s : State) (v : View) (mk e : Nat) : Bool := mk ≠ 0 && (s.maskBit v mk e).2

/-- The active elements, ascending (R145). -/
def State.actives (s : State) (v : View) (mk : Nat) : List Nat :=
  let re := s.mfSet v
  (List.range v.vl).filter fun e => s.governs v mk e && (!re || (s.maskBit v 8 e).1)

/-- Whether the one-shot skip of R375 governs the instruction. -/
def Ctx.skips (c : Ctx) : Bool := c.mode = .user && c.spsn.getLsbD 0

/-- Adds elements counted as done to spsn.COUNT (R375). -/
def Ctx.countSkipped (c : Ctx) (n : Nat) : Ctx := { c with spsn := c.spsn + BitVec.ofNat 64 (n * 2 ^ 32) }

end Sys2Proof.Machine
end

