-- ==== Sys2Proof/Machine/Operands.lean ====
section
/-! DEFINITION. Operand forms of vector instructions: elements of register groups with their poison (R13,
R373), stream delivery and acceptance (R21, R227 to R233, R333), the checks and waits before an
instruction acts (R18, R136, R143, R161), and how it ends (R147, R148, R229, R375). -/

namespace Sys2Proof.Machine
open Sys2Proof

/-! Elements of vector registers. -/

/-- The key of the 32-bit slot that holds element e, and the element's bit offset in it. -/
def View.slotOf (v : View) (reg e : Nat) : Nat × Nat :=
  let (q, r, b) := v.loc e
  (((4 * q + ctxNo v.hart) * 32 + reg + r) * 128 + b / 4, 8 * (b % 4))

/-- Element e of the group at a vector register, and its poison. -/
def State.elem (s : State) (v : View) (reg e : Nat) : BitVec 32 × Bool :=
  let (k, sh) := v.slotOf reg e
  let w := sparseGet (0 : Slot) s.vreg k >>> sh
  (if v.sb = 2 then w &&& 0xFFFF else w, sparseGet false s.vpois k)

def State.putSlot (s : State) (v : View) (reg e : Nat) (x : BitVec 32) (p : Bool) : State :=
  let (k, sh) := v.slotOf reg e
  let old := sparseGet (0 : Slot) s.vreg k
  let new := if v.sb = 2 then (old &&& ~~~(0xFFFF#32 <<< sh)) ||| ((x &&& 0xFFFF) <<< sh) else x
  { s with vreg := sparsePut s.vreg k new, vpois := sparsePut s.vpois k p }

/-- Writes elements of a group in one instruction, with the poison rule of a shared slot (R373). -/
def State.putElems (s : State) (v : View) (reg : Nat) (l : List (Nat × BitVec 32 × Bool)) : State :=
  l.foldl (fun s (e, x, p) =>
    if v.sb = 2 then
      let other := l.find? (·.1 = (if e % 2 = 0 then e + 1 else e - 1))
      let p' := match other with
        | some (_, _, p2) => p || p2
        | none => p || (s.elem v reg e).2
      s.putSlot v reg e x p'
    else s.putSlot v reg e x p) s

/-! Streams. -/

def Stream.w1 (t : Stream) : Word := t.desc.getD 1 0
def Stream.fmt (t : Stream) : BitVec 6 := t.w1.extractLsb' 0 6
def Stream.isWrite (t : Stream) : Bool := t.w1.extractLsb' 6 2 = 1#2
def Stream.nt (t : Stream) : Bool := t.w1.getLsbD 13
def Stream.ft (t : Stream) : Bool := t.w1.getLsbD 14
def Stream.dims (t : Stream) : Nat := (t.w1.extractLsb' 11 2).toNat + 1
def Stream.sb (t : Stream) : Nat := if t.sew = 1#2 then 2 else 4
def Stream.groupSize (t : Stream) : Nat := 2 ^ t.lmul.toNat
def Stream.ext (t : Stream) (k : Nat) : Nat := ((t.desc.getD (2 + k / 2) 0).extractLsb' (32 * (k % 2)) 32).toNat
def Stream.stride (t : Stream) (k : Nat) : Int := (t.desc.getD (4 + k) 0).toInt
/-- L (R227). -/
def Stream.length (t : Stream) : Nat := (List.range t.dims).foldl (fun n k => n * t.ext k) 1
/-- The prefetch depth in use: 2 where no bank was claimed (R233). -/
def Stream.depth (t : Stream) : Nat :=
  let d := (t.w1.extractLsb' 8 3).toNat + 1
  if 2 < d ∧ t.banks.isEmpty then 2 else d

/-- The bit address of a position (R227). -/
def Stream.bitAddr (t : Stream) (pos : Nat) : Nat :=
  let (_, off) := (List.range t.dims).foldl (fun (n, (o : Int)) k => (n / t.ext k, o + (n % t.ext k : Nat) * t.stride k)) (pos, 0)
  ((8 * (t.desc.getD 0 0).toNat + off * fmtWidth t.fmt) % (2 ^ 67 : Nat)).toNat

/-- The position of element 0 of an instruction (R229, R230). -/
def Stream.start (t : Stream) (v : View) : Nat := if t.inLoop then t.loopPos + v.base else t.pos

/-- The bound stream whose register group meets the group of an operand (R228). -/
def Ctx.streamOf (c : Ctx) (lmul reg : Nat) : Option (Nat × Stream) :=
  ((List.range 16).zip c.streams.toList).find? fun (_, t) =>
    t.bound && t.reg.toNat < reg + lmul && reg < t.reg.toNat + t.groupSize

def Ctx.stream (c : Ctx) (n : Nat) : Stream := c.streams.toArray.getD n {}
def Ctx.setStream (c : Ctx) (n : Nat) (t : Stream) : Ctx := { c with streams := c.streams.setIfInBounds n t }
def State.modStream (s : State) (h n : Nat) (f : Stream → Stream) : State :=
  s.modCtx h fun c => c.setStream n (f (c.stream n))

/-- The spliced unit of a context and its passed tensor (R331, R333). -/
def State.splice (s : State) (h : Nat) : Splice :=
  sparseGet { c := 0, count := 0, fifos := [], pAt := 0, cAt := 0 } s.splices (s.holder h)
def noFifo : Fifo := { pSc := 0, cSc := 0, fmt := 0, teed := false, banks := [], slots := [] }
def State.fifo (s : State) (h k : Nat) : Fifo := (s.splice h).fifos.getD k noFifo
def State.modFifo (s : State) (h k : Nat) (f : Fifo → Fifo) : State :=
  let sp := s.splice h
  { s with splices := sparsePut s.splices (s.holder h) { sp with fifos := sp.fifos.modify k f } }

/-- Whether a write stream's elements also go to memory: an ordinary or a teed one (R333). -/
def State.toMemory (s : State) (h : Nat) (t : Stream) : Bool :=
  match t.fifo with
  | some k => (s.fifo h k).teed
  | none => true

/-- An element fault with what its report says (R366). -/
structure Ef where
  cause : Nat
  tv : Word
  info : FaultInfo

/-- An element as read or computed. -/
abbrev Elem := Except Ef (BitVec 32 × Bool)

def streamInfo (t : Stream) (v : View) : FaultInfo :=
  { count := 0, kind := 3, wr := t.isWrite, width := fmtWidth t.fmt, base := bitVa (t.bitAddr (t.start v)), stride := 0 }

/-- sfbase of an address: the underlying one where a bound window leads there (R366). -/
def Ctx.under (c : Ctx) (va : Word) : Word :=
  let w := c.win (va.extractLsb' 40 4).toNat
  if isAperture va ∧ w.bound then w.base + BitVec.ofNat 64 (va.extractLsb' 0 40).toNat else va

/-- The page of an element at a bit address, below its window. -/
def State.elemPage (s : State) (ba : Nat) : List Nat := [((s.ctx s.hart).under (BitVec.ofNat 64 (ba / 8))).toNat / 65536]

/-- An element's fault. `info.pages` names the pages of the element where the cause carries no address, and those of a grid
access's corners (R367, R462). -/
def State.ef (s : State) (info : FaultInfo) (b : Bad) : Ef :=
  let own : List Nat := if b.1 ∈ [4, 5, 6, 7, 24, 25] then [b.2.toNat / 65536] else []
  { cause := b.1, tv := b.2
    info := { info with
      base := if info.kind = 4 then info.base else (s.ctx s.hart).under info.base
      pages := if b.1 = 26 ∨ info.kind = 4 then info.pages ++ own else own } }

/-- One element of a delivery (R213, R229, R231, R333), read as user (R361). -/
def State.deliver (s : State) (t : Stream) (v : View) (e : Nat) : Elem × State :=
  let c := s.ctx v.hart
  let cap := t.cap c
  let pos := t.start v + e
  let q := (v.loc e).1
  let ba := t.bitAddr pos
  let (r, s) : Except Bad (BitVec 32 × Bool) × State := asUser (fun s =>
    match t.fifo.bind fun k => ((s.fifo v.hart k).slots.find? (·.1 = pos)) with
    | some (_, bits, p, true) => (.ok (widen cap t.fmt t.sb (memXv t.fmt bits.toNat) 0x38, p), s)
    | _ =>
      match t.fetched.find? (·.pos = pos) with
      | some f => s.widenRaw cap t.fmt t.sb ba q f.raw f.pois
      | none => s.readElem cap t.fmt t.sb ba q t.nt) s
  (match r with
    | .ok x => .ok x
    | .error b => .error (s.ef (streamInfo t v) (if b.1 = 26 then (26, BitVec.ofNat 64 e) else b)), s)

/-! What an instruction asks of its vector operands. -/

/-- A vector register read by elements: `needs` gives the elements read, from `vl` and the active ones. -/
structure Use where
  reg : Nat
  trap : Bool
  needs : Nat → List Nat → List Nat

/-- Each active element reads the element that `at'` names (R136). -/
def useEach (reg : Nat) (trap : Bool) (at' : Nat → Nat) : Use :=
  { reg := reg, trap := trap, needs := fun _ acts => (acts.map at').eraseDups }
/-- Element 0 is read unless `vl` is 0. -/
def useFirst (reg : Nat) (trap : Bool) : Use :=
  { reg := reg, trap := trap, needs := fun vl _ => if vl = 0 then [] else [0] }

/-- The operands as an instruction has read them. -/
structure VIn where
  v : View
  acts : List Nat
  reissue : Bool
  got : List (Nat × Sparse Elem)

/-- What the checks and waits of an instruction need to know. -/
structure VForm where
  len : Nat
  bits : Word
  /-- The governing mask (R134). -/
  gm : Nat
  uses : List Use
  /-- The destination written by elements. -/
  dst : Option Nat
  /-- Registers whose binding to any stream raises cause 29. -/
  noStream : List Nat
  /-- A destination bound to a read stream raises cause 29 (R215). -/
  load : Bool
  /-- Register groups that must be multiples of LMUL (R138). -/
  align : List Nat
  /-- Elements it touches beside those it computes (R18). -/
  extra : State → VIn → List Nat

def noExtra (_ : State) (_ : VIn) : List Nat := []

/-- An instruction whose first execution writes every bit below VLMAX of its destination mask (R219, R250, R311). -/
def everyBit (_ : State) (x : VIn) : List Nat := if x.reissue then [] else List.range x.v.vlmax

/-- An element of a source. -/
def VIn.get (x : VIn) (s : State) (reg e : Nat) : Elem :=
  match x.got.find? (·.1 = reg) with
  | some (_, d) => sparseGet (.ok (0, false)) d e
  | none => .ok (s.elem x.v reg e)

/-- The full/empty trap: EVENT 5 where that event is enabled, once for the waiting instruction (R136,
R315). The event's TAG is not stated and so is free. -/
def State.fullEmpty (s : State) : State :=
  let h := s.hart
  let c := s.ctx h
  if c.uimask.getLsbD 5 then
    if c.events.any (·.event = 5) ∨ 16 ≤ c.events.length then s
    else
      let (r, s) := s.drawNat
      s.modCtx h fun c => { c with events := c.events ++ [{ event := 5, tag := r % 2 ^ 24 }] }
  else s.trap 27 0

/-- The strip that moves, 16 outside a `.ind` strip. -/
def State.stripSlot (s : State) : Nat :=
  match s.who with
  | .ind _ slot => slot
  | _ => 16

/-- The load, if any, that a register group waits for (R146, R215): a strip's own, or one from outside the strips. -/
def Ctx.loadOf (c : Ctx) (slot lmul reg : Nat) : Option Loading :=
  c.loading.find? fun l => (l.slot = slot || l.slot = 16 || slot = 16) && l.reg < reg + lmul && reg < l.reg + l.size

/-- What finds a register group empty while its load has not delivered: a wait, or a trap under the `!` mark. -/
inductive Await where
  | ready
  | trap
  | wait (ppc : Word)
  deriving DecidableEq, Repr

/-- Waits for the loads of some register groups, each with its `!` mark (R136, R146, R215). When a load delivers is
free (log 88). -/
def awaitLoads (h lmul : Nat) : List (Nat × Bool) → State → Await × State
  | [], s => (.ready, s)
  | (r, marked) :: t, s =>
    match (s.ctx h).loadOf s.stripSlot lmul r with
    | none => awaitLoads h lmul t s
    | some l =>
      let (k, s) := s.drawNat
      if k % 2 = 1 then (if marked then .trap else .wait l.ppc, s)
      else awaitLoads h lmul t (s.modCtx h fun c => { c with loading := c.loading.filter (· ≠ l) })

/-- Runs k once the loads of some register groups have delivered. A load delivers its group whole, so that until then its element
lag is that of the elements needed (R459). -/
def whenLoaded (h lmul : Nat) (regs : List (Nat × Bool)) (lag : Nat) (s : State) (k : State → State) : State :=
  match awaitLoads h lmul regs s with
  | (.ready, s) => k s
  | (.trap, s) => s.fullEmpty
  | (.wait ppc, s) => s.stallFor 1 ppc lag

/-- A load's register group is empty from its issue until it delivers (R215). -/
def State.issueLoad (s : State) (h lmul reg : Nat) (ppc : Word) : State :=
  s.modCtx h fun c => { c with loading := c.loading ++ [{ reg := reg, size := lmul, ppc := ppc, slot := s.stripSlot }] }

/-- Whether a micro-thread at an element runs (R18). -/
def State.mtRuns (s : State) (v : View) (e : Nat) : Bool :=
  let (q, _, b) := v.loc e
  (sparseGet {} s.mts ((4 * q + ctxNo v.hart) * 128 + b / 4)).state = .running

/-- Whether an instruction touches an element whose micro-thread runs. -/
def State.touchesBusy (s : State) (v : View) (f : VForm) (x : VIn) (e : Nat) : Bool :=
  s.mtRuns v e &&
  ((f.extra s x).contains e ||
    (if e < v.vl then f.gm ≠ 0 || v.vty.getLsbD 5 || x.acts.contains e else v.vty.getLsbD 4 && !x.reissue))

/-- The lowest touched element of a running micro-thread. -/
def State.busyElem (s : State) (v : View) (f : VForm) (x : VIn) : Option Nat :=
  if !s.mts.any fun p => p.2.state = .running && p.1 / 128 % 4 == ctxNo v.hart then none
  else (List.range v.vlmax).find? (s.touchesBusy v f x)

def State.mtAt (s : State) (v : View) (e : Nat) : Mt :=
  let (q, _, b) := v.loc e
  sparseGet {} s.mts ((4 * q + ctxNo v.hart) * 128 + b / 4)

/-- The stream operands of an instruction, each once. -/
def streamsOf (c : Ctx) (lmul : Nat) (regs : List Nat) : List (Nat × Nat × Stream) :=
  (regs.eraseDups).filterMap fun r => (c.streamOf lmul r).map fun (n, t) => (r, n, t)

/-- The elements a write stream may still accept (R232). -/
def State.roomFor (s : State) (h : Nat) (t : Stream) (vl : Nat) : Bool :=
  t.accepted.length + vl ≤ t.depth * ((s.order h).length * 512 * t.groupSize / t.sb)

/-- The elements of a FIFO read whose positions are neither written nor marked (R333). -/
def State.fifoLacks (s : State) (h : Nat) (t : Stream) (v : View) : List Nat :=
  match t.fifo with
  | some k => (List.range v.vl).filter fun e => !(s.fifo h k).slots.any (·.1 = t.start v + e)
  | none => []

/-- The positions of a FIFO a read takes are all written or marked (R333). -/
def State.fifoReady (s : State) (h : Nat) (t : Stream) (v : View) : Bool := (s.fifoLacks h t v).isEmpty

/-- A wait for a rebound read stream: its producer is P's writing instruction (R459). -/
def State.stallFifo (s : State) (h : Nat) (t : Stream) (v : View) : State :=
  let l := s.fifoLacks h t v
  s.stallFor 2 (((t.fifo.map (s.fifo h)).getD noFifo).ppc) (v.lag l (l.headD 0))

/-- A wait for room in a write stream. -/
def State.stallFull (s : State) (h : Nat) (t : Stream) (v : View) : State :=
  let room := t.depth * ((s.order h).length * 512 * t.groupSize / t.sb) - t.accepted.length
  s.stallFor 3 t.ppc (v.lag ((List.range v.vl).filter (room ≤ ·)) room)

/-- Draws free values for a register bound to a write stream: its elements are not architectural (R21). -/
def drawElems (s : State) : List Nat → Sparse Elem → Sparse Elem × State
  | [], m => (m, s)
  | e :: t, m => let (r, s) := s.draw; drawElems s t (sparsePut m e (.ok (r.setWidth 32, false)))

def deliverAll (t : Stream) (v : View) (s : State) : List Nat → Sparse Elem → Sparse Elem × State
  | [], m => (m, s)
  | e :: r, m => let (x, s) := s.deliver t v e; deliverAll t v s r (sparsePut m e x)

/-- Takes the deliveries of an instruction's stream sources. -/
def takeAll (f : VForm) (v : View) (acts : List Nat) (s : State) :
    List (Nat × Nat × Stream) → List (Nat × Sparse Elem) → List (Nat × Sparse Elem) × State
  | [], g => (g, s)
  | (r, _, t) :: l, g =>
    let needs := ((f.uses.filter (·.reg = r)).flatMap (·.needs v.vl acts)).eraseDups
    let (m, s) := if t.isWrite then drawElems s needs [] else deliverAll t v s needs []
    takeAll f v acts s l ((r, m) :: g)

/-- The precise stream fault of an instruction (R187, R202, R215, R228, R229, R232): its trap value. -/
def streamCheck (c : Ctx) (f : VForm) (v : View) (srcs dsts : List (Nat × Nat × Stream)) : Option Word :=
  let clash (t : Stream) : Bool := t.sb ≠ v.sb || t.groupSize ≠ v.lmul
  if f.noStream.any fun r => (c.streamOf v.lmul r).isSome then some 0
  else if (srcs ++ dsts).any fun (_, _, t) => clash t then some 0
  else if f.load && dsts.any fun (_, _, t) => !t.isWrite then some 0
  else
    match (srcs.filter fun (_, _, t) => !t.isWrite).find? fun (_, _, t) => t.length < t.start v + v.vl with
    | some (_, _, t) => some (BitVec.ofNat 64 t.length)
    | none =>
      match dsts.find? fun (_, _, t) => t.isWrite && t.kept.isSome with
      | some (_, _, t) => some (t.kept.getD 0)
      | none =>
        match dsts.find? fun (_, _, t) => t.isWrite && t.length < t.start v + v.vl with
        | some (_, _, t) => some (BitVec.ofNat 64 t.length)
        | none => none

/-- Decoding checks that the state decides (R138, R161): illegal before any other condition (R143). -/
def whenLegal (f : VForm) (s : State) (k : State → State) : State :=
  let v := s.view
  if vtyVill v.vty ∨ f.align.any (· % v.lmul ≠ 0) then s.illegal f.bits else k s

/-- The checks and waits before a vector instruction acts, in the order of R143, and the reading of its
operands; then `k`. -/
def vprep (f : VForm) (s : State) (k : VIn → State → State) : State :=
  let v := s.view
  let c := s.ctx v.hart
  if vtyVill v.vty ∨ f.align.any (· % v.lmul ≠ 0) then s.illegal f.bits
  else
    let srcs := streamsOf c v.lmul (f.uses.map (·.reg))
    let dsts := streamsOf c v.lmul f.dst.toList
    match streamCheck c f v srcs dsts with
    | some tv => s.trap 29 tv
    | none =>
      let acts := s.actives v f.gm
      let x : VIn := { v := v, acts := acts, reissue := s.mfSet v, got := [] }
      match s.busyElem v f x with
      | some e => s.stallFor 6 (s.mtAt v e).ppc (v.lag ((List.range v.vlmax).filter (s.touchesBusy v f x)) e)
      | none =>
        let traps (r : Nat) : Bool := f.uses.any fun u => u.reg = r && u.trap
        match srcs.find? fun (_, _, t) => !t.isWrite && !s.fifoReady v.hart t v with
        | some (r, _, t) => if traps r then s.fullEmpty else s.stallFifo v.hart t v
        | none => whenLoaded v.hart v.lmul ((f.uses.map fun u => (u.reg, u.trap)) ++ (f.dst.toList ++ f.noStream).map (·, false)) (v.lag acts 0) s fun s =>
          let missing (t : Stream) (r : Nat) : Bool :=
            !t.isWrite && t.fifo.isNone &&
            ((f.uses.filter (·.reg = r)).flatMap (·.needs v.vl acts)).any fun e => !t.fetched.any (·.pos = t.start v + e)
          if srcs.any fun (r, _, t) => traps r && missing t r then s.fullEmpty
          else
            match dsts.find? fun (_, _, t) => t.isWrite && s.toMemory v.hart t && !s.roomFor v.hart t v.vl with
            | some (_, _, t) => if t.ft then s.fullEmpty else s.stallFull v.hart t v
            | none =>
              let (got, s) := takeAll f v acts s srcs []
              k { x with got := got } s

/-! How an instruction ends. -/

/-- Moves a stream past the instruction's positions (R229): in a loop the loop moves it (R230). -/
def State.advance (s : State) (v : View) (n : Nat) : State :=
  let t := (s.ctx v.hart).stream n
  let p := t.start v
  let gone (pos : Nat) : Bool := p ≤ pos && pos < p + v.vl
  let s := s.modStream v.hart n fun t =>
    { t with
      pos := if t.inLoop then t.pos else p + v.vl
      fetched := t.fetched.filter fun f => !gone f.pos }
  match t.fifo with
  | some k => if t.isWrite then s else s.modFifo v.hart k fun f => { f with slots := f.slots.filter fun e => !gone e.1 }
  | none => s

/-- Accepts one element for memory: its scale is read now (R56, R229). -/
def State.acceptOne (s : State) (v : View) (n e : Nat) (x : BitVec 32) : State :=
  let t := (s.ctx v.hart).stream n
  let pos := t.start v + e
  let (r, s) := s.writeScale (t.cap (s.ctx v.hart)) t.fmt (t.bitAddr pos) (v.loc e).1 e
  s.modStream v.hart n fun t => { t with
    accepted := t.accepted ++ [{ pos := pos, clus := (v.loc e).1, lane := x, scale := match r with | .ok b => b | .error _ => 0x38 }] }

/-- A write stream accepts elements (R229, R232, R333); poisoned ones, which a FIFO carries, do not count for `amax`
(R58). A FIFO gets a mark for each position that is not written and holds nothing yet. -/
def State.accept (s : State) (v : View) (n : Nat) (l : List (Nat × BitVec 32 × Bool)) : State :=
  let h := v.hart
  let t := (s.ctx h).stream n
  let cap := t.cap (s.ctx h)
  let p := t.start v
  let s := s.modCtx h fun c => l.foldl (fun c (_, x, po) => if po then c else noteAmax c t.fmt t.sb x) c
  let s := if s.toMemory h t then l.foldl (fun s (e, x, _) => s.acceptOne v n e x) s else s
  match t.fifo with
  | some k => s.modFifo h k fun f =>
      let marked := (List.range v.vl).foldl (fun m e =>
        if m.any (·.1 = p + e) then m else sparsePut m (p + e) (0, false, false)) f.slots
      { f with ppc := s.pc, slots := l.foldl (fun m (e, x, po) =>
          sparsePut m (p + e) (BitVec.ofNat 32 (narrow cap t.fmt t.sb x 0x38), po, true)) marked }
  | none => s

/-- The mask and tail policy of R147 on a first execution: the elements it zeroes. -/
def VIn.zeroed (x : VIn) : List Nat :=
  if x.reissue then []
  else
    (if x.v.vty.getLsbD 5 then (List.range x.v.vl).filter fun e => !x.acts.contains e else []) ++
    (if x.v.vty.getLsbD 4 then (List.range (x.v.vlmax - x.v.vl)).map (· + x.v.vl) else [])

/-- The bits of `mf` after an instruction: its faulted elements, and on a reissue with faults those it
did not reach (R148). -/
def State.settleMf (s : State) (x : VIn) (bad done : List Nat) : State :=
  if bad.isEmpty then s.clearMf x.v
  else
    let s := if x.reissue then done.foldl (fun s e => s.setMaskBit x.v 8 e false false) s else s
    bad.foldl (fun s e => s.setMaskBit x.v 8 e true false) s

/-- The streams an instruction takes from and pushes to. -/
def movedStreams (c : Ctx) (f : VForm) (lmul : Nat) : List Nat :=
  ((streamsOf c lmul (f.uses.map (·.reg))).filterMap fun (_, n, t) => if t.isWrite then none else some n) ++
  ((streamsOf c lmul f.dst.toList).filterMap fun (_, n, t) => if t.isWrite then some n else none)

/-- Ends an instruction: with its lowest faulted element's fault, or complete. -/
def State.finish (s : State) (f : VForm) (x : VIn) (bad : List (Nat × Ef)) : State :=
  match bad with
  | [] => ((movedStreams (s.ctx x.v.hart) f x.v.lmul).eraseDups.foldl (fun s n => s.advance x.v n) s).retire f.len
  | (_, e) :: _ => s.trapWith e.cause e.tv (some { e.info with
      count := s.mfCount x.v, pages := (bad.flatMap (·.2.info.pages)).eraseDups })

/-- Sorts out an instruction's elements: those done, those that PSKIP counts as done, and the faulted. -/
def splitElems {α : Type} (skip : Bool) (l : List (Nat × Except Ef α)) :
    List (Nat × α) × List (Nat × Ef) × List (Nat × Ef) :=
  (l.filterMap fun (e, r) => match r with | .ok y => some (e, y) | .error _ => none,
   l.filterMap fun (e, r) => match r with | .error b => if skip ∧ b.cause = 26 then some (e, b) else none | .ok _ => none,
   l.filterMap fun (e, r) => match r with | .error b => if skip ∧ b.cause = 26 then none else some (e, b) | .ok _ => none)

/-- `vl` of an execution as a report gives it: the strip size in a `.ind` loop (R366). -/
def State.stripSize (s : State) (v : View) : Nat :=
  match s.who with
  | .ind h slot => ((stripOf (s.ctx h) slot).map (·.size)).getD v.vl
  | _ => v.vl

/-- What the one-shot skip leaves of elements it counts as done (R366, R375). -/
def State.noteSkipped (s : State) (x : VIn) (sk : List (Nat × Ef)) : State :=
  match sk with
  | [] => s
  | (_, b) :: _ => s.modCtx x.v.hart fun c =>
      reportFault (c.countSkipped sk.length) (s.stripSize x.v) (some { b.info with count := 0, pages := [] })

/-- The write stream a destination is bound to. -/
def writeStream (c : Ctx) (f : VForm) (lmul : Nat) : Option (Nat × Stream) :=
  (f.dst.bind fun d => c.streamOf lmul d).bind fun (n, t) => if t.isWrite then some (n, t) else none

/-- One element for a stream that writes memory: poison stops there, and so does a scale that cannot be read or is
poisoned (R54, R56, R214, R229). -/
def checkAccept (t : Stream) (v : View) (e : Nat) (r : Elem) (s : State) : Elem × State :=
  let info := { streamInfo t v with pages := s.elemPage (t.bitAddr (t.start v + e)) }
  match r with
  | .ok (_, true) => (.error (s.ef info (26, BitVec.ofNat 64 e)), s)
  | .ok y =>
    match s.writeScale (t.cap (s.ctx v.hart)) t.fmt (t.bitAddr (t.start v + e)) (v.loc e).1 e with
    | (.ok _, s) => (.ok y, s)
    | (.error b, s) => (.error (s.ef info b), s)
  | r => (r, s)

def checkAccepts (t : Stream) (v : View) : List (Nat × Elem) → State → List (Nat × Elem) × State
  | [], s => ([], s)
  | (e, r) :: l, s =>
    let (r, s) := checkAccept t v e r s
    let (l, s) := checkAccepts t v l s
    ((e, r) :: l, s)

/-- What a destination stream takes of computed elements (R229); a FIFO carries poison (R333). -/
def stopPoison (s : State) (f : VForm) (x : VIn) (res : List (Nat × Elem)) : List (Nat × Elem) × State :=
  match writeStream (s.ctx x.v.hart) f x.v.lmul with
  | some (_, t) => if s.toMemory x.v.hart t then checkAccepts t x.v res s else (res, s)
  | none => (res, s)

/-- Writes computed elements to the destination, with the elements a policy zeroes, and sets `ldst`
(R131, R147, R148). A register bound to a read stream keeps nothing of a write (R21). -/
def State.putDest (s : State) (f : VForm) (x : VIn) (last : Bool) (ok : List (Nat × BitVec 32 × Bool)) (zero : List Nat) : State :=
  match f.dst with
  | none => s
  | some d =>
    let c := s.ctx x.v.hart
    let s := match writeStream c f x.v.lmul with
      | some (n, _) => s.accept x.v n ok
      | none => if (c.streamOf x.v.lmul d).isSome then s else s.putElems x.v d (ok ++ zero.map fun e => (e, 0, false))
    if last then s.modCtx x.v.hart fun c => { c with ldst := BitVec.ofNat 5 d } else s

/-- Commits the elements an instruction computed for a vector destination, or none. -/
def vcommit (f : VForm) (x : VIn) (setsLast : Bool) (res : List (Nat × Elem)) (s : State) : State :=
  let (res, s) := stopPoison s f x res
  let (ok, sk, bad) := splitElems (s.ctx x.v.hart).skips res
  let s := s.putDest f x (setsLast && (!ok.isEmpty || bad.isEmpty)) ok x.zeroed
  let s := s.settleMf x (bad.map (·.1)) ((ok.map (·.1)) ++ sk.map (·.1))
  (s.noteSkipped x sk).finish f x bad

/-- Commits a load (R215): where no element faults, its destination register is empty until it delivers. -/
def loadCommit (f : VForm) (x : VIn) (res : List (Nat × Elem)) (s : State) : State :=
  let c := s.ctx x.v.hart
  let plain (d : Nat) : Bool := (c.streamOf x.v.lmul d).isNone && (splitElems c.skips res).2.2.isEmpty
  vcommit f x true res ((f.dst.toList.filter plain).foldl (fun s d => s.issueLoad x.v.hart x.v.lmul d s.pc) s)

/-- Commits the bits an instruction computed for a mask destination. -/
def mcommit (f : VForm) (x : VIn) (m : Nat) (res : List (Nat × Except Ef (Bool × Bool))) (s : State) : State :=
  let c := s.ctx x.v.hart
  let (ok, sk, bad) := splitElems c.skips res
  let s := s.setMaskBits x.v m (ok ++ x.zeroed.map fun e => (e, false, false))
  let s := s.settleMf x (bad.map (·.1)) ((ok.map (·.1)) ++ sk.map (·.1))
  (s.noteSkipped x sk).finish f x bad

/-- A vector instruction of the CT or of a strip. -/
def vectorStep (f : VForm) (s : State) (k : VIn → State → State) : Out := ctStep s f.bits fun s => vprep f s k

end Sys2Proof.Machine
end

