-- ==== Sys2Proof/Machine/Lanes.lean ====
section
/-! DEFINITION. Element-by-element vector instructions over T48 and K16 operands (R110, R132, R136, R146):
the operand kinds, DZ and FZ (R47), and one shape for every group that computes element i from element
i of its sources. -/

namespace Sys2Proof.Machine
open Sys2Proof

def t48Bits (c : BitVec 6 × BitVec 6) (o : T48) : Word := (encT48 c o).setWidth 64

/-- The element a replicated source b is read from (R136). -/
def repIndex (rep : BitVec 2) (i : Nat) : Nat :=
  match rep.toNat with
  | 0 => i
  | 1 => 0
  | 2 => i % 4
  | _ => i % 16

def useA (o : T48) : Use := useEach o.a.toNat o.fa id
def useB (o : T48) : Use := useEach o.b.toNat o.fb (repIndex o.rep)
def useD (o : T48) : Use := useEach o.d.toNat false id

/-- The rounding mode of an instruction (R43, R145). -/
def State.mode (s : State) (rm : BitVec 3) : BitVec 3 :=
  if rm = 0#3 then (s.ctx s.hart).vrm.extractLsb' 0 3 else rm

/-! DZ and FZ (R47). -/

def subnormal (p : Fp) (bits : Nat) : Bool :=
  let m := bits % p.signBit
  m ≠ 0 && m < 2 ^ p.mb

def flush (on : Bool) (p : Fp) (bits : Nat) : Nat :=
  if on && subnormal p bits then bits / p.signBit % 2 * p.signBit else bits

def vtyDz (vty : Word) : Bool := vty.getLsbD 7
def vtyFz (vty : Word) : Bool := vty.getLsbD 6

/-- A floating element as a source of a group under R47. -/
def View.fin (v : View) (x : BitVec 32) : Nat := flush (vtyDz v.vty) (laneFp v.sb) x.toNat
def View.xv (v : View) (x : BitVec 32) : Xv := (laneFp v.sb).decode (v.fin x)
/-- A floating result, rounded once, as a result of a group under R47. -/
def View.fout (v : View) (rm : BitVec 3) (r : Xv) : BitVec 32 :=
  BitVec.ofNat 32 (flush (vtyFz v.vty) (laneFp v.sb) ((laneFp v.sb).lane rm r))

/-- The low SEW bits of a scalar as a lane value (R146). -/
def View.scalar (v : View) (w : Word) : BitVec 32 :=
  if v.sb = 2 then (w.setWidth 16).setWidth 32 else w.setWidth 32
/-- imm5, sign-extended to SEW, or zero-extended for a shift amount (R113). -/
def View.imm (v : View) (shift : Bool) (b : Reg) : BitVec 32 :=
  if shift then b.setWidth 32 else v.scalar (b.signExtend 64)

/-- Source b of element e for each kind (R146). -/
def bElem (o : T48) (shift : Bool) (x : VIn) (s : State) (e : Nat) : Elem :=
  match o.kind with
  | 0 => x.get s o.b.toNat (repIndex o.rep e)
  | 1 => .ok (x.v.scalar (s.rx o.b), false)
  | _ => .ok (x.v.imm shift o.b, false)

/-- Combines sources: a fault of an earlier one first, poison from any. -/
def map1 (a : Elem) (f : BitVec 32 → BitVec 32) : Elem := a.map fun (x, p) => (f x, p)
def map2 (a b : Elem) (f : BitVec 32 → BitVec 32 → BitVec 32) : Elem :=
  match a, b with
  | .ok (x, p), .ok (y, q) => .ok (f x y, p || q)
  | .error e, _ => .error e
  | _, .error e => .error e

/-- Poison of the governing bit reaches the result (R188). -/
def VIn.taint (x : VIn) (s : State) (gm e : Nat) (r : Elem) : Elem :=
  r.map fun (y, p) => (y, p || s.governPois x.v gm e)

/-- The form of a T48 instruction that writes a vector register element by element. -/
def vform (c : BitVec 6 × BitVec 6) (o : T48) (uses : List Use) (dread : Bool) : VForm :=
  { len := 6, bits := t48Bits c o, gm := o.gm.toNat, uses := uses, dst := some o.d.toNat
    noStream := if dread then [o.d.toNat] else [], load := false
    align := o.d.toNat :: uses.map (·.reg), extra := noExtra }

/-- Whether a replicated source b is the destination itself: an element then reads what earlier ones have written. -/
def readsOwn (o : T48) (x : VIn) (s : State) : Bool :=
  o.kind = 0 && o.rep ≠ 0 && o.b = o.d && ((s.ctx x.v.hart).streamOf x.v.lmul o.d.toNat).isNone

/-- The results of the active elements, ascending (R144). DEDUCED (log 107): each reads its sources before it is written, and
after the elements before it have been (R147). -/
def inTurn (own : Bool) (d : Nat) (x : VIn) (f : State → Nat → Elem) (s : State) : List (Nat × Elem) :=
  if own then
    (x.acts.foldl (fun ((l, t) : List (Nat × Elem) × State) e =>
      let r := f t e
      (l ++ [(e, r)], match r with
        | .ok (y, p) => t.putElems x.v d [(e, y, p)]
        | .error _ => t)) ([], s)).1
  else x.acts.map fun e => (e, f s e)

/-- d ← f d a b for each active element. `two` says that the instruction has a source b. -/
def laneOp (c : BitVec 6 × BitVec 6) (o : T48) (two dread shift : Bool)
    (f : View → BitVec 3 → BitVec 32 → BitVec 32 → BitVec 32 → BitVec 32) (s : State) : Out :=
  let uses := useA o :: (if two && o.kind = 0 then [useB o] else [])
  let form := vform c o uses dread
  vectorStep form s fun x s =>
    let rm := s.mode o.rm
    vcommit form x true (inTurn (two && readsOwn o x s) o.d.toNat x (fun s e =>
      let a := x.get s o.a.toNat e
      let b : Elem := if two then bElem o shift x s e else .ok (0, false)
      let d : Elem := if dread then .ok (s.elem x.v o.d.toNat e) else .ok (0, false)
      let ab := map2 a b fun _ y => y
      let r := map2 d ab fun _ y => y
      let av := match a with | .ok (y, _) => y | .error _ => 0
      let dv := match d with | .ok (y, _) => y | .error _ => 0
      let pa := match a with | .ok (_, p) => p | .error _ => false
      x.taint s form.gm e (r.map fun (bv, p) => (f x.v rm dv av bv, p || pa))) s) s

/-- A compare: bit e of mask d ← f a b (R196). -/
def maskOp (c : BitVec 6 × BitVec 6) (o : T48) (f : View → BitVec 32 → BitVec 32 → Bool) (s : State) : Out :=
  let uses := useA o :: (if o.kind = 0 then [useB o] else [])
  let form : VForm :=
    { len := 6, bits := t48Bits c o, gm := o.gm.toNat, uses := uses, dst := none, noStream := []
      load := false, align := uses.map (·.reg), extra := noExtra }
  vectorStep form s fun x s =>
    mcommit form x o.d.toNat (x.acts.map fun e =>
      (e, (x.taint s form.gm e (map2 (x.get s o.a.toNat e) (bElem o false x s e) fun a b =>
        if f x.v a b then 1 else 0)).map fun (y, p) => (y == 1, p))) s

/-! K16 (R129 to R133, R170). -/

/-- The form of a K16 instruction on vLAST: unmasked, no marks. -/
def k16Form (bits : Word) (last : Nat) (srcs : List Nat) : VForm :=
  { len := 2, bits := bits, gm := 0, uses := srcs.map fun r => useEach r false id
    dst := some last, noStream := [last], load := false, align := last :: srcs, extra := noExtra }

/-- vLAST ← f vLAST vS for each active element. -/
def lastOp (bits : Word) (srcs : List Nat)
    (f : View → BitVec 3 → BitVec 32 → BitVec 32 → BitVec 32 → BitVec 32) (s : State) : Out :=
  let last := s.vlast.toNat
  let form := k16Form bits last srcs
  vectorStep form s fun x s =>
    let rm := s.mode 0#3
    vcommit form x false (x.acts.map fun e =>
      let (l, p) := s.elem x.v last e
      let src (k : Nat) : Elem := match srcs[k]? with | some r => x.get s r e | none => .ok (0, false)
      let a := src 0
      let b := src 1
      let av := match a with | .ok (y, _) => y | .error _ => 0
      let pa := match a with | .ok (_, q) => q | .error _ => false
      (e, (map2 a b fun _ y => y).map fun (bv, q) => (f x.v rm l av bv, p || q || pa))) s

end Sys2Proof.Machine
end

