-- ==== Sys2Proof/Machine/Partition.lean ====
section
/-! DEFINITION. The lane partition (R8 to R12, R168): what a strip boundary or a `vsetl` detaches and
attaches, the changes sent to a core's partition unit, and the heir transfer of R11. -/

namespace Sys2Proof.Machine
open Sys2Proof

def allOnes : Word := 0xFFFFFFFFFFFFFFFF

/-- The contexts that share the clusters of a context: itself, and the C-context of its splice (R331). -/
def State.partners (s : State) (a : Nat) : List Nat :=
  match s.splices.find? (·.1 = a) with
  | some (_, sp) => [a, sp.c]
  | none => [a]

/-- The micro-threads of a context in a cluster (R18). -/
def State.threadsIn (s : State) (h q : Nat) : List Mt :=
  (s.mts.filter fun p => p.1 / 128 = 4 * q + ctxNo h).map (·.2)

/-- The first running micro-thread of a context. -/
def State.runningThread (s : State) (h : Nat) : Option Mt :=
  (s.mts.find? fun p => p.2.state = .running && p.1 / 128 % 4 == ctxNo h && (s.order h).contains (p.1 / 512)).map (·.2)

/-- The element lag of a wait for every running micro-thread of a context (R459): over its clusters the greatest number that runs
first there, less the least. -/
def State.runningLag (s : State) (h : Nat) : Nat :=
  let ord := s.order h
  let first := ((List.range ord.length).zip ord).filterMap fun (j, q) =>
    ((List.range 128).find? fun i => (sparseGet {} s.mts ((4 * q + ctxNo h) * 128 + i)).state = .running).map (128 * j + ·)
  first.foldl Nat.max 0 - first.headD 0

/-- A wait for a running micro-thread of the context. -/
def State.stallThreads (s : State) (h : Nat) (m : Mt) : State := s.stallFor 6 m.ppc (s.runningLag h)

/-- A cluster stays while it holds a running or faulted micro-thread (R250) or runs a strip (R10). -/
def State.keepsCluster (s : State) (a q : Nat) : Bool :=
  (s.partners a).any fun h =>
    (s.threadsIn h q).any (·.state ≠ .stopped) ||
    ((s.ctx h).loop.mode = .ind && (s.ctx h).loop.strips.any fun t => (s.order a).getD t.slot 0 = q)

/-- What an attach does to a context's slice of a cluster (R10 step 2). Stores that its micro-threads have left in their
queues are still performed (R81). -/
def State.clearSlice (s : State) (h q : Nat) : State :=
  let k := 4 * q + ctxNo h
  { s with
    vreg := sparseClear s.vreg (k * 4096) ((k + 1) * 4096)
    vpois := sparseClear s.vpois (k * 4096) ((k + 1) * 4096)
    mbit := sparseClear s.mbit (k * 18432) ((k + 1) * 18432)
    mpois := sparseClear s.mpois (k * 18432) ((k + 1) * 18432)
    mts := s.mts.filterMap fun p =>
      if p.1 / 128 ≠ k then some p else if p.2.queue.isEmpty then none else some (p.1, { queue := p.2.queue }) }

/-- Restart indices and strips keep their cluster when the order changes; a new slot has none. -/
def reslot (old new : List Nat) (c : Ctx) : Ctx :=
  if old = new then c
  else
    let entry (j : Nat) : Word :=
      match new[j]? with
      | some q => if old.contains q then c.vrst.toArray.getD (old.idxOf q) allOnes else allOnes
      | none => allOnes
    { c with
      vrst := (List.range 16).foldl (fun v j => v.setIfInBounds j (entry j)) c.vrst
      loop := { c.loop with strips := c.loop.strips.map fun t => { t with slot := new.idxOf (old.getD t.slot 0) } } }

/-- Whether a cluster is fenced (R450), by its register or by the configuration record. -/
def State.clusterFenced (s : State) (q : Nat) : Bool := s.plat.fenceCl.getLsbD q || s.plat.cfg.clfence.getLsbD q

/-- Where a cluster goes whose owner has retired: to the heir, if it holds a unit of the launch, else it is unassigned
(R11). -/
def State.bequeath (s : State) (b : Bequest) (k : Clus) : Clus :=
  let heir := b.heir.filter fun t => match (s.ctx t).unit with
    | some v => v.job == b.job && v.queue == b.queue && v.index == b.index
    | none => false
  match heir with
  | some t => { k with owner := some t, pend := true, left := none }
  | none => { k with owner := none, pend := false, left := none }

/-- A cluster that leaves its context goes to the one that has been named for it, a fenced one to none (R450). -/
def State.unfenced (s : State) (q : Nat) (k : Clus) : Clus :=
  if s.clusterFenced q ∧ k.attached.isNone then { k with owner := none, pend := false } else k

/-- A context lets a cluster go (R10 step 1); where the owner has retired meanwhile, R11 decides now. -/
def State.detach (s : State) (q : Nat) : State :=
  let k := { s.cluster q with attached := none }
  s.setCluster q (s.unfenced q (match k.left with
    | some b => s.bequeath b k
    | none => k))

/-- Whether core number k of a die is fenced with its die, or has failed. -/
def State.dieGone (s : State) (d k : Nat) : Bool := s.plat.fenceDie.getLsbD d || s.plat.failed.getLsbD (32 * d + k)

/-- Whether stores wait that a context's micro-threads have left in a die (R81). -/
def State.storesIn (s : State) (h d : Nat) : Bool :=
  s.mts.any fun p => p.1 / 2048 = 32 * d + coreOf h % 32 && p.1 / 128 % 4 == ctxNo h && !p.2.queue.isEmpty

/-- A span unit gives up a die that is fenced or lost once it holds no cluster there and no store waits there (R28). -/
def State.leaveDies (s : State) (h : Nat) (order : List Nat) (c : Ctx) : Ctx :=
  { c with unit := c.unit.map fun u => { u with
      dies := u.dies.filter fun d => d = dieOfCore (coreOf h) || order.any (· / 128 = d) || s.storesIn h d || !s.dieGone d (coreOf h % 32) } }

/-- A strip boundary or a `vsetl` (R10): clusters that are leaving detach, then the ones whose earlier
owner let them go attach. A cluster that is leaving and coming back attaches at a later boundary. A fenced one leaves, but for
the last one, and none attaches (R450). -/
def State.boundary (s : State) (h : Nat) : State :=
  let a := s.holder h
  let old := s.order a
  let going (q : Nat) : Bool := (s.cluster q).owner ≠ some a || (s.cluster q).pend
  let last := !old.any fun q => !going q && !s.clusterFenced q
  let out := old.filter fun q => (going q || (s.clusterFenced q && !last)) && !s.keepsCluster a q
  let inn := (s.clus.filter fun p => p.2.pend && p.2.owner = some a && p.2.attached = none && !s.clusterFenced p.1).map (·.1)
  let s := out.foldl State.detach s
  let s := inn.foldl (fun s q =>
    (s.partners a).foldl (fun s h => s.clearSlice h q)
      (s.setCluster q { s.cluster q with attached := some a, pend := false })) s
  let new := s.order a
  (s.partners a).foldl (fun s h => s.modCtx h fun c => s.leaveDies h new (reslot old new c)) s

/-- Two contexts run units of one gang of one launch (R30). -/
def State.sameGang (s : State) (h t : Nat) : Bool :=
  match (s.ctx h).unit, (s.ctx t).unit with
  | some u, some v => u.job == v.job && u.queue == v.queue && u.index == v.index && u.gangBase == v.gangBase
  | _, _ => false

/-- The owner of a cluster after every change already sent (R168). -/
def State.ownerSent (s : State) (q : Nat) : Option Nat :=
  ((s.core (q / 4)).moves.filter (·.clus.contains q)).foldl (fun _ m => some m.dest) (s.cluster q).owner

/-- `lpset` (R168): one change, of the HEIR field and of clusters together, is sent to the partition unit. -/
def sendMove (xd : Reg) (a b : Word) (s : State) : State :=
  let h := s.hart
  let g := coreOf h
  let t := 4 * g + (b.extractLsb' 0 2).toNat
  if !s.sameGang h t then (s.wx xd 0).retire 6
  else
    let core := s.core g
    let heir : Option (Nat × Option Nat) :=
      if b.getLsbD 4 then (if t = h then none else some (h, some t))
      else if b.getLsbD 5 then some (h, none)
      else none
    let moved := (List.range 4).filter fun n =>
      a.getLsbD n && (s.cluster (4 * g + n)).left.isNone && !s.clusterFenced (4 * g + n) && match s.ownerSent (4 * g + n) with
        | some o => s.sameGang h o && o ≠ t
        | none => false
    let moves := if moved.isEmpty && heir.isNone then core.moves
      else core.moves ++ [{ clus := moved.map (4 * g + ·), dest := t, heir := heir }]
    let s := s.setCore g { core with moves := moves }
    (s.wx xd (BitVec.ofNat 64 (moved.map (2 ^ ·)).sum)).retire 6

/-- The partition unit applies its oldest change whole, unless a cluster of it is still moving; a change
whose gaining context runs no unit any more is dropped whole (R12). A cluster that has left the gang since is
left where it is, and so is the HEIR field of a context that has (DEDUCED from R30, log 22). -/
def State.applyMove (s : State) (g : Nat) : State :=
  let core := s.core g
  match core.moves with
  | [] => s
  | m :: rest =>
    if m.clus.any fun q => (s.cluster q).pend then s
    else
      let s := s.setCore g { core with moves := rest }
      if (s.ctx m.dest).unit.isNone then s
      else
      let s := match m.heir with
        | some (h, t) =>
          if s.sameGang h m.dest then s.setCore g { s.core g with heirs := (s.core g).heirs.setIfInBounds (ctxNo h) t } else s
        | none => s
      m.clus.foldl (fun s q =>
        match (s.cluster q).owner with
        | some o =>
          if o ≠ m.dest ∧ s.sameGang o m.dest ∧ !s.clusterFenced q then s.setCluster q { s.cluster q with owner := some m.dest, pend := true }
          else s
        | none => s) s

/-- The clusters whose CL field names a context, when its unit has ended: they pass to a valid heir that
runs a unit of the same launch, else they are unassigned (R11). One that its earlier owner still has attached is decided
when that owner lets it go. The transfer does not queue behind changes that wait in the partition unit: R11 leaves those
to R12 (log 22). -/
def State.heirTransfer (s : State) (h : Nat) : State :=
  match (s.ctx h).unit with
  | none => s
  | some u =>
    let g := coreOf h
    let b : Bequest := { job := u.job, queue := u.queue, index := u.index, heir := (s.core g).heirs.toArray.getD (ctxNo h) none }
    let mine := (s.clus.filter fun p => p.2.owner = some h && p.2.left.isNone).map (·.1)
    let lost := (s.clus.filter fun p => p.2.attached = some h && p.2.owner ≠ some h).map (·.1)
    let s := mine.foldl (fun s q =>
      let k := s.cluster q
      s.setCluster q (if k.attached = none ∨ k.attached = some h then s.unfenced q (s.bequeath b { k with attached := none })
        else { k with left := some b })) s
    let s := lost.foldl State.detach s
    s.setCore g { s.core g with heirs := (s.core g).heirs.setIfInBounds (ctxNo h) none }

/-- The partition unit of a core. -/
def execPartitionChange (core : Nat) (s : State) : Out := .next (s.applyMove core)

end Sys2Proof.Machine
end

