-- ==== Sys2Proof/Machine/Csr.lean ====
section
/-! DEFINITION. The CSRs of R149, R154 to R158, R171, R174, R179, R366 and R375, and the instructions that
read and write them. -/

namespace Sys2Proof.Machine
open Sys2Proof

/-- The nibble of lpart that names an owner or heir: valid, 0, context (R8). -/
def lpartNibble : Option Nat → Nat
  | none => 0
  | some h => 8 + ctxNo h

/-- `lpart` of a core (R8). -/
def State.lpart (s : State) (g : Nat) : Word :=
  let cl (c : Nat) : Clus := s.cluster (4 * g + c)
  let bit (c : Nat) : Nat := if (cl c).pend then 2 ^ c else 0
  let heir (c : Nat) : Nat := lpartNibble ((s.core g).heirs.toArray.getD c none)
  BitVec.ofNat 64 ((bit 0 + bit 1 + bit 2 + bit 3) * 2 ^ 32 +
    heir 3 * 2 ^ 28 + heir 2 * 2 ^ 24 + heir 1 * 2 ^ 20 + heir 0 * 2 ^ 16 +
    lpartNibble (cl 3).owner * 2 ^ 12 + lpartNibble (cl 2).owner * 2 ^ 8 +
    lpartNibble (cl 1).owner * 2 ^ 4 + lpartNibble (cl 0).owner)

def Ctx.ownsMs (c : Ctx) : Bool := (c.unit.map (·.ownsMs)).getD false

/-- `cid` (R158). -/
def State.cid (s : State) (h : Nat) : Word :=
  let g := coreOf h
  let clu := (s.order h).foldl (fun m q => if q / 4 = g then m + 2 ^ (q % 4) else m) 0
  BitVec.ofNat 64 (dieOfCore g * 2 ^ 16 + g % 32 * 2 ^ 8 +
    (if (s.ctx h).ownsMs then 64 else 0) + ctxNo h * 16 + clu)

/-- `sxsz`: the size of a full save area (R377). -/
def State.saveSize (s : State) (h : Nat) : Nat :=
  8192 + 25600 * (s.order h).length + (if (s.ctx h).ownsMs then 164352 else 0)

def sstatusOf (c : Ctx) : Word :=
  BitVec.ofNat 64 ((if c.sieBit then 2 else 0) + (if c.spieBit then 32 else 0) +
    (if c.spp = .supervisor then 256 else 0))

/-- SSIE, STIE, SEIE and their pending bits (R171). -/
def siMask : Word := 0x222

/-- Reads a CSR that a CT may read in a mode; none is illegal-instruction. -/
def State.csrRead (s : State) (h : Nat) (csr : BitVec 12) : Option Word :=
  let c := s.ctx h
  let sup (w : Word) : Option Word := if c.mode = .supervisor then some w else none
  match csr.toNat with
  | 0xC00 => some (BitVec.ofNat 64 (cycleAt (coreOf h) s.tick))
  | 0xC01 => some s.time
  | 0xC02 => some c.instret
  | 0x800 => some c.vrm
  | 0x801 => some c.vpst
  | 0x802 => some c.vtb
  | 0x803 => some c.vsb
  | 0x804 => some c.vts
  | 0x805 => some c.amax
  | 0x806 => some c.amaxn
  | 0x807 => some c.uivec
  | 0x808 => some c.uiepc
  | 0x809 => some c.uicause
  | 0xCC0 => some (BitVec.ofNat 64 c.vl)
  | 0xCC1 => some c.vty
  | 0xCC2 => some (BitVec.ofNat 64 (vlmaxOf (s.order h).length c.vty))
  | 0xCC3 => some (c.ldst.zeroExtend 64)
  | 0xCC4 => some (if c.loop.mode = .seq then BitVec.ofNat 64 c.loop.base else 0)
  | 0xCC5 => some (s.lpart (coreOf h))
  | 0xCC6 => some (s.cid h)
  | 0xCC7 => some (BitVec.ofNat 64 (diesOf (s.order h)))
  | 0xCC8 => some (BitVec.ofNat 64 c.ccap)
  | 0x100 => sup (sstatusOf c)
  | 0x104 => sup c.sie
  | 0x144 => sup c.sip
  | 0x105 => sup c.stvec
  | 0x140 => sup c.sscratch
  | 0x141 => sup c.sepc
  | 0x142 => sup c.scause
  | 0x143 => sup c.stval
  | 0x5C0 => sup c.svty
  | 0x5C1 => sup (c.sldst.zeroExtend 64)
  | 0x5C2 => sup (BitVec.ofNat 64 (s.saveSize h))
  | 0x5C3 => sup c.sfdesc
  | 0x5C4 => sup c.sfbase
  | 0x5C5 => sup c.sfstride
  | 0x5C6 => sup c.sfrem
  | 0x5C7 => sup c.spsn
  | _ => none

/-- A write of `vrm`: RM keeps its value on 000, 110 and 111 (R42). -/
def vrmWrite (old v : Word) : Word :=
  let rm := (v.extractLsb' 0 3).toNat
  (v &&& 8) ||| (if 1 ≤ rm ∧ rm ≤ 5 then v &&& 7 else old &&& 7)

/-- A write of `vpst`: PREAD 9 to 15 stores 8 (R50). -/
def vpstWrite (v : Word) : Word :=
  let p := (v.extractLsb' 60 4).toNat
  (v &&& 0x0000FFFFFFFFFFFF) ||| BitVec.ofNat 64 ((if 9 ≤ p then 8 else p) * 2 ^ 60)

/-- Writes a CSR; none is illegal-instruction: a read-only or unlisted number, or the wrong mode. -/
def csrWrite (c : Ctx) (csr : BitVec 12) (v : Word) : Option Ctx :=
  let sup (c' : Ctx) : Option Ctx := if c.mode = .supervisor then some c' else none
  match csr.toNat with
  | 0x800 => some { c with vrm := vrmWrite c.vrm v }
  | 0x801 => some { c with vpst := vpstWrite v }
  | 0x802 => some { c with vtb := v }
  | 0x803 => some { c with vsb := v }
  | 0x804 => some { c with vts := v &&& 0xFFFFFFFF }
  | 0x805 => some { c with amax := v &&& 0x7FFFFFFF }
  | 0x806 => some { c with amaxn := v &&& 1 }
  | 0x807 => some { c with uivec := v &&& 0xFFFFFFFFFFFFFFFE }
  | 0x808 => some { c with uiepc := v &&& 0xFFFFFFFFFFFFFFFE }
  | 0x809 => some { c with uicause := v &&& 0x1FFFFFFFF }
  | 0x100 => sup { c with
      sieBit := v.getLsbD 1, spieBit := v.getLsbD 5, spp := if v.getLsbD 8 then .supervisor else .user }
  | 0x104 => sup { c with sie := v &&& siMask }
  | 0x144 => sup { c with sip := (c.sip &&& 0x220) ||| (v &&& 2) }
  | 0x105 => sup { c with stvec := v &&& 0xFFFFFFFFFFFFFFFC }
  | 0x140 => sup { c with sscratch := v }
  | 0x141 => sup { c with sepc := v &&& 0xFFFFFFFFFFFFFFFE }
  | 0x142 => sup { c with scause := v &&& 0x800000000000003F }
  | 0x143 => sup { c with stval := v }
  | 0x5C0 => sup { c with svty := v }
  | 0x5C1 => sup { c with sldst := v.extractLsb' 0 5 }
  | 0x5C7 => sup { c with spsn := v &&& 0xFFFFFFFF00000001 }
  | _ => none

/-- What the MS may read (R154). -/
def State.msCsrRead (s : State) (g : Nat) (csr : BitVec 12) : Option Word :=
  let h := (s.ms g).owner.getD (4 * g)
  match csr.toNat with
  | 0xC00 => some (BitVec.ofNat 64 (cycleAt g s.tick))
  | 0xC01 => some s.time
  | 0xC02 => some (s.ms g).instret
  | 0xCC6 => some (s.cid h)
  | 0xCC7 => some (BitVec.ofNat 64 (diesOf (s.order h)))
  | _ => none

/-- A CSR instruction: `new` is the value written, none where the form writes nothing (R155). -/
def csrOp (bits : Word) (rd : Reg) (csr : BitVec 12) (new : Option (Word → Word)) (s : State) : State :=
  match s.who with
  | .ms g =>
    match s.msCsrRead g csr, new with
    | some v, none => (s.wx rd v).retire 4
    | _, _ => s.illegal bits
  | _ =>
    let h := s.hart
    match s.csrRead h csr with
    | none => s.illegal bits
    | some old =>
      match new with
      | none => (s.wx rd old).retire 4
      | some f =>
        match csrWrite (s.ctx h) csr (f old) with
        | none => s.illegal bits
        | some c => ((s.setCtx h c).wx rd old).retire 4

def csrBits (csr : BitVec 12) (r : Reg) (f3 : BitVec 3) (rd : Reg) : Word := rvBits (encI csr r f3 rd 0x73#7)

def execCsrrw (rd rs1 : Reg) (csr : BitVec 12) (s : State) : Out :=
  let a := s.rx rs1
  scalarStep s (csrOp (csrBits csr rs1 1#3 rd) rd csr (some fun _ => a))
def execCsrrs (rd rs1 : Reg) (csr : BitVec 12) (s : State) : Out :=
  let a := s.rx rs1
  scalarStep s (csrOp (csrBits csr rs1 2#3 rd) rd csr (if rs1 = 0#5 then none else some fun o => o ||| a))
def execCsrrc (rd rs1 : Reg) (csr : BitVec 12) (s : State) : Out :=
  let a := s.rx rs1
  scalarStep s (csrOp (csrBits csr rs1 3#3 rd) rd csr (if rs1 = 0#5 then none else some fun o => o &&& ~~~a))
def execCsrrwi (rd : Reg) (uimm : BitVec 5) (csr : BitVec 12) (s : State) : Out :=
  scalarStep s (csrOp (csrBits csr uimm 5#3 rd) rd csr (some fun _ => uimm.zeroExtend 64))
def execCsrrsi (rd : Reg) (uimm : BitVec 5) (csr : BitVec 12) (s : State) : Out :=
  scalarStep s (csrOp (csrBits csr uimm 6#3 rd) rd csr
    (if uimm = 0#5 then none else some fun o => o ||| uimm.zeroExtend 64))
def execCsrrci (rd : Reg) (uimm : BitVec 5) (csr : BitVec 12) (s : State) : Out :=
  scalarStep s (csrOp (csrBits csr uimm 7#3 rd) rd csr
    (if uimm = 0#5 then none else some fun o => o &&& ~~~(uimm.zeroExtend 64)))

end Sys2Proof.Machine
end

