-- ==== Sys2Proof/Machine/System.lean ====
section
/-! DEFINITION. System calls and breakpoints (R176), the privileged instructions (R173, R178), and the
supervisor interrupt (R177). -/

namespace Sys2Proof.Machine
open Sys2Proof

/-- A debug session holds the context's job (R457). -/
def State.debugHolds (s : State) (h : Nat) : Bool :=
  match s.plat.debug, (s.ctx h).unit with
  | some (j, _), some u => u.job == j
  | _, _ => false

/-- R176. In the MS stream it is illegal (R128). -/
def execEcall (s : State) : Out :=
  ctStep s 0x73 fun s => s.trap (if (s.ctx s.hart).mode = .user then 8 else 9) 0

/-- A context halts at an instruction boundary; in a `.ind` loop `vrst` holds the restart indices (R350). -/
def haltCtx (c : Ctx) : Ctx :=
  { c with
    dbgStop := true
    vrst := (List.range 16).foldl (fun v j => match stripOf c j with
      | some t => v.setIfInBounds j (BitVec.ofNat 64 t.base)
      | none => v) c.vrst }

/-- R176; in a job that a debug session holds it stops the context instead (R457). -/
def execEbreak (s : State) : Out :=
  ctStep s 0x100073 fun s =>
    if s.debugHolds s.hart then (s.retire 4).modCtx s.hart haltCtx
    else s.trap 3 0

/-- An instruction that only supervisor mode may execute (R142, R173). -/
def supervisorOnly (s : State) (bits : Word) (k : State → State) : Out :=
  ctStep s bits fun s => if (s.ctx s.hart).mode = .supervisor then k s else s.illegal bits

/-- A halted `.ind` loop goes on: stopped clusters re-execute their instruction, abandoned strips are
gone, and no restart is pending any more (R369). -/
def resumeInd (c : Ctx) : Ctx :=
  if c.loop.mode = .ind ∧ c.inBody then
    { c with
      vrst := Vector.replicate 16 0xFFFFFFFFFFFFFFFF
      loop := { c.loop with
        halt := false
        strips := (c.loop.strips.filter (0 < ·.size)).map fun t => { t with stop := none, first := t.base } } }
  else c

/-- Ends a `.ind` loop whose every strip has completed (R164). -/
def endInd (c : Ctx) : Ctx :=
  if c.loop.mode = .ind ∧ c.inBody ∧ c.loop.rem = 0 ∧ c.loop.strips.isEmpty then closeLoop c else c

/-- The MS of the context's unit starts again at its faulting instruction (R283). -/
def State.restartMs (s : State) (h : Nat) : State :=
  let g := coreOf h
  if (s.ctx h).ownsMs ∧ (s.ms g).owner = some h ∧ (s.ms g).run = .stopped ∧ (s.ctx h).msFaults.isEmpty then
    s.modMs g fun m => { m with run := .running, faultWord := 0, faultAddr := 0, atWait := false }
  else s

/-- The return from an exception on a hart (R178). It is no instruction of the user's, so a pending one-shot
skip stays. A drain whose kept element was reported by the trap resumes with it (R232). -/
def State.sret (s : State) (h : Nat) : State :=
  let s := s.modCtx h fun c =>
    endInd (resumeInd { returnFrom c with
      streams := c.streams.map fun t => if c.scause = 29 ∧ t.kept = some c.stval then { t with kept := none } else t
      exchg := none
      instret := c.instret + 1, stallOn := none, park := if c.park = .restored then .no else c.park })
  s.restartMs h

def execSret (s : State) : Out := supervisorOnly s 0x10200073 fun s => s.sret s.hart

/-- Waits for an enabled pending interrupt (R173). Once it waits it completes before the interrupt is taken, whose sepc is
then the next instruction (R175). -/
def execWfi (s : State) : Out :=
  supervisorOnly s 0x10500073 fun s =>
    let c := s.ctx s.hart
    if c.sie &&& c.sip = 0 then s.stall.modCtx s.hart fun c => { c with inWfi := true } else s.retire 4

/-- Whether a store of the job still waits in a queue of the core (R364): of its units, or left by a killed one (R376). -/
def State.jobQueued (s : State) (g job : Nat) : Bool :=
  (List.range 4).any fun k =>
    let c := s.ctx (4 * g + k)
    let runs := c.unit.any (·.job = job)
    ((runs || c.leftOf.any (·.1 / 65536 = job)) && s.storesWait (4 * g + k)) || (runs && c.ownsMs && !(s.ms g).queue.isEmpty)

/-- Drops the copies of a job in the slices of some cores: all of them, or those that translate va (R364). -/
def State.shoot (s : State) (on : Nat → Bool) (job : Nat) (va : Option Word) : State :=
  { s with
    tlb := s.tlb.filter fun t =>
      !(on t.core && t.job = job && match va with
        | none => true
        | some a =>
          let v := (a.extractLsb' 0 49).toNat
          (t.level = 3 && pteLeaf t.pte && (t.va = v / 2 ^ 16 || (t.pte.getLsbD 5 && t.va / 32 = v / 2 ^ 21))) ||
          (t.level = 2 && t.va = v / 2 ^ 29) || (t.level = 1 && t.va = v / 2 ^ 42)) }

/-- The shootdown of one core's slices (R173). -/
def State.shootCore (s : State) (g job : Nat) (va : Option Word) : State := s.shoot (· == g) job va

/-- The module-wide shootdown (R364): every slice that translates for the job, those of the Hearth and of units that have
left their cores among them. -/
def State.shootAll (s : State) (job : Nat) (va : Option Word) : State := s.shoot (fun _ => true) job va

def execSfenceVma (rs1 rs2 : Reg) (s : State) : Out :=
  supervisorOnly s (rvBits (encR 0x09#7 rs2 rs1 0#3 0#5 0x73#7)) fun s =>
    let g := coreOf s.hart
    let job := ((s.ctx s.hart).unit.map (·.job)).getD 0
    if s.jobQueued g job then s.stall
    else (s.shootCore g job (if rs1 = 0#5 then none else some (s.rx rs1))).retire 4

/-- The enabled pending supervisor interrupt of highest standard priority: external, software, timer
(R171, R177). -/
def pendingIntr (c : Ctx) : Option Nat :=
  let p := c.sie &&& c.sip
  if (c.mode = .supervisor ∧ !c.sieBit) ∨ c.inWfi then none
  else if p.getLsbD 9 then some 9
  else if p.getLsbD 1 then some 1
  else if p.getLsbD 5 then some 5
  else none

/-- At an instruction boundary the pending interrupt is taken (R175, R177); with none pending nothing
happens. -/
def execSupervisorInterrupt (hart : Nat) (s : State) : Out :=
  .next (match pendingIntr (s.ctx hart) with
    | some n => s.modCtx hart fun c => trapEntry c true n c.pc 0 none
    | none => s)

end Sys2Proof.Machine
end

