-- ==== Sys2Proof/Machine/Loop.lean ====
section
/-! DEFINITION. The VCFG group (R159 to R169): configuration, the hardware loops with the capture of their
body (R162, R165, R230, R333) and their strips (R163, R164, R331), element indices, `lpset` and `wbase`. -/

namespace Sys2Proof.Machine
open Sys2Proof

/-! What a body may hold. -/

/-- The RISC-V instructions with a scalar destination. -/
def rvWritesScalar : Instr → Bool
  | .lui .. | .auipc .. | .jal .. | .jalr .. => true
  | .lb .. | .lh .. | .lw .. | .ld .. | .lbu .. | .lhu .. | .lwu .. => true
  | .addi .. | .slti .. | .sltiu .. | .xori .. | .ori .. | .andi .. | .slli .. | .srli .. | .srai .. => true
  | .add .. | .sub .. | .sll .. | .slt .. | .sltu .. | .xor .. | .srl .. | .sra .. | .or .. | .and .. => true
  | .addiw .. | .slliw .. | .srliw .. | .sraiw .. | .addw .. | .subw .. | .sllw .. | .srlw .. | .sraw .. => true
  | .mul .. | .mulh .. | .mulhsu .. | .mulhu .. | .div .. | .divu .. | .rem .. | .remu .. => true
  | .mulw .. | .divw .. | .divuw .. | .remw .. | .remuw .. => true
  | .lrW .. | .scW .. | .lrD .. | .scD .. => true
  | .amoswapW .. | .amoswapD .. | .amoaddW .. | .amoaddD .. | .amoxorW .. | .amoxorD .. => true
  | .amoandW .. | .amoandD .. | .amoorW .. | .amoorD .. | .amominW .. | .amominD .. => true
  | .amomaxW .. | .amomaxD .. | .amominuW .. | .amominuD .. | .amomaxuW .. | .amomaxuD .. => true
  | .csrrw .. | .csrrs .. | .csrrc .. | .csrrwi .. | .csrrsi .. | .csrrci .. => true
  | _ => false

/-- A scalar destination, x0 included (R165 item 5): `vsetl`, `vsetlr`, `lpset`, `wbase`, `vlinkout`, `vmv.x`,
`mpopc`, `mfirst`, `vcappend`, `spos`, `wquery`, `cquery`, `uimask`, `qput`, `bkset` and `hcall`. -/
def writesScalar : BodyOp → Bool
  | .base i => rvWritesScalar i
  | .t48 grp op _ =>
    match grp with
    | 0x01#6 => op = 0x00#6 || op = 0x01#6 || op = 0x07#6 || op = 0x08#6
    | 0x02#6 => op = 0x07#6
    | 0x05#6 => op = 0x14#6
    | 0x08#6 => op = 0x05#6 || op = 0x06#6
    | 0x0C#6 => op = 0x08#6
    | 0x0E#6 => op = 0x04#6
    | 0x0F#6 => op = 0x03#6
    | 0x12#6 => op = 0x05#6
    | 0x19#6 => op = 0x05#6 || op = 0x06#6 || op = 0x09#6 || op = 0x0A#6
    | _ => false

/-- The CSR of a CSR instruction, and whether the instruction writes it. -/
def csrUse : Instr → Option (BitVec 12 × Bool)
  | .csrrw _ _ n => some (n, true)
  | .csrrs _ r n => some (n, r ≠ 0#5)
  | .csrrc _ r n => some (n, r ≠ 0#5)
  | .csrrwi _ _ n => some (n, true)
  | .csrrsi _ r n => some (n, r ≠ 0#5)
  | .csrrci _ r n => some (n, r ≠ 0#5)
  | _ => none

/-- What a CT may execute (R142): the tile group only where it owns the MS, of the Crucible group `cacc`,
`cread`, `cwait` and `cquery`, the SYS group and the privileged instructions in supervisor mode. -/
def State.ctMay (s : State) (h : Nat) (i : BodyOp) : Bool :=
  let c := s.ctx h
  match i with
  | .base i =>
    match i with
    | .sret | .wfi | .sfenceVma .. => c.mode = .supervisor
    | _ => match csrUse i with
      | some (n, _) => (s.csrRead h n).isSome
      | none => true
  | .t48 grp op _ =>
    match grp with
    | 0x10#6 => c.ownsMs
    | 0x11#6 => false
    | 0x12#6 => !(op = 0x00#6 || op = 0x03#6)
    | 0x1C#6 => c.mode = .supervisor
    | _ => true

/-- Branches, jumps and the instructions that R165 items 2 and 3 keep out of a body: of the T48 ones `vsetl`,
`vsetlr`, the loops, `lpset`, `kend`, `hcall`, `uiret` and the SYS group. -/
def bannedInBody : BodyOp → Bool
  | .base i =>
    match i with
    | .beq .. | .bne .. | .blt .. | .bge .. | .bltu .. | .bgeu .. | .jal .. | .jalr .. => true
    | .ecall | .ebreak | .fenceI .. | .sret | .wfi | .sfenceVma .. => true
    | _ => (csrUse i).any (·.2)
  | .t48 grp op _ =>
    match grp with
    | 0x01#6 => op = 0x00#6 || op = 0x01#6 || op = 0x02#6 || op = 0x03#6 || op = 0x07#6
    | 0x18#6 => op = 0x09#6
    | 0x19#6 => op = 0x04#6 || op = 0x0A#6
    | 0x1C#6 => true
    | _ => false

/-- R165 item 5, R249 and R309: what a `.ind` body may not hold, `vlinkin`, `ewait`, `uiset`, `qtail` and
`qwait` beside the scalar writers. -/
def bannedInInd (i : BodyOp) : Bool :=
  writesScalar i ||
  match i with
  | .t48 grp op _ => (grp = 0x02#6 && op = 0x06#6) ||
    (grp = 0x19#6 && (op = 0x02#6 || op = 0x03#6 || op = 0x07#6 || op = 0x08#6))
  | .base _ => false

/-- R133: a K16 form stands before the body's first instruction that sets `ldst`. DESIGN CHOICE (log 87): a body whose
first instruction that sets `ldst` is itself `vmv.k` raises cause 28 too, since it reads a vLAST set before the loop. -/
def k16Early : List BodyOp → Bool
  | [] => false
  | i :: t => isK16 i || (!setsLdst i && k16Early t)

/-- R165 items 2 to 6. -/
def bodyBanned (ind : Bool) (body : List BodyOp) : Bool :=
  body.any (fun i => bannedInBody i || (ind && bannedInInd i)) || k16Early body

/-- The streams each body instruction reads or writes; `last` is vLAST as capture resolves it (R131). -/
def bodyStreams (c : Ctx) (lmul : Nat) : List BodyOp → Reg → List Nat
  | [], _ => []
  | i :: t, last =>
    let regs := match i with
      | .base j => match k16Regs j with
        | some (srcs, d) => d.toList ++ last :: srcs
        | none => []
      | .t48 .. => vecRegs i
    ((regs.filterMap fun r => (c.streamOf lmul r.toNat).map (·.1)).eraseDups) ++ bodyStreams c lmul t (ldstAfter last i)

/-- R230: a binding instruction in the body: `sbind`, `sunbind`, `sskip`. -/
def bindsStream : BodyOp → Bool
  | .t48 grp op _ => grp = 0x0E#6 && (op = 0x00#6 || op = 0x01#6 || op = 0x03#6)
  | .base _ => false

def isVnext : BodyOp → Bool
  | .t48 grp op _ => grp = 0x01#6 && op = 0x04#6
  | .base _ => false

/-- Captures a body from an address: its bytes, its instructions, the bits of the first that fails to
decode under R162, and whether a `vnext` was found (R162, R165 item 1). -/
def captureBody (h lmul : Nat) : Nat → Word → List Byte → List BodyOp → Option Word → State →
    Except (Nat × Word) (List Byte × List BodyOp × Option Word × Bool) × State
  | 0, _, bs, is, bad, s => (.ok (bs, is, bad, false), s)
  | n + 1, pc, bs, is, bad, s =>
    after (s.fetchInstr pc) fun w s =>
      match readBody w with
      | none =>
        let len := match lengthOf (BitVec.ofNat 16 (leNat (w.take 2))) with | 0 => 8 | l => l
        captureBody h lmul n (pc + BitVec.ofNat 64 len) (bs ++ w) is (some (bad.getD (illegalBits w))) s
      | some i =>
        let fits := s.ctMay h i && !(vecRegs i).any fun r => r.toNat % lmul ≠ 0
        let bad := if fits then bad else some (bad.getD (illegalBits w))
        if isVnext i then (.ok (bs ++ w, is ++ [i], bad, true), s)
        else captureBody h lmul n (pc + BitVec.ofNat 64 w.length) (bs ++ w) (is ++ [i]) bad s

/-! Grants and strips. -/

/-- min(avl, VLMAX, CCAP × n) (R14, R163, R164). -/
def grantOf (c : Ctx) (n avl : Nat) : Nat := Nat.min (Nat.min avl (vlmaxOf n c.vty)) (capped c.ccap n avl)

/-- The other context of a spliced unit (R331). -/
def State.spliceMate (s : State) (h : Nat) : Option Nat :=
  match (s.ctx h).unit.bind (·.splice) with
  | some p => some (if p = h then (s.splice h).c else p)
  | none => none

/-- Whether the context is the C-context of a spliced unit. -/
def State.isConsumer (s : State) (h : Nat) : Bool := s.holder h ≠ h

/-- The size of the next strip over n clusters: in a splice both contexts must be able to take it. -/
def State.stripGrant (s : State) (h n rem : Nat) : Nat :=
  let g := grantOf (s.ctx h) n rem
  match s.spliceMate h with
  | some m => Nat.min g (grantOf (s.ctx m) n rem)
  | none => g

/-- How many iterations a context of a splice has behind it where it stands at a strip boundary, before its loop or past
it (R338); none inside a strip. -/
def Loop.standing (l : Loop) (reached count : Nat) : Option Nat :=
  match l.mode with
  | .off => some (if reached = 2 then count else 0)
  | .seq => if l.gap then some l.next else none
  | .ind => if l.strips.isEmpty then some l.next else none

/-- Both contexts of a spliced unit stand at the same strip boundary, so that every FIFO is empty (R338). -/
def State.aligned (s : State) (h : Nat) : Bool :=
  let sp := s.splice h
  match (s.ctx (s.holder h)).loop.standing sp.pAt sp.count, (s.ctx sp.c).loop.standing sp.cAt sp.count with
  | some a, some b => a == b
  | _, _ => false

/-- Whether a context stands outside its loop or between two strips of it. -/
def State.betweenStrips (s : State) (h : Nat) : Bool :=
  let l := (s.ctx h).loop
  match l.mode with
  | .off => true
  | .seq => l.gap
  | .ind => l.strips.isEmpty

/-! The launch of a unit (R386), and when a request for its pre-emption is forced (R348, R349). -/

def qKey (job q : Nat) : Nat := 65536 * job + q
def pktWord (w : List Word) (off : Nat) : Word := w.getD (off / 8) 0
def State.slot? (s : State) (key : Nat) : Option QSlot := (s.hearth.slots.find? (·.1 = key)).map (·.2)
def QSlot.launch? (q : QSlot) (index : Nat) : Option Launch := q.taken.find? (·.index = index)
def State.launch? (s : State) (key index : Nat) : Option Launch := (s.slot? key).bind (·.launch? index)

/-- The launch of a context's unit, with its queue's key. -/
def State.launchOf (s : State) (h : Nat) : Option (Nat × Launch) :=
  (s.ctx h).unit.bind fun u => (s.launch? (qKey u.job u.queue) u.index).map (qKey u.job u.queue, ·)

/-- The pre-emption distance of a launch: its packet's, else its kernel's (R348). -/
def Launch.ppd (l : Launch) : Nat :=
  let p := ((pktWord l.words 0x10).extractLsb' 48 16).toNat
  if p ≠ 0 then p else l.kern.ppd

/-- The pre-emption distance of a unit (R348); of a spliced one the smaller that is not 0 (R338). -/
def State.distance (s : State) (h : Nat) : Nat :=
  match s.launchOf h with
  | none => 0
  | some (key, l) =>
    match l.partner.bind (s.launch? key) with
    | none => l.ppd
    | some m => if l.ppd = 0 then m.ppd else if m.ppd = 0 then l.ppd else Nat.min l.ppd m.ppd

/-- The cycles since a request arrived. -/
def State.waited (s : State) (h : Nat) : Nat :=
  let g := coreOf h
  cycleAt g s.tick - cycleAt g (s.ctx h).preemptAt

/-- A request of a unit has found no point in time, or the unit declares none (R349). -/
def State.forcedDue (s : State) (h : Nat) : Bool :=
  (s.ctx h).preempt && decide (4 * s.distance h * 64 ≤ s.waited h)

/-- A spliced unit is to leave at the end of its strip, at a point that C has reached or in the forced form: P begins no
further one (R338). -/
def State.pointPending (s : State) (h : Nat) : Bool :=
  match s.spliceMate h with
  | none => false
  | some _ =>
    let c := (s.splice h).c
    ((s.ctx c).preempt && (s.ctx c).pointDue) || s.forcedDue c

/-- Begins a strip of a `.seq` loop of n iterations (R163). -/
def beginStrip (n : Nat) (c : Ctx) : Ctx :=
  { c with vl := n, atWait := false, loop := { c.loop with base := c.loop.next, size := n, gap := false } }

/-- A strip boundary of a `.seq` loop and the strip after it (R10, R163). A context that holds no cluster waits, and the
wait honours a pre-emption request (R7). -/
def State.openStrip (s : State) (h : Nat) : State :=
  let s := s.boundary h
  if (s.order h).isEmpty then s.modCtx h fun c => { c with atWait := true }
  else s.modCtx h (beginStrip (s.stripGrant h (s.order h).length (s.ctx h).loop.rem))

/-- Between strips of a `.seq` loop: begins the next one when it may. In a splice P waits for C to finish
the strip, and C for P; neither goes on before the other is in its loop (R331). -/
def State.leaveGap (s : State) (h : Nat) : State :=
  let l := (s.ctx h).loop
  match s.spliceMate h with
  | none => s.openStrip h
  | some m =>
    let o := (s.ctx m).loop
    if s.isConsumer h then
      let ready := if o.mode ≠ .off then o.next else if (s.splice h).pAt = 2 then l.count else 0
      if ready ≤ l.next then s else s.modCtx h (beginStrip (ready - l.next))
    else if o.mode ≠ .off ∧ o.next ≠ l.next then s
    else if l.rem = 0 then (s.boundary h).modCtx h closeLoop
    else if o.mode = .off ∨ s.pointPending h then s
    else s.openStrip h

/-- Whether a slot of a `.ind` loop is free to take a strip: it runs none, in a splice of either context, and its
cluster is not leaving (R10, R164, R331). -/
def State.slotFree (s : State) (h slot : Nat) : Bool :=
  let busy (c : Ctx) : Bool := c.loop.strips.any (·.slot = slot)
  !busy (s.ctx h) && (match s.spliceMate h with
    | some m => !busy (s.ctx m)
    | none => true) &&
  match (s.order h)[slot]? with
  | some q => (s.cluster q).owner == some h
  | none => false

/-- Whether the other context of a splice is in its `.ind` loop, so that a strip may go to both (R331). -/
def State.mateInLoop (s : State) (h : Nat) : Bool :=
  match s.spliceMate h with
  | some m => (s.ctx m).loop.mode = .ind
  | none => true

/-- A cluster of a `.ind` loop takes the next strip (R10, R164): of several free ones the lowest slot does. Nothing
happens while it may not; while the context holds no cluster it waits (R7). -/
def State.takeStrip (s : State) (h slot : Nat) : State :=
  let l := (s.ctx h).loop
  if l.mode ≠ .ind ∨ l.halt ∨ l.rem = 0 ∨ !(s.ctx h).inBody ∨ s.isConsumer h ∨ !s.mateInLoop h ∨ s.pointPending h then s
  else
    let s := s.boundary h
    let n := (s.order h).length
    if n = 0 then s.modCtx h fun c => { c with atWait := true }
    else if (List.range n).find? (s.slotFree h) ≠ some slot then s
    else
      let g := s.stripGrant h 1 l.rem
      s.modCtx h fun c => { c with
        atWait := false
        loop := { c.loop with
          base := c.loop.base + g, rem := c.loop.rem - g
          strips := c.loop.strips ++ [{ slot := slot, base := c.loop.base, size := g, vl := g, off := 0
                                        stop := none, first := c.loop.base, fin := c.loop.base + g }] } }

def execIndStripTake (hart slot : Nat) (s : State) : Out := .next (s.takeStrip hart slot)

/-! `vsetl`, `vsetlr`. -/

/-- R160: `new` is the requested configuration. -/
def configure (o : T48) (new : Word) (s : State) : State :=
  let h := s.hart
  match s.runningThread h with
  | some m => s.stallThreads h m
  | none =>
    let s := s.boundary h
    if !vtyValid new then
      ((s.modCtx h fun c => { c with vty := 0x8000000000000000, vl := 0 }).wx o.d 0).retire 6
    else
      let n := (s.order h).length
      let avl := if o.a = 0#5 then vlmaxOf n new else (s.rx o.a).toNat
      let vl := grantOf { s.ctx h with vty := new } n avl
      ((s.modCtx h fun c => { c with vty := new, vl := vl }).wx o.d (BitVec.ofNat 64 vl)).retire 6

def execVsetl (o : T48) (s : State) : Out :=
  ctStep s (t48Bits (0x01, 0x00) o) (configure o (o.aux.zeroExtend 64))
def execVsetlr (o : T48) (s : State) : Out :=
  ctStep s (t48Bits (0x01, 0x01) o) fun s => configure o (s.rx o.b) s

/-! `vloop.seq`, `vloop.ind`, `vnext`. -/

/-- The loop context at entry, and the streams that the body uses standing at the loop's start (R230). -/
def enterLoop (mode : LoopMode) (count : Nat) (body : List Byte) (used : List Nat) (c : Ctx) : Ctx :=
  { c with
    loop := { mode := mode, sup := c.mode = .supervisor, count := count, rem := count, base := 0, size := 0, savedVl := c.vl
              start := c.pc, body := body, strips := [], halt := false, gap := true }
    streams := used.foldl (fun v n =>
      let t := v.toArray.getD n {}
      v.setIfInBounds n { t with inLoop := true, loopPos := t.pos }) c.streams }

/-- Runs a checked loop: none of it with a count of 0, else its first strip, or in a splice the wait for the
other context (R331). -/
def State.startLoop (s : State) (mode : LoopMode) (count : Nat) (body : List Byte) (used : List Nat) : State :=
  let h := s.hart
  let skip (s : State) : State := (s.retire 6).modCtx h fun c => { c with pc := c.pc + BitVec.ofNat 64 body.length }
  match s.spliceMate h with
  | none =>
    if count = 0 then skip s
    else
      let s := s.boundary h
      if (s.order h).isEmpty then s.wait
      else
        let s := (s.retire 6).modCtx h (enterLoop mode count body used)
        if mode = .seq then s.openStrip h else s
  | some _ =>
    let sp := s.splice h
    let consumer := s.isConsumer h
    let mine := if consumer then sp.cAt else sp.pAt
    let other := if consumer then sp.pAt else sp.cAt
    let mark (s : State) (v : Nat) : State :=
      let sp := s.splice h
      { s with splices := sparsePut s.splices (s.holder h) (if consumer then { sp with cAt := v } else { sp with pAt := v }) }
    if count ≠ sp.count ∨ mine = 2 then s.trap 28 0
    else if count = 0 then skip (mark s 2)
    else if other = 0 then (mark s 1).stall
    else (((mark s 2).retire 6).modCtx h (enterLoop mode count body used))

/-- `vloop` (R162, R165, R230). -/
def vloopOp (bits : Word) (o : T48) (mode : LoopMode) (s : State) : State :=
  let h := s.hart
  let c := s.ctx h
  let lmul := vtyLmul c.vty
  if vtyVill c.vty then s.illegal bits
  else
    match captureBody h lmul 64 (c.pc + 6) [] [] none s with
    | (.error (cause, tv), s) => s.trap cause tv
    | (.ok (_, _, some b, _), s) => s.illegal b
    | (.ok (body, is, none, found), s) =>
      if !found || bodyBanned (mode = .ind) is || (c.handler && c.loop.mode ≠ .off) then s.trap 28 0
      else
        let used := bodyStreams c lmul is c.ldst
        if is.any bindsStream ∨ used.eraseDups.length ≠ used.length then s.trap 29 0
        else s.startLoop mode (s.rx o.a).toNat body used

def execVloopSeq (o : T48) (s : State) : Out :=
  ctStep s (t48Bits (0x01, 0x02) o) (vloopOp (t48Bits (0x01, 0x02) o) o .seq)
def execVloopInd (o : T48) (s : State) : Out :=
  ctStep s (t48Bits (0x01, 0x03) o) (vloopOp (t48Bits (0x01, 0x03) o) o .ind)

/-- `vnext` of a `.seq` strip (R163): `vl` iterations are done; C of a splice has done those of P's strip (R331). The
last one is a strip boundary too (R10). -/
def nextSeq (s : State) (h : Nat) : State :=
  let s := s.retire 6
  let n := if s.isConsumer h then (s.ctx h).loop.size else (s.ctx h).vl
  let s := s.modCtx h fun c => { c with
    pc := c.loop.start
    loop := { c.loop with rem := c.loop.rem - n, gap := true } }
  if (s.ctx h).loop.rem = 0 ∧ (s.spliceMate h = none ∨ s.isConsumer h) then (s.boundary h).modCtx h closeLoop else s

/-- `vnext` of a `.ind` strip (R164): the strip is complete, and a cluster that is leaving detaches (R10); in a splice
C's body follows P's in the same cluster (R331). -/
def nextInd (s : State) (h slot : Nat) : State :=
  let c := s.ctx h
  let strip := (stripOf c slot).getD (noStrip slot)
  let s := s.setCtx h { c.endSkip with
    instret := c.instret + 1
    loop := { c.loop with strips := c.loop.strips.filter (·.slot ≠ slot) } }
  let s := match s.spliceMate h with
    | some m =>
      if s.isConsumer h then s.modCtx h fun c => { c with loop := { c.loop with rem := c.loop.rem - strip.size } }
      else s.modCtx m fun c => { c with loop := { c.loop with
        strips := c.loop.strips ++ [{ strip with off := 0, vl := strip.size, stop := none }] } }
    | none => s
  let s := s.boundary h
  let closed (s : State) (k : Nat) : State := s.modCtx k (fun c => endInd (settleInd c))
  match s.spliceMate h with
  | none => closed s h
  | some m =>
    let s := s.modCtx h settleInd
    if s.isConsumer h ∧ (s.ctx h).loop.strips.isEmpty ∧ (s.ctx m).loop.strips.isEmpty then closed (closed s h) m else s

def execVnext (o : T48) (s : State) : Out :=
  ctStep s (t48Bits (0x01, 0x04) o) fun s =>
    let h := s.hart
    let c := s.ctx h
    if vtyVill c.vty then s.illegal (t48Bits (0x01, 0x04) o)
    else if !c.inBody then s.trap 28 0
    else match s.who with
      | .ind _ slot => nextInd s h slot
      | _ => nextSeq s h

/-! `vsidx`, `vidx`, `lpset`, `wbase`. -/

/-- d ← base + i, wrapped to SEW (R167). -/
def indexOp (c : BitVec 6 × BitVec 6) (o : T48) (strip : Bool) (s : State) : Out :=
  let form := vform c o [] false
  vectorStep form s fun x s =>
    vcommit form x true (x.acts.map fun e =>
      (e, x.taint s form.gm e (.ok (BitVec.ofNat 32 (((if strip then x.v.base else 0) + e) % 2 ^ x.v.bits), false)))) s

def execVsidx (o : T48) (s : State) : Out := indexOp (0x01, 0x05) o true s
def execVidx (o : T48) (s : State) : Out := indexOp (0x01, 0x06) o false s

def execLpset (o : T48) (s : State) : Out :=
  ctStep s (t48Bits (0x01, 0x07) o) fun s => sendMove o.d (s.rx o.a) (s.rx o.b) s

/-- The address of offset 0 of a window (R26, R169). -/
def windowAddr (n : Nat) : Word := BitVec.ofNat 64 (0xFFFFF00000000000 + n * 2 ^ 40)

def execWbase (o : T48) (s : State) : Out :=
  ctStep s (t48Bits (0x01, 0x08) o) fun s => (s.wx o.d (windowAddr o.a.toNat)).retire 6

end Sys2Proof.Machine
end

