-- ==== Sys2Proof/Machine/Micro.lean ====
section
/-! DEFINITION. The UCTL group (R242 to R250): entering a block, starting, waiting for, resuming and killing
micro-threads, and the ends of the link chain. -/

namespace Sys2Proof.Machine
open Sys2Proof

/-- The link-in queue of number i; the number after the last cluster's is the CT's end of the chain (R249). DESIGN CHOICE
(log 91): so it is for every number beyond the clusters' 128 each, which a `vl` above them (SEW 16, LMUL above 1) names
and R249 gives no micro-thread. -/
def State.linkQ (s : State) (h i : Nat) : List (BitVec 32 × Bool) :=
  if i < 128 * (s.order h).length then (s.thread h i).linkIn else (s.ctx h).linkOut
def State.setLinkQ (s : State) (h i : Nat) (q : List (BitVec 32 × Bool)) : State :=
  if i < 128 * (s.order h).length then s.setThread h i { s.thread h i with linkIn := q }
  else s.modCtx h fun c => { c with linkOut := q }

/-- What is on the link from number i to the next (R258): the queue at the next number, then what i has sent as the end of
a strip. The two hold two entries together. -/
def State.linkFrom (s : State) (h i : Nat) : List (BitVec 32 × Bool) := s.linkQ h (i + 1) ++ (s.thread h i).linkOut

/-- The link without its oldest entry. -/
def State.popLink (s : State) (h i : Nat) : State :=
  if (s.linkQ h (i + 1)).isEmpty then s.setThread h i { s.thread h i with linkOut := (s.thread h i).linkOut.tail }
  else s.setLinkQ h (i + 1) (s.linkQ h (i + 1)).tail

/-- The link with another content, all of it at the next number. -/
def State.setLink (s : State) (h i : Nat) (q : List (BitVec 32 × Bool)) : State :=
  (s.setThread h i { s.thread h i with linkOut := [] }).setLinkQ h (i + 1) q

/-- Whether number i reads the link from the number before it: it is no first one, of the context or of its strip (R258). -/
def readsLink (m : Mt) (i : Nat) : Bool := i ≠ 0 && !(m.strip && i % 128 == 0)

/-! Blocks (R242). -/

/-- The terminators `stop`, `next` and `nextif`. -/
def endsBlock (w : Word) : Bool := 0x27 ≤ w.toNat % 256 && w.toNat % 256 ≤ 0x29

/-- Fetches a block from an instruction index up to its first terminator: an error is a cause and the
address of what could not be fetched. -/
def enterBlock (base : Word) (size : Nat) : Nat → Nat → State → Except (Nat × Word) (List Word) × State
  | 0, _, s => (.error (2, 0), s)
  | n + 1, k, s =>
    let a := base + BitVec.ofNat 64 (8 * k)
    if size ≤ 8 * k then (.error (1, a), s)
    else
      after (s.fetchBytes a 8) fun bs s =>
        let w := BitVec.ofNat 64 (leNat bs)
        if endsBlock w then (.ok [w], s)
        else after (enterBlock base size n (k + 1) s) fun t s => (.ok (w :: t), s)

def State.enter (s : State) (h k : Nat) : Except (Nat × Word) (List Word) × State :=
  match (s.ctx h).unit with
  | some u => enterBlock u.blkBase u.blkSize 32 k s
  | none => (.error (1, 0), s)

/-! `vfetch`, `vfetchr`. -/

/-- Starts the elements' micro-threads on a block (R243, R245). What one has stored as a party of its own stays in its own
queue (R81). -/
def startThreads (v : View) (acts : List Nat) (block : List Word) (k : Nat) (s : State) : State :=
  let h := v.hart
  let c := s.ctx h
  let ind := s.isInd
  acts.foldl (fun s e =>
    let i := v.mt0 + e
    let m := s.thread h i
    s.setThread h i { m with
      state := .running, next := k, block := block, fault := none, own := false, ppc := s.pc
      rm := c.vrm.extractLsb' 0 3, sat := c.vrm.getLsbD 3, fz := vtyFz c.vty, dz := vtyDz c.vty
      strip := ind, tail := ind && e + 1 == v.vl }) s

/-- How far a `vfetch` of the moving agent has come: its next element and its block. -/
def State.fetching (s : State) : Option (Nat × List Word) :=
  match s.who with
  | .ind h slot => (stripOf (s.ctx h) slot).bind (·.fetching)
  | _ => (s.ctx s.hart).fetching
def State.setFetching (s : State) (f : Option (Nat × List Word)) : State :=
  match s.who with
  | .ind h slot => s.modCtx h fun c => modStrip c slot fun t => { t with fetching := f }
  | _ => s.modCtx s.hart fun c => { c with fetching := f }

/-- R245: the active elements start in order, from `e0` on, up to one whose micro-thread runs. A governing mask bit is
touched as its element and so waits for its micro-thread too (R250). What has been started stays so: the instruction goes
on there in a later step, and takes no interrupt in between (DESIGN CHOICE, log 89). -/
def startFrom (v : View) (gm k e0 : Nat) (block : List Word) (s : State) : State :=
  let acts := s.actives v gm
  let busy (e : Nat) : Bool := e0 ≤ e && (s.thread v.hart (v.mt0 + e)).state = .running && (gm ≠ 0 || acts.contains e)
  match (List.range v.vl).find? busy with
  | some e =>
    ((startThreads v (acts.filter fun i => e0 ≤ i && i < e) block k s).setFetching (some (e, block))).stallFor 6
      (s.thread v.hart (v.mt0 + e)).ppc (v.lag ((List.range v.vl).filter busy) e)
  | none => (((startThreads v (acts.filter (e0 ≤ ·)) block k s).setFetching none).clearMf v).retire 6

/-- R245. A block must be enterable even where no micro-thread starts; the trap value of a block without a
terminator is the instruction's own bits (R125, DEDUCED). Without a cluster the instruction waits (R7). -/
def fetchBlock (bits : Word) (gm k : Nat) (s : State) : State :=
  let v := s.view
  let c := s.ctx v.hart
  if vtyVill c.vty ∨ c.vty.extractLsb' 0 4 ≠ 2#4 then s.illegal bits
  else if 2 ^ 23 ≤ k then s.trap 1 (((c.unit.map (·.blkBase)).getD 0) + BitVec.ofNat 64 (8 * k))
  else if v.all.isEmpty then s.wait
  else match s.fetching with
    | some (e, block) => startFrom v gm k e block s
    | none =>
      match s.enter v.hart k with
      | (.error (cause, a), s) => s.trap cause (if cause = 2 then bits else a)
      | (.ok block, s) => startFrom v gm k 0 block s

/-- The index in the encoding of `vfetch` (R137). -/
def blockIndex (o : T48) : Nat := (o.aux ++ o.b ++ o.a ++ o.d).toNat

def execVfetch (o : T48) (s : State) : Out :=
  let bits := t48Bits (0x02, 0x00) o
  ctStep s bits (fetchBlock bits o.gm.toNat (blockIndex o))
def execVfetchr (o : T48) (s : State) : Out :=
  let bits := t48Bits (0x02, 0x01) o
  ctStep s bits fun s => fetchBlock bits o.gm.toNat (s.rx o.a).toNat s

/-! `uwait`, `ufstat`, `uresume`, `ukill`, over the numbers below VLMAX. -/

/-- A UCTL instruction over every micro-thread number below VLMAX: `k` gets the view and the numbers' elements. DESIGN
CHOICE (log 90): in a `.ind` body these are the numbers of the strip's own cluster, which R245 makes the elements there;
R246 to R248 speak of the context's without naming the case. -/
def uctl (op : BitVec 6) (o : T48) (s : State) (k : View → List Nat → State → State) : Out :=
  let bits := t48Bits (0x02, op) o
  ctStep s bits fun s =>
    if vtyVill (s.ctx s.hart).vty then s.illegal bits
    else k s.view (List.range s.view.vlmax) s

/-- The micro-thread of an element; elements beyond the clusters' 128 each have none. -/
def State.threadOf (s : State) (v : View) (e : Nat) : Mt :=
  if e < 128 * v.n then s.thread v.hart (v.mt0 + e) else {}

def firstRunning (s : State) (v : View) (es : List Nat) : Option Mt :=
  (es.find? fun e => (s.threadOf v e).state = .running).map (s.threadOf v)

/-- A wait for the running micro-threads among some elements, m the first (R459). -/
def stallOnThreads (v : View) (es : List Nat) (m : Mt) (s : State) : State :=
  let l := es.filter fun e => (s.threadOf v e).state = .running
  s.stallFor 6 m.ppc (v.lag l (l.headD 0))

/-- The stores of micro-threads that no longer run count as the context's own, and earlier (R81). -/
def joinStopped (s : State) (h : Nat) : State := s.joinThreads h fun _ m => m.state ≠ .running

/-- R246. -/
def execUwait (o : T48) (s : State) : Out :=
  uctl 0x02 o s fun v es s =>
    match firstRunning s v es with
    | some m => stallOnThreads v es m s
    | none =>
      let bad (e : Nat) : Bool := (s.threadOf v e).state = .faulted
      if o.d = 0#5 then
        match es.find? bad with
        | some e => s.trap 30 (BitVec.ofNat 64 (v.mt0 + e))
        | none => (joinStopped s v.hart).retire 6
      else ((joinStopped (es.foldl (fun s e => s.setMaskBit v o.d.toNat e (bad e) false) s) v.hart)).retire 6

/-- What `ufstat` reports of a micro-thread (R247). -/
def faultReport (m : Mt) (sel : Nat) : BitVec 32 :=
  match m.state, m.fault with
  | .faulted, some (cause, k, off) =>
    if sel = 1 then BitVec.ofNat 32 (k % 2 ^ 24 * 256 + cause) else off
  | _, _ => 0

def execUfstat (o : T48) (s : State) : Out :=
  uctl 0x03 o s fun v es s =>
    let c := s.ctx v.hart
    let bits := t48Bits (0x02, 0x03) o
    if o.b = 0#5 then
      if 8 ≤ o.d.toNat then s.illegal bits
      else match firstRunning s v es with
        | some m => stallOnThreads v es m s
        | none =>
          (es.foldl (fun s e => s.setMaskBit v o.d.toNat e ((s.threadOf v e).state = .faulted) false) s).retire 6
    else if o.d.toNat % v.lmul ≠ 0 then s.illegal bits
    else if (c.streamOf v.lmul o.d.toNat).isSome then s.trap 29 0
    else match firstRunning s v es with
      | some m => stallOnThreads v es m s
      | none => whenLoaded v.hart v.lmul [(o.d.toNat, false)] (v.lag es 0) s fun s =>
        let s := s.putElems v o.d.toNat (es.map fun e =>
          (e, v.scalar ((faultReport (s.threadOf v e) o.b.toNat).zeroExtend 64), false))
        (s.modCtx v.hart fun c => { c with ldst := o.d }).retire 6

/-- The elements a mask selects; a poisoned bit below VLMAX raises cause 26 (R248). -/
def selected (o : T48) (v : View) (es : List Nat) (s : State) (k : List Nat → State → State) : State :=
  match es.find? fun e => (s.maskBit v o.a.toNat e).2 with
  | some e => s.trap 26 (BitVec.ofNat 64 e)
  | none => (k ((es.filter fun e => (s.maskBit v o.a.toNat e).1).filter (· < 128 * v.n)) s).retire 6

/-- A faulted micro-thread runs again, thread-fetched, from its faulting instruction (R248). -/
def resumeThread (m : Mt) : Mt :=
  match m.state, m.fault with
  | .faulted, some (_, k, _) => { m with state := .running, next := k, block := [], fault := none, own := true }
  | _, _ => m

def execUresume (o : T48) (s : State) : Out :=
  uctl 0x04 o s fun v es s => selected o v es s fun l s =>
    l.foldl (fun s e => s.setThread v.hart (v.mt0 + e) (resumeThread (s.threadOf v e))) s

/-- `ukill` of micro-thread i of a context, or a stop as under it: both its link queues lose what they hold (R248). -/
def State.killNumber (s : State) (h i : Nat) : State :=
  let m := s.thread h i
  match m.state with
  | .stopped => s
  | _ =>
    let s := s.setThread h i { m with state := .stopped, fault := none, block := [], linkIn := [] }
    let s := if readsLink m i then s.setThread h (i - 1) { s.thread h (i - 1) with linkOut := [] } else s
    s.setLink h i []

def killThread (v : View) (s : State) (e : Nat) : State := s.killNumber v.hart (v.mt0 + e)

def execUkill (o : T48) (s : State) : Out :=
  uctl 0x05 o s fun v es s => selected o v es s fun l s => l.foldl (killThread v) s

/-! `vlinkin`, `vlinkout` (R249). -/

/-- How far the chain is behind the micro-thread that `vlinkout` waits for (R459, log 115): the element it needs, less those at
the front of the chain that no longer run. -/
def State.chainLag (s : State) (v : View) : Nat :=
  v.vl - 1 - ((List.range (v.vl - 1)).takeWhile fun e => (s.threadOf v e).state ≠ .running).length

/-- What the link-out queue of number i holds, and the state with its oldest entry popped (R258). A number beyond the
clusters' 128 each has sent nothing: its queue is the CT's end of the chain (log 91). -/
def State.outOf (s : State) (v : View) (i : Nat) : List (BitVec 32 × Bool) × State :=
  if i < 128 * (s.order v.hart).length then (s.linkFrom v.hart i, s.popLink v.hart i)
  else (s.linkQ v.hart (i + 1), s.setLinkQ v.hart (i + 1) (s.linkQ v.hart (i + 1)).tail)

def execVlinkin (o : T48) (s : State) : Out :=
  uctl 0x06 o s fun v _ s =>
    if v.vl = 0 then s.retire 6
    else
      let q := s.linkQ v.hart v.mt0
      if 2 ≤ q.length then s.waitFor 8 (s.thread v.hart v.mt0).ppc 0
      else (s.setLinkQ v.hart v.mt0 (q ++ [((s.rx o.a).setWidth 32, false)])).retire 6

def execVlinkout (o : T48) (s : State) : Out :=
  uctl 0x07 o s fun v _ s =>
    if v.vl = 0 then (s.wx o.d 0).retire 6
    else
      let (q, t) := s.outOf v (v.mt0 + v.vl - 1)
      match q with
      | [] => s.waitFor 8 (s.thread v.hart (v.mt0 + v.vl - 1)).ppc (s.chainLag v)
      | (x, p) :: _ => if p then s.trap 26 0 else (t.wx o.d (x.signExtend 64)).retire 6

end Sys2Proof.Machine
end

