-- ==== Sys2Proof/Machine/VectorFloat.lean ====
section
/-! DEFINITION. VFA (R189 to R196) and the floating K16 forms (R132). -/

namespace Sys2Proof.Machine
open Sys2Proof

/-! What each op computes from lane values; the micro-threads compute with the same functions at SEW 32. -/

def fAdd (v : View) (rm : BitVec 3) (a b : BitVec 32) : BitVec 32 := v.fout rm (xadd rm (v.xv a) (v.xv b))
def fSub (v : View) (rm : BitVec 3) (a b : BitVec 32) : BitVec 32 := v.fout rm (xadd rm (v.xv a) (xneg (v.xv b)))
def fMul (v : View) (rm : BitVec 3) (a b : BitVec 32) : BitVec 32 := v.fout rm (xmul (v.xv a) (v.xv b))
def fDiv (v : View) (rm : BitVec 3) (a b : BitVec 32) : BitVec 32 := v.fout rm (xdiv (v.xv a) (v.xv b))
/-- a × b + c with one rounding; 0 × ∞ is NaN whatever c is (R190). -/
def fMa (v : View) (rm : BitVec 3) (a b c : BitVec 32) : BitVec 32 :=
  v.fout rm (xadd rm (xmul (v.xv a) (v.xv b)) (v.xv c))
def fMs (v : View) (rm : BitVec 3) (a b c : BitVec 32) : BitVec 32 :=
  v.fout rm (xadd rm (xmul (v.xv a) (v.xv b)) (xneg (v.xv c)))
def fNma (v : View) (rm : BitVec 3) (a b c : BitVec 32) : BitVec 32 :=
  v.fout rm (xadd rm (v.xv c) (xneg (xmul (v.xv a) (v.xv b))))

def isNan (v : View) (n : Nat) : Bool := (laneFp v.sb).decode n = .nan
def signOf (v : View) (n : Nat) : Bool := n / (laneFp v.sb).signBit % 2 = 1

/-- The unrounded result of an op that returns or re-signs an input: FZ applies (R47). -/
def View.pass (v : View) (n : Nat) : BitVec 32 := BitVec.ofNat 32 (flush (vtyFz v.vty) (laneFp v.sb) n)

/-- R191: whether a is below b, with −0 below +0. -/
def fBelow (v : View) (a b : Nat) : Bool :=
  match xcmp ((laneFp v.sb).decode a) ((laneFp v.sb).decode b) with
  | some .lt => true
  | some .eq => signOf v a && !signOf v b
  | _ => false

/-- `vfmin` and `vfmax` (R191). -/
def fPick (v : View) (max : Bool) (x y : BitVec 32) : BitVec 32 :=
  let a := v.fin x
  let b := v.fin y
  if isNan v a then (if isNan v b then v.pass (laneFp v.sb).nanBits else v.pass b)
  else if isNan v b then v.pass a
  else if max then v.pass (if fBelow v a b then b else a)
  else v.pass (if fBelow v b a then b else a)
def fMin (v : View) (a b : BitVec 32) : BitVec 32 := fPick v false a b
def fMax (v : View) (a b : BitVec 32) : BitVec 32 := fPick v true a b

/-- R193: a magnitude with a sign; a NaN magnitude is the canonical NaN. -/
def fSign (v : View) (x : BitVec 32) (neg : Bool → Bool) : BitVec 32 :=
  let a := v.fin x
  if isNan v a then v.pass (laneFp v.sb).nanBits
  else v.pass (sgnMag (laneFp v.sb) (neg (signOf v a)) (a % (laneFp v.sb).signBit))

/-- R195. -/
def fClass (v : View) (x : BitVec 32) : BitVec 32 :=
  let p := laneFp v.sb
  let a := v.fin x
  let neg := signOf v a
  let m := a % p.signBit
  let k :=
    if p.infMag < m then (if m / 2 ^ (p.mb - 1) % 2 = 1 then 9 else 8)
    else if m = p.infMag then (if neg then 0 else 7)
    else if m = 0 then (if neg then 3 else 4)
    else if m < 2 ^ p.mb then (if neg then 2 else 5)
    else if neg then 1 else 6
  BitVec.ofNat 32 (2 ^ k)

/-- An FP32 value rounded to BF16 precision, in an FP32 lane (R194). -/
def fToBf (v : View) (rm : BitVec 3) (sat : Bool) (a : BitVec 32) : BitVec 32 :=
  BitVec.ofNat 32 (flush (vtyFz v.vty) bf16 (bf16.round rm sat false (v.xv a)) * 65536)

/-- A value rounded to an integral value of the lane (R194). An infinity is unchanged: the conversion is
exact (R44). DEDUCED (log 20). -/
def fIntegral (v : View) (rm : BitVec 3) (sat : Bool) (a : BitVec 32) : BitVec 32 :=
  let r : Xv := match v.xv a with
    | .fin neg n d => .fin neg (roundInt rm neg n d) 1
    | x => x
  BitVec.ofNat 32 (flush (vtyFz v.vty) (laneFp v.sb) ((laneFp v.sb).round rm sat true r))

/-- R194: conversion code k. -/
def fConvert (v : View) (k : Nat) (rm : BitVec 3) (sat : Bool) (a : BitVec 32) : BitVec 32 :=
  let out (x : Xv) : BitVec 32 := BitVec.ofNat 32 (flush (vtyFz v.vty) (laneFp v.sb) ((laneFp v.sb).round rm sat false x))
  match k with
  | 0 => BitVec.ofNat 32 (toInteger true v.bits rm sat (v.xv a))
  | 1 => BitVec.ofNat 32 (toInteger false v.bits rm sat (v.xv a))
  | 2 => out (intXv (intOf true v.bits a.toNat))
  | 3 => out (intXv (intOf false v.bits a.toNat))
  | 4 => fToBf v rm sat a
  | _ => fIntegral v rm sat a

def fEq (v : View) (a b : BitVec 32) : Bool := xcmp (v.xv a) (v.xv b) = some .eq
def fLt (v : View) (a b : BitVec 32) : Bool := xcmp (v.xv a) (v.xv b) = some .lt
def fLe (v : View) (a b : BitVec 32) : Bool := fEq v a b || fLt v a b

/-! The instructions. -/

def fOp2 (op : BitVec 6) (o : T48) (f : View → BitVec 3 → BitVec 32 → BitVec 32 → BitVec 32) (s : State) : Out :=
  laneOp (0x04#6, op) o true false false (fun v rm _ a b => f v rm a b) s
def fOp3 (op : BitVec 6) (o : T48) (f : View → BitVec 3 → BitVec 32 → BitVec 32 → BitVec 32 → BitVec 32) (s : State) : Out :=
  laneOp (0x04#6, op) o true true false (fun v rm d a b => f v rm a b d) s
def fOp1 (op : BitVec 6) (o : T48) (f : View → BitVec 3 → BitVec 32 → BitVec 32) (s : State) : Out :=
  laneOp (0x04#6, op) o false false false (fun v rm _ a _ => f v rm a) s

def execVfadd (o : T48) (s : State) : Out := fOp2 0x00#6 o fAdd s
def execVfsub (o : T48) (s : State) : Out := fOp2 0x01#6 o fSub s
def execVfmul (o : T48) (s : State) : Out := fOp2 0x02#6 o fMul s
def execVfma (o : T48) (s : State) : Out := fOp3 0x03#6 o fMa s
def execVfms (o : T48) (s : State) : Out := fOp3 0x04#6 o fMs s
def execVfnma (o : T48) (s : State) : Out := fOp3 0x05#6 o fNma s
def execVfmin (o : T48) (s : State) : Out := fOp2 0x06#6 o (fun v _ => fMin v) s
def execVfmax (o : T48) (s : State) : Out := fOp2 0x07#6 o (fun v _ => fMax v) s
def execVfdiv (o : T48) (s : State) : Out := fOp2 0x08#6 o fDiv s
def execVfsqrt (o : T48) (s : State) : Out := fOp1 0x09#6 o (fun v rm a => v.fout rm (xsqrt (v.xv a))) s
def execVfrcp (o : T48) (s : State) : Out := fOp1 0x0A#6 o (fun v rm a => v.fout rm (xrcp (v.xv a))) s
def execVfrsq (o : T48) (s : State) : Out := fOp1 0x0B#6 o (fun v rm a => v.fout rm (xrsq (v.xv a))) s
def execVfexp2 (o : T48) (s : State) : Out := fOp1 0x0C#6 o (fun v rm a => v.fout rm (xexp2 (v.xv a))) s
def execVflog2 (o : T48) (s : State) : Out := fOp1 0x0D#6 o (fun v rm a => v.fout rm (xlog2 (v.xv a))) s
def execVfabs (o : T48) (s : State) : Out := fOp1 0x0E#6 o (fun v _ a => fSign v a fun _ => false) s
def execVfneg (o : T48) (s : State) : Out := fOp1 0x0F#6 o (fun v _ a => fSign v a fun n => !n) s
/-- Source b gives its sign bit, after DZ and whatever else it holds (R193). -/
def execVfsgn (o : T48) (s : State) : Out :=
  fOp2 0x10#6 o (fun v _ a b => fSign v a fun _ => signOf v b.toNat) s

/-- R194: code 0b100 is illegal at SEW 16. -/
def execVfcvt (o : T48) (s : State) : Out :=
  let k := (o.aux.extractLsb' 3 3).toNat
  let sat := (s.ctx s.hart).vrm.getLsbD 3
  if k = 4 ∧ s.view.sb = 2 then ctStep s (t48Bits (0x04#6, 0x11#6) o) fun s => s.illegal (t48Bits (0x04#6, 0x11#6) o)
  else fOp1 0x11#6 o (fun v rm a => fConvert v k rm sat a) s

def execVfclass (o : T48) (s : State) : Out := fOp1 0x12#6 o (fun v _ a => fClass v a) s
def execVfeq (o : T48) (s : State) : Out := maskOp (0x04#6, 0x13#6) o fEq s
def execVflt (o : T48) (s : State) : Out := maskOp (0x04#6, 0x14#6) o fLt s
def execVfle (o : T48) (s : State) : Out := maskOp (0x04#6, 0x15#6) o fLe s

def kBits (kop : BitVec 4) (vt vs : Reg) (q : BitVec 2) : Word := (encK kop vt vs q).setWidth 64

def execVfaddK (vs : Reg) (s : State) : Out :=
  lastOp (kBits 1#4 0#5 vs 0#2) [vs.toNat] (fun v rm l a _ => fAdd v rm l a) s
def execVfsubK (vs : Reg) (s : State) : Out :=
  lastOp (kBits 2#4 0#5 vs 0#2) [vs.toNat] (fun v rm l a _ => fSub v rm l a) s
def execVfmulK (vs : Reg) (s : State) : Out :=
  lastOp (kBits 3#4 0#5 vs 0#2) [vs.toNat] (fun v rm l a _ => fMul v rm l a) s
def execVfmaK (vs vt : Reg) (s : State) : Out :=
  lastOp (kBits 4#4 vt vs 0#2) [vs.toNat, vt.toNat] (fun v rm l a b => fMa v rm a b l) s
def execVfmaxK (vs : Reg) (s : State) : Out :=
  lastOp (kBits 5#4 0#5 vs 0#2) [vs.toNat] (fun v _ l a _ => fMax v l a) s
def execVfminK (vs : Reg) (s : State) : Out :=
  lastOp (kBits 6#4 0#5 vs 0#2) [vs.toNat] (fun v _ l a _ => fMin v l a) s

end Sys2Proof.Machine
end

