-- ==== Sys2Proof/Machine/VectorInt.lean ====
section
/-! DEFINITION. VIA (R197 to R200) and the integer K16 forms (R132). -/

namespace Sys2Proof.Machine
open Sys2Proof

/-! What each op computes: lane values are SEW bits wide, in the low bits. -/

def View.wrap (v : View) (x : BitVec 32) : BitVec 32 := if v.sb = 2 then x &&& 0xFFFF else x
def View.sint (v : View) (x : BitVec 32) : Int := intOf true v.bits x.toNat
def View.uint (v : View) (x : BitVec 32) : Nat := x.toNat % 2 ^ v.bits
def View.ofInt (v : View) (i : Int) : BitVec 32 := BitVec.ofNat 32 (bitsOfInt v.bits i)

def iMulh (v : View) (a b : BitVec 32) : BitVec 32 := v.ofInt (v.sint a * v.sint b / (2 ^ v.bits : Nat))
def iMulhn (v : View) (a b : BitVec 32) : BitVec 32 := v.ofInt (v.uint a * v.uint b / 2 ^ v.bits : Nat)
/-- R198: the amount is the unsigned value of b. -/
def iSll (v : View) (a b : BitVec 32) : BitVec 32 :=
  if v.uint b < v.bits then v.wrap (a <<< v.uint b) else 0
def iSrl (v : View) (a b : BitVec 32) : BitVec 32 :=
  if v.uint b < v.bits then v.wrap a >>> v.uint b else 0
def iSra (v : View) (a b : BitVec 32) : BitVec 32 :=
  v.ofInt (v.sint a / (2 ^ Nat.min (v.uint b) v.bits : Nat))

def iOp (op : BitVec 6) (o : T48) (f : View → BitVec 32 → BitVec 32 → BitVec 32) (s : State) : Out :=
  laneOp (0x05#6, op) o true false false (fun v _ _ a b => v.wrap (f v a b)) s
def shiftOp (op : BitVec 6) (o : T48) (f : View → BitVec 32 → BitVec 32 → BitVec 32) (s : State) : Out :=
  laneOp (0x05#6, op) o true false true (fun v _ _ a b => f v a b) s

def execVadd (o : T48) (s : State) : Out := iOp 0x00#6 o (fun _ a b => a + b) s
def execVsub (o : T48) (s : State) : Out := iOp 0x01#6 o (fun _ a b => a - b) s
def execVmul (o : T48) (s : State) : Out := iOp 0x02#6 o (fun _ a b => a * b) s
def execVmulh (o : T48) (s : State) : Out := iOp 0x03#6 o iMulh s
def execVmulhn (o : T48) (s : State) : Out := iOp 0x04#6 o iMulhn s
def execVand (o : T48) (s : State) : Out := iOp 0x05#6 o (fun _ a b => a &&& b) s
def execVor (o : T48) (s : State) : Out := iOp 0x06#6 o (fun _ a b => a ||| b) s
def execVxor (o : T48) (s : State) : Out := iOp 0x07#6 o (fun _ a b => a ^^^ b) s
def execVsll (o : T48) (s : State) : Out := shiftOp 0x08#6 o iSll s
def execVsrl (o : T48) (s : State) : Out := shiftOp 0x09#6 o iSrl s
def execVsra (o : T48) (s : State) : Out := shiftOp 0x0A#6 o iSra s
def execVmin (o : T48) (s : State) : Out := iOp 0x0B#6 o (fun v a b => if v.sint a ≤ v.sint b then a else b) s
def execVmax (o : T48) (s : State) : Out := iOp 0x0C#6 o (fun v a b => if v.sint a ≤ v.sint b then b else a) s
def execVminn (o : T48) (s : State) : Out := iOp 0x0D#6 o (fun v a b => if v.uint a ≤ v.uint b then a else b) s
def execVmaxn (o : T48) (s : State) : Out := iOp 0x0E#6 o (fun v a b => if v.uint a ≤ v.uint b then b else a) s
def execVseq (o : T48) (s : State) : Out := maskOp (0x05#6, 0x0F#6) o (fun v a b => v.uint a == v.uint b) s
def execVslt (o : T48) (s : State) : Out := maskOp (0x05#6, 0x10#6) o (fun v a b => v.sint a < v.sint b) s
def execVsltn (o : T48) (s : State) : Out := maskOp (0x05#6, 0x11#6) o (fun v a b => v.uint a < v.uint b) s

/-- R199: the mask field selects; it governs nothing, so the mask policy has nothing to act on. Only the selected source
counts, its poison and a stream's fault included. -/
def execVmerge (o : T48) (s : State) : Out :=
  let uses := useA o :: (if o.kind = 0 then [useB o] else [])
  let form : VForm := { vform (0x05#6, 0x12#6) o uses false with gm := 0 }
  let m := o.gm.toNat
  vectorStep form s fun x s =>
    vcommit form x true (inTurn (readsOwn o x s) o.d.toNat x (fun s e =>
      let (sel, p) := s.maskBit x.v m e
      (if sel then bElem o false x s e else x.get s o.a.toNat e).map fun (y, q) => (y, q || p)) s) s

/-- R200. -/
def execVmvs (o : T48) (s : State) : Out :=
  let form := vform (0x05#6, 0x13#6) o [] false
  vectorStep form s fun x s =>
    vcommit form x true (x.acts.map fun e => (e, x.taint s form.gm e (bElem o false x s e))) s

/-- R200: element 0 whatever `vl` holds; without a cluster there is none, and xD ← 0. -/
def execVmvx (o : T48) (s : State) : Out :=
  let form : VForm := { vform (0x05#6, 0x14#6) o [useA o] true with
    dst := none, noStream := [o.a.toNat], align := [o.a.toNat] }
  ctStep s form.bits fun s =>
    let v := s.view
    if vtyVill v.vty ∨ o.a.toNat % v.lmul ≠ 0 then s.illegal form.bits
    else if ((s.ctx v.hart).streamOf v.lmul o.a.toNat).isSome then s.trap 29 0
    else if v.n = 0 then (s.wx o.d 0).retire 6
    else if s.mtRuns v 0 then s.stallFor 6 (s.mtAt v 0).ppc 0
    else whenLoaded v.hart v.lmul [(o.a.toNat, o.fa)] 0 s fun s =>
      let (a, p) := s.elem v o.a.toNat 0
      if p then s.trap 26 0
      else ((s.clearMf v).wx o.d (BitVec.ofInt 64 (v.sint a))).retire 6

def execVaddK (vs : Reg) (s : State) : Out :=
  lastOp (kBits 1#4 0#5 vs 1#2) [vs.toNat] (fun v _ l a _ => v.wrap (l + a)) s
def execVsubK (vs : Reg) (s : State) : Out :=
  lastOp (kBits 2#4 0#5 vs 1#2) [vs.toNat] (fun v _ l a _ => v.wrap (l - a)) s
def execVandK (vs : Reg) (s : State) : Out :=
  lastOp (kBits 3#4 0#5 vs 1#2) [vs.toNat] (fun _ _ l a _ => l &&& a) s
def execVorK (vs : Reg) (s : State) : Out :=
  lastOp (kBits 4#4 0#5 vs 1#2) [vs.toNat] (fun _ _ l a _ => l ||| a) s
def execVxorK (vs : Reg) (s : State) : Out :=
  lastOp (kBits 5#4 0#5 vs 1#2) [vs.toNat] (fun _ _ l a _ => l ^^^ a) s
def execVsllK (n : BitVec 5) (s : State) : Out :=
  lastOp (kBits 6#4 n 0#5 1#2) [] (fun v _ l _ _ => iSll v l (n.setWidth 32)) s
def execVsraK (n : BitVec 5) (s : State) : Out :=
  lastOp (kBits 7#4 n 0#5 1#2) [] (fun v _ l _ _ => iSra v l (n.setWidth 32)) s

end Sys2Proof.Machine
end

