-- ==== Sys2Proof/Machine/Block.lean ====
section
/-! DEFINITION. The B64 instructions of micro-threads (R251 to R260). -/

namespace Sys2Proof.Machine
open Sys2Proof

/-- What a B64 instruction sees of its micro-thread: its number, its cluster and position, its record and
the poison of its governing predicate. -/
structure Bt where
  h : Nat
  i : Nat
  q : Nat
  pos : Nat
  m : Mt
  pp : Bool

def Bt.regKey (t : Bt) (r : Nat) : Nat := ((4 * t.q + ctxNo t.h) * 32 + r) * 128 + t.pos
def Bt.predKey (t : Bt) (k : Nat) : Nat := maskKey t.h t.q k t.pos

/-- `eid` reads the index: in a `.ind` body the element's index in its strip (R251, R258; DEDUCED). -/
def Bt.eid (t : Bt) : Nat := if t.m.strip then t.pos else t.i

/-- An element-register source (R251). -/
def Bt.e (t : Bt) (s : State) (n : BitVec 6) : BitVec 32 × Bool :=
  if n = 33#6 then (BitVec.ofNat 32 t.eid, false)
  else (sparseGet 0 s.vreg (t.regKey n.toNat), sparseGet false s.vpois (t.regKey n.toNat))
def Bt.setE (t : Bt) (s : State) (n : BitVec 6) (x : BitVec 32) (p : Bool) : State :=
  { s with vreg := sparsePut s.vreg (t.regKey n.toNat) x, vpois := sparsePut s.vpois (t.regKey n.toNat) p }

/-- A predicate source: p0 reads true (R251). -/
def Bt.p (t : Bt) (s : State) (k : Nat) : Bool × Bool :=
  if k = 0 then (true, false)
  else (sparseGet false s.mbit (t.predKey k), sparseGet false s.mpois (t.predKey k))
def Bt.setP (t : Bt) (s : State) (n : BitVec 6) (b p : Bool) : State :=
  let k := t.predKey (n.toNat - 40)
  { s with mbit := sparsePut s.mbit k b, mpois := sparsePut s.mpois k p }
def Bt.pn (t : Bt) (s : State) (n : BitVec 6) : Bool × Bool := t.p s (n.toNat - 40)

def Bt.put (t : Bt) (s : State) (f : Mt → Mt) : State := s.setThread t.h t.i (f (s.thread t.h t.i))
/-- The instruction is done and the next of the block follows. -/
def Bt.done (t : Bt) (s : State) : State := t.put s fun m => { m with next := m.next + 1, block := m.block.tail }
def Bt.stop (t : Bt) (s : State) : State := t.put s fun m => { m with state := .stopped, block := [] }
/-- The micro-thread faults and changes nothing (R260); causes of an access record its offset (R247). -/
def Bt.fault (t : Bt) (s : State) (cause : Nat) (off : BitVec 32) : State :=
  t.put s fun m => { m with state := .faulted, block := [], fault := some (cause, m.next, off) }

/-- The captured arithmetic state as a view at SEW 32 (R243, R254). -/
def Bt.view (t : Bt) (s : State) : View :=
  { hart := t.h, order := s.order t.h, all := s.order t.h, slot := 0, vl := 0, sb := 4, lmul := 1, base := 0
    vty := BitVec.ofNat 64 (2 + (if t.m.fz then 64 else 0) + (if t.m.dz then 128 else 0)) }
def Bt.rm (t : Bt) (o : B64) : BitVec 3 :=
  if o.fmt.extractLsb' 0 3 = 0#3 then t.m.rm else o.fmt.extractLsb' 0 3

/-- An element register of a stream-bound vector register (R251). -/
def Bt.bound (t : Bt) (s : State) (n : BitVec 6) : Bool :=
  n.toNat < 32 && ((s.ctx t.h).streamOf 1 n.toNat).isSome

/-- Runs a B64 instruction of the moving micro-thread where its governing predicate holds (R252). `regs`
are the element registers it reads and writes. -/
def mtStep (o : B64) (regs : List (BitVec 6)) (s : State) (k : Bt → State → State) : Out :=
  match s.who with
  | .mt h i =>
    let t : Bt := { h := h, i := i, q := (s.order h).getD (i / 128) 0, pos := i % 128, m := s.thread h i, pp := false }
    let (b, pp) := t.p s o.pred.toNat
    .next (
      if !(pp || b != o.pneg) then t.done s
      else if regs.any (t.bound s) then t.fault s 29 0
      else k { t with pp := pp } s)
  | _ => .fault .noSuchAgent

/-! Integer operations (R253). -/

/-- B: a register, or imm24 sign-extended. -/
def Bt.b (t : Bt) (s : State) (o : B64) : BitVec 32 × Bool :=
  if o.c = 1#6 then (o.imm.signExtend 32, false) else t.e s o.b
def bRegs (o : B64) : List (BitVec 6) := if o.c = 1#6 then [] else [o.b]

def bInt (o : B64) (f : View → BitVec 32 → BitVec 32 → BitVec 32) (s : State) : Out :=
  mtStep o (o.d :: o.a :: bRegs o) s fun t s =>
    let (a, p) := t.e s o.a
    let (b, q) := t.b s o
    t.done (t.setE s o.d (f (t.view s) a b) (p || q || t.pp))

def bCmp (o : B64) (f : View → BitVec 32 → BitVec 32 → Bool) (s : State) : Out :=
  mtStep o (o.a :: bRegs o) s fun t s =>
    let (a, p) := t.e s o.a
    let (b, q) := t.b s o
    t.done (t.setP s o.d (f (t.view s) a b) (p || q || t.pp))

def execB64Add (o : B64) (s : State) : Out := bInt o (fun _ a b => a + b) s
def execB64Sub (o : B64) (s : State) : Out := bInt o (fun _ a b => a - b) s
def execB64Mul (o : B64) (s : State) : Out := bInt o (fun _ a b => a * b) s
def execB64Mulh (o : B64) (s : State) : Out := bInt o iMulh s
def execB64And (o : B64) (s : State) : Out := bInt o (fun _ a b => a &&& b) s
def execB64Or (o : B64) (s : State) : Out := bInt o (fun _ a b => a ||| b) s
def execB64Xor (o : B64) (s : State) : Out := bInt o (fun _ a b => a ^^^ b) s
def execB64Shl (o : B64) (s : State) : Out := bInt o iSll s
def execB64Shr (o : B64) (s : State) : Out := bInt o iSrl s
def execB64Sra (o : B64) (s : State) : Out := bInt o iSra s
def execB64Min (o : B64) (s : State) : Out := bInt o (fun _ a b => if b.slt a then b else a) s
def execB64Max (o : B64) (s : State) : Out := bInt o (fun _ a b => if a.slt b then b else a) s
def execB64Li (o : B64) (s : State) : Out :=
  mtStep o [o.d] s fun t s => t.done (t.setE s o.d (o.imm.signExtend 32) t.pp)

/-! Floating operations (R254). -/

def bF2 (o : B64) (f : View → BitVec 3 → BitVec 32 → BitVec 32 → BitVec 32) (s : State) : Out :=
  mtStep o [o.d, o.a, o.b] s fun t s =>
    let (a, p) := t.e s o.a
    let (b, q) := t.e s o.b
    t.done (t.setE s o.d (f (t.view s) (t.rm o) a b) (p || q || t.pp))
def bF1 (o : B64) (f : View → BitVec 3 → BitVec 32 → BitVec 32) (s : State) : Out :=
  mtStep o [o.d, o.a] s fun t s =>
    let (a, p) := t.e s o.a
    t.done (t.setE s o.d (f (t.view s) (t.rm o) a) (p || t.pp))

def execB64Fadd (o : B64) (s : State) : Out := bF2 o fAdd s
def execB64Fsub (o : B64) (s : State) : Out := bF2 o fSub s
def execB64Fmul (o : B64) (s : State) : Out := bF2 o fMul s
def execB64Fdiv (o : B64) (s : State) : Out := bF2 o fDiv s
def execB64Fmin (o : B64) (s : State) : Out := bF2 o (fun v _ => fMin v) s
def execB64Fmax (o : B64) (s : State) : Out := bF2 o (fun v _ => fMax v) s
def execB64Fma (o : B64) (s : State) : Out :=
  mtStep o [o.d, o.a, o.b, o.c] s fun t s =>
    let (a, p) := t.e s o.a
    let (b, q) := t.e s o.b
    let (c, r) := t.e s o.c
    t.done (t.setE s o.d (fMa (t.view s) (t.rm o) a b c) (p || q || r || t.pp))
def execB64Frcp (o : B64) (s : State) : Out := bF1 o (fun v rm a => v.fout rm (xrcp (v.xv a))) s
def execB64Fsqrt (o : B64) (s : State) : Out := bF1 o (fun v rm a => v.fout rm (xsqrt (v.xv a))) s
def execB64Fcvt (o : B64) (s : State) : Out :=
  mtStep o [o.d, o.a] s fun t s =>
    let (a, p) := t.e s o.a
    t.done (t.setE s o.d (fConvert (t.view s) o.c.toNat (t.rm o) t.m.sat a) (p || t.pp))

/-! Compares, predicates and `sel` (R255). -/

def execB64Seq (o : B64) (s : State) : Out := bCmp o (fun _ a b => a == b) s
def execB64Slt (o : B64) (s : State) : Out := bCmp o (fun _ a b => a.slt b) s
def execB64Sltn (o : B64) (s : State) : Out := bCmp o (fun _ a b => a.ult b) s

def bFcmp (o : B64) (f : View → BitVec 32 → BitVec 32 → Bool) (s : State) : Out :=
  mtStep o [o.a, o.b] s fun t s =>
    let (a, p) := t.e s o.a
    let (b, q) := t.e s o.b
    t.done (t.setP s o.d (f (t.view s) a b) (p || q || t.pp))
def execB64Feq (o : B64) (s : State) : Out := bFcmp o fEq s
def execB64Flt (o : B64) (s : State) : Out := bFcmp o fLt s
def execB64Fle (o : B64) (s : State) : Out := bFcmp o fLe s

def bPred (o : B64) (f : Bool → Bool → Bool) (s : State) : Out :=
  mtStep o [] s fun t s =>
    let (a, p) := t.pn s o.a
    let (b, q) := t.pn s o.b
    t.done (t.setP s o.d (f a b) (p || q || t.pp))
def execB64Pand (o : B64) (s : State) : Out := bPred o (· && ·) s
def execB64Por (o : B64) (s : State) : Out := bPred o (· || ·) s
def execB64Pnot (o : B64) (s : State) : Out :=
  mtStep o [] s fun t s =>
    let (a, p) := t.pn s o.a
    t.done (t.setP s o.d (!a) (p || t.pp))
def execB64Sel (o : B64) (s : State) : Out :=
  mtStep o [o.d, o.a, o.b] s fun t s =>
    let (c, r) := t.pn s o.c
    let (x, p) := if c then t.e s o.a else t.e s o.b
    t.done (t.setE s o.d x (p || r || t.pp))

/-! Memory and atomics (R256, R257). -/

/-- The width in bytes, and whether a load sign-extends. -/
def widthOf (f : BitVec 4) : Nat × Bool :=
  match f.toNat with
  | 1 => (2, true)
  | 2 => (2, false)
  | 3 => (1, true)
  | 4 => (1, false)
  | _ => (4, false)

def bOffset (o : B64) (a : BitVec 32) : BitVec 32 := a + (o.imm.extractLsb' 0 20).signExtend 32
def bAddress (o : B64) (off : BitVec 32) : Word :=
  windowAddr (o.imm.extractLsb' 20 4).toNat + off.zeroExtend 64

/-- A micro-thread that runs a vector-fetched block again waits while stores of its class that it made as a party of its own
are not performed (DESIGN CHOICE, log 101). -/
def Bt.behindOwn (t : Bt) (s : State) (pl : Place) : Bool :=
  match pl with
  | .mem x _ =>
    let m := s.thread t.h t.i
    !m.own && m.queue.any (·.cls == classOf x.pa)
  | _ => false

/-- Resolves a micro-thread's access: poisoned operands, alignment, the window and translation. -/
def bAccess (o : B64) (t : Bt) (n : Nat) (acc : Access) (data : Bool) (s : State)
    (k : BitVec 32 → Place → State → State) : State :=
  let (a, p) := t.e s o.a
  let off := bOffset o a
  if p || data then t.fault s 26 0
  else if off.toNat % n ≠ 0 then t.fault s (match acc with | .load => 4 | _ => 6) off
  else
    match s.place (bAddress o off) n t.q acc with
    | (.error (cause, _), s) => t.fault s cause off
    | (.ok pl, s) => if t.behindOwn s pl then s else k off pl s

def execB64Ld (o : B64) (s : State) : Out :=
  let (n, signed) := widthOf o.fmt
  mtStep o [o.d, o.a] s fun t s =>
    bAccess o t n .load false s fun _ pl s =>
      let ((bs, p), s) := s.readPlace pl n false
      let v := BitVec.ofNat (8 * n) (leNat bs)
      t.done (t.setE s o.d (if signed then v.signExtend 32 else v.setWidth 32) (p || t.pp))

def execB64St (o : B64) (s : State) : Out :=
  let (n, _) := widthOf o.fmt
  mtStep o [o.d, o.a] s fun t s =>
    let (x, p) := t.e s o.d
    bAccess o t n .store p s fun _ pl s => t.done (s.writePlace pl (fullBytes (natLe n x.toNat)))

/-- One read-modify-write at the home slice; the context's earlier accesses of the class come first (R70). -/
def bAtomic (o : B64) (f : BitVec 32 → BitVec 32 → BitVec 32) (s : State) : Out :=
  mtStep o [o.d, o.a, o.b] s fun t s =>
    let (x, p) := t.e s o.b
    bAccess o t 4 .amo p s fun _ pl s =>
      match pl with
      | .mem xl _ =>
        if !s.classEmpty xl.pa then s
        else
          let ((bs, bad), s) := s.readUpdate xl 4
          if bad then t.fault s 26 0
          else
            let old := BitVec.ofNat 32 (leNat bs)
            let s := s.homeWrite s.writer xl.pa (fullBytes (natLe 4 (f old x).toNat))
            t.done (t.setE s o.d old t.pp)
      | _ => t.fault s 25 0

/-- FP32 addition of an atomic: RNE, no DZ or FZ, the canonical NaN (R223, R257). -/
def atomicAdd (p : Fp) (a b : Nat) : Nat := p.lane 1#3 (xadd 1#3 (p.decode a) (p.decode b))

def execB64Amoadd (o : B64) (s : State) : Out := bAtomic o (fun a b => a + b) s
def execB64Famoadd (o : B64) (s : State) : Out :=
  bAtomic o (fun a b => BitVec.ofNat 32 (atomicAdd fp32 a.toNat b.toNat)) s

/-! Links (R19, R258). -/

/-- Pushes into the link-out queue of the micro-thread; the last of a strip keeps it from the next cluster's strip. -/
def execB64Lsend (o : B64) (s : State) : Out :=
  mtStep o [o.a] s fun t s =>
    let q := s.linkFrom t.h t.i
    let (x, p) := t.e s o.a
    if 2 ≤ q.length then s
    else if t.m.strip && t.m.tail then t.done (t.put s fun m => { m with linkOut := m.linkOut ++ [(x, p || t.pp)] })
    else t.done (s.setLink t.h t.i (q ++ [(x, p || t.pp)]))

def execB64Lrecv (o : B64) (s : State) : Out :=
  mtStep o [o.d] s fun t s =>
    let before := if readsLink t.m t.i then (s.thread t.h (t.i - 1)).linkOut else []
    match (s.thread t.h t.i).linkIn, before with
    | (x, p) :: rest, _ => t.done (t.setE (t.put s fun m => { m with linkIn := rest }) o.d x (p || t.pp))
    | [], (x, p) :: rest =>
      t.done (t.setE (s.setThread t.h (t.i - 1) { s.thread t.h (t.i - 1) with linkOut := rest }) o.d x (p || t.pp))
    | [], [] => s

/-! Terminators (R242, R243, R259). -/

/-- Enters the block at the target, or faults at the terminator. -/
def bEnter (o : B64) (t : Bt) (s : State) : State :=
  let (a, p) := if o.c = 1#6 then t.e s o.a else (0, false)
  if p then t.fault s 26 0
  else
    let k := (o.imm + a.setWidth 24).toNat
    match s.enter t.h k with
    | (.error (cause, _), s) => t.fault s cause 0
    | (.ok block, s) => t.put s fun m => { m with next := k, block := block, own := true }

def targetRegs (o : B64) : List (BitVec 6) := if o.c = 1#6 then [o.a] else []

def execB64Stop (o : B64) (s : State) : Out := mtStep o [] s fun t s => t.stop s
def execB64Next (o : B64) (s : State) : Out := mtStep o (targetRegs o) s (bEnter o)

/-- The predicate is its condition, not its governor. DESIGN CHOICE (log 92): a stream-bound target register faults before
the condition is looked at; R259 does not say whether a false condition reads it. -/
def execB64Nextif (o : B64) (s : State) : Out :=
  mtStep { o with pred := 0#3, pneg := false } (targetRegs o) s fun t s =>
    let (b, pp) := t.p s o.pred.toNat
    if pp || (o.c = 1#6 && (t.e s o.a).2) then t.fault s 26 0
    else if b == o.pneg then t.stop s
    else bEnter o t s

def execB64Nop (o : B64) (s : State) : Out := mtStep o [] s fun t s => t.done s

end Sys2Proof.Machine
end

