-- ==== Sys2Proof/Machine/Streams.lean ====
section
/-! DEFINITION. STREAM (R226 to R233) and what the Bellows do by themselves: fetching ahead and draining
(R231, R232). In a splice a stream may be rebound to a FIFO (R333). -/

namespace Sys2Proof.Machine
open Sys2Proof

/-- Words read as scalar loads of the moving agent. -/
def loadWords (va : Word) : Nat → State → Except (Nat × Word) (List Word) × State
  | 0, s => (.ok [], s)
  | n + 1, s =>
    after (s.scalarRead va 8) fun w s =>
      after (loadWords (va + 8) n s) fun t s => (.ok (BitVec.ofNat 64 w :: t), s)

/-- The words of a descriptor, read as scalar loads (R228, R236) and as user (R361). -/
def readWords (va : Word) (n : Nat) (s : State) : Except (Nat × Word) (List Word) × State := asUser (loadWords va n) s

/-- The checks of R228 step 2 on a descriptor and its register. -/
def streamOk (c : Ctx) (va : Word) (d : List Word) (vd : Reg) (n : Nat) : Bool :=
  let t : Stream := { desc := d }
  let f := t.fmt
  let w := fmtWidth f
  let lmul := vtyLmul c.vty
  va.toNat % 64 = 0 && t.w1.extractLsb' 15 49 = 0#49 && !t.w1.getLsbD 7 && !(t.ft && !t.isWrite) &&
  assignedFmt f &&
  ((List.range 4).all fun k => if k < t.dims then t.ext k ≠ 0 else t.ext k = 0 && t.desc.getD (4 + k) 0 = 0#64) &&
  (planeFmt f || w < 8 || (t.desc.getD 0 0).toNat % (w / 8) = 0) &&
  vd.toNat % lmul = 0 && laneTakes f (vtySb c.vty) &&
  !((List.range 16).zip c.streams.toList).any fun (m, u) =>
    u.bound && m ≠ n && u.reg.toNat < vd.toNat + lmul && vd.toNat < u.reg.toNat + u.groupSize

/-- The passed tensor that a context's stream control block carries, by its place (R333). -/
def State.passedBy (s : State) (h n : Nat) : Option Nat :=
  if (s.ctx h).unit.bind (·.splice) = none then none
  else
    let own (f : Fifo) : Nat := if s.holder h = h then f.pSc else f.cSc
    (List.range (s.splice h).fifos.length).find? fun k => own (s.fifo h k) = n

/-- A bank that a bound stream or a spliced unit uses is held (R23). -/
def State.bankHeld (s : State) (b : Nat) : Bool :=
  (s.ctxs.any fun p => p.2.streams.toList.any fun t => t.bound && t.banks.contains b) ||
  s.splices.any fun p => p.2.fifos.any fun f => f.banks.any (·.1 = b)

/-- Claims one free FIFO-mode bank in every cluster, or none (R233); which one is free. -/
def claimBanks (order : List Nat) (s : State) : List Nat × State :=
  let free (q : Nat) : List Nat := (List.range 16).filter fun b => s.bankModeOf q b = 2 && !s.bankHeld (16 * q + b)
  if order.any fun q => (free q).isEmpty then ([], s)
  else
    order.foldl (fun (l, s) q =>
      let (r, s) := s.drawNat
      (l ++ [16 * q + (free q).getD (r % (free q).length) 0], s)) (([] : List Nat), s)

/-- Waits until a write stream's elements have been performed, as `ssync` does (R233): a kept element is
reported, and the drain resumes with it once the trap has returned (R232). -/
def whenDrained (h n : Nat) (k : State → State) (s : State) : State :=
  let t := (s.ctx h).stream n
  match t.kept with
  | some a => s.trap 29 a
  | none =>
    if !t.isWrite || !s.toMemory h t then k s
    else if t.accepted.isEmpty && s.drained then k s
    else s.stall

def unbound : Stream := {}

/-- `sunbind` of a bound stream, then `k`. -/
def unbindThen (h n : Nat) (k : State → State) (s : State) : State :=
  whenDrained h n (fun s => k (s.modStream h n fun _ => unbound)) s

/-- `sbind` (R228, R333). A register that is no multiple of LMUL is illegal first: what an entry lists adds to R138, and decoding
comes before the entry's own checks (R143). DEDUCED (log 25): the item that R228 lists beside it is then never reached. -/
def bindStream (o : T48) (s : State) : State :=
  let h := s.hart
  let n := o.b.toNat
  let va := s.rx o.a
  if o.d.toNat % vtyLmul (s.ctx h).vty ≠ 0 then s.illegal (t48Bits (0x0E, 0x00) o)
  else match readWords va 8 s with
  | (.error (cause, tv), s) => s.trap cause tv
  | (.ok d, s) =>
    let c := s.ctx h
    let t : Stream := { desc := d }
    let passed := s.passedBy h n
    let clash := match passed with
      | some k => t.isWrite ≠ (s.holder h = h) || t.fmt ≠ (s.fifo h k).fmt
      | none => false
    if !streamOk c va d o.d n || clash then s.trap 29 0
    else
      let bind (s : State) : State :=
        let c := s.ctx h
        let (banks, s) := if t.w1.extractLsb' 9 2 ≠ 0#2 && passed.isNone then claimBanks (s.order h) s else ([], s)
        (s.modStream h n fun _ =>
          { bound := true, reg := o.d, desc := d, sew := c.vty.extractLsb' 0 2, lmul := c.vty.extractLsb' 2 2
            vrm := c.vrm, vpst := c.vpst, vtb := c.vtb, vsb := c.vsb, vts := c.vts
            banks := banks, fifo := passed, ppc := c.pc }).retire 6
      if (c.stream n).bound then unbindThen h n bind s else bind s

/-- The four instructions on a bound stream control block; an unbound one raises cause 29 (R233). -/
def onStream (op : BitVec 6) (o : T48) (s : State) (k : Nat → Nat → State → State) : Out :=
  ctStep s (t48Bits (0x0E, op) o) fun s =>
    if ((s.ctx s.hart).stream o.b.toNat).bound then k s.hart o.b.toNat s else s.trap 29 0

def execSbind (o : T48) (s : State) : Out :=
  ctStep s (t48Bits (0x0E, 0x00) o) fun s => bindStream o s

def execSunbind (o : T48) (s : State) : Out := onStream 0x01 o s fun h n s => unbindThen h n (·.retire 6) s

/-- A read stream fetches again from its position; a FIFO has nothing to fetch (R333). -/
def execSsync (o : T48) (s : State) : Out :=
  onStream 0x02 o s fun h n s =>
    whenDrained h n (fun s => (s.modStream h n fun t => { t with fetched := [] }).retire 6) s

def execSskip (o : T48) (s : State) : Out :=
  onStream 0x03 o s fun h n s =>
    let t := (s.ctx h).stream n
    let p := t.pos + (s.rx o.a).toNat
    if t.fifo.isSome ∨ t.length < p then s.trap 29 0
    else (s.modStream h n fun t => { t with pos := p, fetched := t.fetched.filter (p ≤ ·.pos) }).retire 6

/-- In a `.seq` body the position is the one after the current strip (R233). -/
def execSpos (o : T48) (s : State) : Out :=
  onStream 0x04 o s fun h n s =>
    let c := s.ctx h
    let t := c.stream n
    let p := if t.inLoop then t.loopPos + (if c.loop.gap then c.loop.next else c.loop.base + c.loop.size) else t.pos
    (s.wx o.d (BitVec.ofNat 64 p)).retire 6

/-! The Bellows. -/

/-- The Bellows act for a context in its windows, root and queues, as user (R361). -/
def State.asBellows (s : State) (h : Nat) : State := { s with who := .bellows h }

/-- The positions a read stream may fetch ahead: DEPTH strips beyond the next delivery (R231). -/
def fetchRange (c : Ctx) (t : Stream) : Nat × Nat :=
  let ahead := t.depth * c.vl
  if t.inLoop then
    let next := if c.loop.mode = .seq && c.loop.gap then c.loop.next else c.loop.base
    let first := (c.loop.strips.map (·.base)).foldl Nat.min next
    (t.loopPos + first, Nat.min t.length (t.loopPos + next + t.depth * Nat.max c.loop.size c.vl))
  else (t.pos, Nat.min t.length (t.pos + ahead))

/-- Fetches the next position ahead, if there is one; what cannot be fetched is left to its consumer. The
cluster-local space is read only by the consumer, in its own cluster (R24). DESIGN CHOICE (log 116): a position beyond a PARAM
window's SIZE sets WOOB when it is fetched, whether or not an instruction consumes it (R237). -/
def State.prefetch (s : State) (h n : Nat) : State :=
  let c := s.ctx h
  let t := c.stream n
  let (lo, hi) := fetchRange c t
  if !t.bound ∨ t.isWrite ∨ t.fifo.isSome then s
  else
    match ((List.range (hi - lo)).map (· + lo)).find? fun p => !t.fetched.any (·.pos = p) with
    | none => s
    | some p =>
      let ba := t.bitAddr p
      if isClusterLocal (bitVa ba) then s
      else
        let who := s.who
        let (r, s) := (s.asBellows h).readRaw (t.cap c) t.fmt ba 0 t.nt
        let s := { s with who := who }
        match r with
        | .ok (raw, pois) => s.modStream h n fun t => { t with fetched := t.fetched ++ [{ pos := p, raw := raw, pois := pois }] }
        | .error _ => s

/-- The accepted element at the lowest position. -/
def firstAccepted (t : Stream) : Option Accepted :=
  t.accepted.find? fun a => t.accepted.all (a.pos ≤ ·.pos)

/-- Places the next accepted element in its class queue, or keeps it and every later one (R232). The
element's conversion uses the captured state; its scale was read and `amax` updated when it was accepted (R56, R58). DESIGN CHOICE
(log 113): one that an error has struck since is left unwritten and kept. -/
def State.drainStream (s : State) (h n : Nat) : State :=
  let c := s.ctx h
  let t := c.stream n
  if !t.bound ∨ t.kept.isSome then s
  else
    match firstAccepted t with
    | none => s
    | some a =>
      let who := s.who
      let ba := t.bitAddr a.pos
      let (r, s) := if a.pois then (.error (29, bitVa ba), s)
        else (s.asBellows h).writeScaled (t.cap c) t.fmt t.sb ba a.clus a.lane a.scale
      let s := { s with who := who }
      match r with
      | .ok () => s.modStream h n fun t => { t with accepted := t.accepted.filter (·.pos ≠ a.pos) }
      | .error (_, tv) => s.modStream h n fun t => { t with kept := some tv }

def execStreamPrefetch (hart sc : Nat) (s : State) : Out := .next (s.prefetch hart sc)
def execStreamDrain (hart sc : Nat) (s : State) : Out := .next (s.drainStream hart sc)

end Sys2Proof.Machine
end

