-- ==== Sys2Proof/Machine/Tile.lean ====
section
/-! DEFINITION. TILE (R263 to R270): billets, and precise accesses to byte ranges made of words. -/

namespace Sys2Proof.Machine
open Sys2Proof

/-! Byte ranges: each 4-byte word of a range is an access of its own, all translated before any acts. -/

/-- A byte range of a precise access: at an offset, so many bytes at a place. -/
abbrev Span := List (Nat × Nat × Place)

def Place.shift (p : Place) (d : Nat) : Place :=
  match p with
  | .mem x w => .mem { x with pa := x.pa + d } w
  | .zero => .zero
  | .sram k => .sram (k + d)

/-- Resolves n bytes as a precise access (R24, R26, R27, R365). The MS reads a PARAM window at home (R128). DESIGN CHOICE (log
40): an access of the MS through a bad window reports the underlying cause 25 with SOURCE 1. -/
def State.resolve (s : State) (va : Word) (n : Nat) (acc : Access) : Except Bad Place × State :=
  match reach (s.ctx s.hart) va n acc with
  | .sram => (.error (if acc.writes then 7 else 5, va), s)
  | .bad tv => (.error (25, tv), s)
  | .zero => if acc.writes then (.error (25, va), s) else (.ok .zero, s.setWoob)
  | .va a param =>
    match s.translate a acc with
    | (.error e, s) => (.error (scalarCause acc e, errVa a e), s)
    | (.ok x, s) => (.ok (.mem x (if s.isMs then none else param)), s)

/-- n bytes at va cut at the multiples of a unit: offsets and lengths. -/
def chunks (unit : Nat) (va : Word) (n : Nat) : Nat → Nat → List (Nat × Nat)
  | 0, _ => []
  | fuel + 1, o =>
    if n ≤ o then []
    else
      let k := Nat.min (n - o) (unit - (va.toNat + o) % unit)
      (o, k) :: chunks unit va n fuel (o + k)
def wordsOf (va : Word) (n : Nat) : List (Nat × Nat) := chunks 4 va n n 0

def spanGo (va : Word) (acc : Access) : List (Nat × Nat) → State → Except Bad Span × State
  | [], s => (.ok [], s)
  | (o, k) :: t, s =>
    after (s.resolve (va + BitVec.ofNat 64 o) k acc) fun p s =>
      after (spanGo va acc t s) fun l s => (.ok ((o, k, p) :: l), s)

def State.span (s : State) (va : Word) (n : Nat) (acc : Access) : Except Bad Span × State :=
  spanGo va acc (wordsOf va n) s

def spanAll (acc : Access) (n : Nat) : List Word → State → Except Bad (List Span) × State
  | [], s => (.ok [], s)
  | va :: t, s => after (s.span va n acc) fun p s => after (spanAll acc n t s) fun l s => (.ok (p :: l), s)

/-- Reads a range: its bytes, each with its poison. -/
def State.readSpan (s : State) (nt : Bool) : Span → List (Byte × Bool) × State
  | [] => ([], s)
  | (_, n, p) :: t =>
    let ((bs, bad), s) := s.readPlace p n nt
    let (l, s) := s.readSpan nt t
    (bs.map (·, bad) ++ l, s)

def readSpans (nt : Bool) : List Span → State → List (List (Byte × Bool)) × State
  | [], s => ([], s)
  | p :: t, s =>
    let (r, s) := s.readSpan nt p
    let (l, s) := readSpans nt t s
    (r :: l, s)

/-- Writes the bytes of a range that are not poisoned. -/
def State.writeSpan (s : State) (p : Span) (bs : List (Byte × Bool)) : State :=
  p.foldl (fun s (o, n, pl) =>
    let part := (bs.drop o).take n
    if part.all (·.2) then s
    else s.writePlace pl (part.map fun (b, bad) => (b, if bad then 0#8 else 0xFF#8))) s

/-! Billets (R263). -/

def State.billet (s : State) (b : Nat) : Billet := sparseGet {} s.billets b
def State.setBillet (s : State) (b : Nat) (t : Billet) : State := { s with billets := sparsePut s.billets b t }

def State.rowByte (s : State) (b row col : Nat) : Byte × Bool :=
  let k := b * 16384 + row * 128 + col
  (sparseGet 0#8 s.brow k, sparseGet false s.bpois k)

def State.putRowByte (s : State) (b row col : Nat) (v : Byte) (p : Bool) : State :=
  let k := b * 16384 + row * 128 + col
  { s with brow := sparseSet 0#8 s.brow k v, bpois := sparseSet false s.bpois k p }

def State.billetScale (s : State) (b i : Nat) : Byte := sparseGet 0x38#8 s.bscale (b * 1024 + i)
def State.putBilletScale (s : State) (b i : Nat) (v : Byte) : State :=
  { s with bscale := sparseSet 0x38#8 s.bscale (b * 1024 + i) v }

/-- The values of a billet at unit start, with the TAG given. -/
def State.clearBillet (s : State) (b : Nat) (tag : BitVec 6) : State :=
  { s with
    billets := sparsePut s.billets b { tag := tag, ppc := (s.billet b).ppc }
    brow := sparseClear s.brow (b * 16384) ((b + 1) * 16384)
    bpois := sparseClear s.bpois (b * 16384) ((b + 1) * 16384)
    bscale := sparseClear s.bscale (b * 1024) ((b + 1) * 1024) }

/-- The tags that the Anvil accepts, with their widths (R264). -/
def anvilTag (f : BitVec 6) : Bool :=
  [0x00, 0x01, 0x03, 0x04, 0x0C, 0x23, 0x24, 0x2C, 0x05, 0x06, 0x25, 0x26, 0x07, 0x27].contains f.toNat

/-- A TILE instruction: illegal where the unit does not own the MS (R142, R263). -/
def tileStep (op : BitVec 6) (o : T48) (s : State) (k : State → State) : Out :=
  let bits := t48Bits (0x10, op) o
  ctStep s bits fun s => if (s.ctx s.hart).ownsMs then k s else s.illegal bits

/-- Waits until the billet's FULL bit is as asked (R265). -/
def whenFull (full : Bool) (b : Nat) (s : State) (k : State → State) : State :=
  if (s.billet b).full = full then k s else s.waitFor 4 (s.billet b).ppc 0

def billetOf (n : Reg) (s : State) : Nat := 8 * s.issuerCore + n.toNat

/-- A fault of R283 on the CT: cause 35 with SOURCE 0. -/
def tileFault (cause : Nat) (s : State) : State := s.trap 35 (msWord 0 cause 0)

/-- Bytes of an element in their register group's byte string (R267). -/
def rowWrites (b r0 sb : Nat) (e : Nat) (x : BitVec 32) (p : Bool) (s : State) : State :=
  (List.range sb).foldl (fun s q =>
    let i := e * sb + q
    s.putRowByte b ((r0 + i / 128) % 128) (i % 128) (x.extractLsb' (8 * q) 8) p) s

def execTrow (o : T48) (s : State) : Out :=
  let form : VForm := { vform (0x10, 0x00) o [useA o] false with dst := none, align := [o.a.toNat] }
  tileStep 0x00 o s fun s => whenLegal form s fun s =>
    let b := billetOf o.d s
    whenFull false b s fun s => vprep form s fun x s =>
      let res := x.acts.map fun e => (e, x.taint s form.gm e (x.get s o.a.toNat e))
      let r0 := ((s.rx o.b).extractLsb' 0 7).toNat
      let s := res.foldl (fun s (e, r) =>
        match r with
        | .ok (y, p) => rowWrites b r0 x.v.sb e y p s
        | .error _ => s) s
      let s := s.setBillet b { s.billet b with tag := o.fmt }
      vcommit form x false res s

/-- DESIGN CHOICE (log 40): the wait for FULL comes first, then the tag, then the faults of vD, a stream in vD among them; a tag
mismatch has the underlying cause 35. -/
def execTcol (o : T48) (s : State) : Out :=
  let form : VForm := { vform (0x10, 0x01) o [] false with noStream := [o.d.toNat] }
  tileStep 0x01 o s fun s => whenLegal form s fun s =>
    let b := billetOf o.a s
    whenFull true b s fun s =>
      if o.fmt ≠ (s.billet b).tag then tileFault 35 s
      else vprep form s fun x s =>
        let sb := x.v.sb
        let c0 := ((s.rx o.b).extractLsb' 0 7).toNat / sb * sb
        vcommit form x true (x.acts.map fun e =>
          let l := (List.range sb).map fun q => s.rowByte b (e % 128) ((c0 + sb * (e / 128)) % 128 + q)
          (e, x.taint s form.gm e (.ok (BitVec.ofNat 32 (leNat (l.map (·.1))), l.any (·.2))))) s

/-! `tld` and `tst` (R268, R269). -/

structure BilletDesc where
  base : Word
  rstride : Word
  sbase : Word
  axis : Bool
  nblk : Nat
  sstride : Nat

/-- Reads and checks a billet descriptor. -/
def withBilletDesc (o : T48) (s : State) (k : BilletDesc → State → State) : State :=
  let va := s.rx o.a
  if va.toNat % 32 ≠ 0 then tileFault 35 s
  else
    match readWords va 4 s with
    | (.error (cause, tv), s) => s.trap cause tv
    | (.ok w, s) =>
      let w3 := w.getD 3 0
      let d : BilletDesc := { base := w.getD 0 0, rstride := w.getD 1 0, sbase := w.getD 2 0
                              axis := w3.getLsbD 41, nblk := (w3.extractLsb' 32 9).toNat
                              sstride := (w3.extractLsb' 0 32).toNat }
      if w3.extractLsb' 42 22 ≠ 0#22 ∨ (if d.axis then 256 else 8) < d.nblk ∨
          (!scaledFmt o.fmt ∧ (d.sbase ≠ 0 ∨ d.nblk ≠ 0)) then tileFault 35 s
      else k d s

def BilletDesc.rows (d : BilletDesc) : List Word := (List.range 128).map fun m => d.base + BitVec.ofNat 64 m * d.rstride

/-- The scales a descriptor names: byte of the scale store and address (R268). -/
def BilletDesc.scales (d : BilletDesc) : List (Nat × Word) :=
  if d.axis then (List.range 4).flatMap fun g => (List.range d.nblk).map fun k =>
    (256 * g + k, d.sbase + BitVec.ofNat 64 (g * d.sstride + k))
  else (List.range 128).flatMap fun m => (List.range d.nblk).map fun j =>
    (8 * m + j, d.sbase + BitVec.ofNat 64 (m * d.sstride + j))

/-- Runs k with the spans of the rows and the scales, every address translated first. -/
def withBilletSpans (d : BilletDesc) (acc : Access) (s : State) (k : List Span → List Span → State → State) : State :=
  match spanAll acc 128 d.rows s with
  | (.error (cause, tv), s) => s.trap cause tv
  | (.ok rows, s) =>
    match spanAll acc 1 (d.scales.map (·.2)) s with
    | (.error (cause, tv), s) => s.trap cause tv
    | (.ok scales, s) => k rows scales s

def loadBillet (o : T48) (b : Nat) (d : BilletDesc) (rows scales : List Span) (s : State) : State :=
  let nt := o.aux.getLsbD 7
  let (sc, s) := readSpans nt scales s
  if sc.any fun l => l.any (·.2) then tileFault 26 s
  else
    let (rb, s) := readSpans nt rows s
    let s := ((List.range 128).zip rb).foldl (fun s (m, l) =>
      ((List.range 128).zip l).foldl (fun s (c, v, p) => s.putRowByte b m c v p) s) s
    let s := (d.scales.zip sc).foldl (fun s ((i, _), l) => s.putBilletScale b i ((l.headD (0#8, false)).1)) s
    (s.setBillet b { s.billet b with tag := o.fmt, axis := d.axis, nblk := d.nblk }).retire 6

/-- DESIGN CHOICE (log 40): `tld` waits for the billet to be empty before it looks at xA and the descriptor, as `tst` does for it
to be full; R268 and R269 order none of these. -/
def execTld (o : T48) (s : State) : Out :=
  tileStep 0x02 o s fun s =>
    let b := billetOf o.d s
    if !anvilTag o.fmt then s.illegal (t48Bits (0x10, 0x02) o)
    else whenFull false b s fun s => withBilletDesc o s fun d s =>
      withBilletSpans d .load s (loadBillet o b d)

/-- The lowest poisoned byte of a billet. -/
def State.poisonedByte (s : State) (b : Nat) : Option Nat :=
  (List.range 16384).find? fun i => sparseGet false s.bpois (b * 16384 + i)

def storeBillet (b : Nat) (d : BilletDesc) (rows scales : List Span) (s : State) : State :=
  let s := ((List.range 128).zip rows).foldl (fun s (m, p) =>
    s.writeSpan p ((List.range 128).map fun c => s.rowByte b m c)) s
  let s := (d.scales.zip scales).foldl (fun s ((i, _), p) => s.writeSpan p [(s.billetScale b i, false)]) s
  match s.poisonedByte b with
  | some i => s.trap 26 (BitVec.ofNat 64 i)
  | none => s.retire 6

/-- The format may be any that is assigned: a billet may hold any tag (R264), and R269 asks only that it be the billet's. The
underlying cause of a tag mismatch is 35 (DEDUCED, log 40: R283 names one for the descriptor and the scales only). -/
def execTst (o : T48) (s : State) : Out :=
  tileStep 0x03 o s fun s =>
    let b := billetOf o.d s
    whenFull true b s fun s =>
      if o.fmt ≠ (s.billet b).tag then tileFault 35 s
      else withBilletDesc o s fun d s => withBilletSpans d .store s (storeBillet b d)

def execTzero (o : T48) (s : State) : Out :=
  tileStep 0x04 o s fun s =>
    let b := billetOf o.d s
    whenFull false b s fun s => (s.clearBillet b (s.billet b).tag).retire 6

/-- Earlier writers of the billet have written when they retire, and an `mma` reads in one step. -/
def setFull (full : Bool) (n : Reg) (s : State) : State :=
  let b := billetOf n s
  (s.setBillet b { s.billet b with full := full, ppc := s.pc }).retire 6

def execTfull (o : T48) (s : State) : Out := tileStep 0x05 o s (setFull true o.d)
def execTempty (o : T48) (s : State) : Out := tileStep 0x06 o s (setFull false o.d)

end Sys2Proof.Machine
end

