-- ==== Sys2Proof/Machine/Matrix.lean ====
section
/-! DEFINITION. MAT (R271 to R283): the Plate, `pload`, the Anvil's accumulation (R59, R60), `mma`, `mmas`.
An `mma` reads its billet and rows and writes its handle in one step, so that `msync` and `mwait` find
nothing to wait for (log 6). -/

namespace Sys2Proof.Machine
open Sys2Proof

/-- An instruction that only the MS may execute (R142). -/
def msStep (s : State) (bits : Word) (k : State → State) : Out :=
  match s.who with
  | .ms _ => .next (k s)
  | .ct _ => .next (s.illegal bits)
  | .ind .. => .next (s.illegal bits)
  | _ => .fault .noSuchAgent

def matStep (op : BitVec 6) (o : T48) (s : State) (k : State → State) : Out := msStep s (t48Bits (0x11, op) o) k

/-- A fault of R283 for a value out of range. -/
def State.msRange (s : State) : State := s.trap 35 0

/-! Handles (R284). -/

def State.handle (s : State) (k : Nat) : Handle := sparseGet {} s.handles k
def State.setHandle (s : State) (k : Nat) (h : Handle) : State := { s with handles := sparsePut s.handles k h }

/-- Runs k on a handle granted to the unit, with its key; otherwise cause 33 (R284). -/
def withHandle (n : Reg) (s : State) (k : Nat → State → State) : State :=
  let key := 24 * s.issuerCore + n.toNat
  match (s.ctx s.hart).unit with
  | some u =>
    if u.grants.contains n.toNat ∧ (s.handle key).job = some u.job then k key s
    else s.trap 33 (BitVec.ofNat 64 n.toNat)
  | none => s.trap 33 (BitVec.ofNat 64 n.toNat)

def State.crucElem (s : State) (k row col : Nat) : BitVec 32 × Bool :=
  let i := (k * 128 + row) * 256 + col
  (sparseGet 0#32 s.cruc i, sparseGet false s.crucPois i)

def State.putCruc (s : State) (k row col : Nat) (v : BitVec 32) : State :=
  { s with cruc := sparseSet 0#32 s.cruc ((k * 128 + row) * 256 + col) v }

/-! The Plate (R271). -/

def State.plateByte (s : State) (g row col : Nat) : Byte × Bool :=
  let i := (g * 16384 + row) * 256 + col
  (sparseGet 0#8 s.plate i, sparseGet false s.platePois i)

def State.putPlate (s : State) (g row col : Nat) (v : Byte) (p : Bool) : State :=
  let i := (g * 16384 + row) * 256 + col
  { s with plate := sparseSet 0#8 s.plate i v, platePois := sparseSet false s.platePois i p }

def State.seg (s : State) (g i : Nat) : Seg := sparseGet {} s.segs (64 * g + i)

/-- w bits from bit `off` of a string of bytes. -/
def bitsAt (get : Nat → Byte) (off w : Nat) : Nat :=
  leNat ((List.range ((off + w + 7) / 8 - off / 8)).map fun i => get (off / 8 + i)) / 2 ^ (off % 8) % 2 ^ w

/-- Kept values of a 48-element group, and the rows of a group (R273, R275). -/
def keptN (spn : Nat) : Nat := match spn with | 1 => 12 | 2 => 16 | _ => 24
def groupRows (spn : Nat) : Nat := 7 * keptN spn / 4

/-- Bits of an element in the Plate (R271). -/
def plateWidth (f : BitVec 6) (planes : Nat) : Nat := if planeFmt f then (if planes ≤ 4 then 4 else 8) else fmtWidth f

/-- The exact value of an element in the Plate (R271, R51). -/
def plateXv (f : BitVec 6) (planes raw : Nat) : Xv :=
  if planeFmt f then
    intXv (planeValue (raw / 2 ^ (plateWidth f planes - planes)) planes (valueBits f))
  else memXv f raw

/-! The Anvil (R59, R60). -/

/-- Step 2 of R59 with R60: the products of a block in a window of 48 bits below the largest one. -/
def blockSum (ps : List Xv) : Xv :=
  let infs := ps.filterMap fun p => match p with | .inf neg => some neg | _ => none
  let fins := ps.filterMap fun p => match p with | .fin neg n d => if n = 0 then none else some (neg, n, d) | _ => none
  if ps.contains .nan ∨ (infs.contains true ∧ infs.contains false) then .nan
  else match infs with
    | neg :: _ => .inf neg
    | [] =>
      match fins with
      | [] => .fin false 0 1
      | (_, n0, d0) :: _ =>
        let e := fins.foldl (fun m (_, n, d) => max m (ilog2 n d)) (ilog2 n0 d0)
        let lo := e - 42
        let cut (n d : Nat) : Nat := if 0 ≤ lo then n / (d * 2 ^ lo.toNat) else n * 2 ^ (-lo).toNat / d
        let sum := fins.foldl (fun (a : Int) (neg, n, d) => if neg then a - cut n d else a + cut n d) 0
        if 0 ≤ lo then .fin (sum < 0) (sum.natAbs * 2 ^ lo.toNat) 1 else .fin (sum < 0) sum.natAbs (2 ^ (-lo).toNat)

/-- Steps 3 and 4 of R59: the block sum scaled exactly and added to C with one rounding. -/
def accumulate (c : BitVec 32) (sum : Xv) (scales : List Xv) : BitVec 32 :=
  BitVec.ofNat 32 (fp32.lane 1#3 (xadd 1#3 (fp32.decode c.toNat) (scales.foldl xmul sum)))

/-- An `mma` or `mmas` as checked: the operands of R278 and what their tags say. -/
structure Mma where
  core : Nat
  b : Nat
  handle : Nat
  tagA : BitVec 6
  axisA : Bool
  seg : Seg
  row : Nat
  k : Nat
  k0 : Nat
  sparse : Bool

def Mma.wB (m : Mma) : Nat := plateWidth m.seg.fmt m.seg.planes
def Mma.offK (m : Mma) : Bool := (scaledFmt m.tagA && m.axisA) || (scaledFmt m.seg.fmt && m.seg.axis)
/-- The first row of B that the instruction reads. Dense elements k0, k0 + 1, … lie where R271 puts them from ORIGIN, so that a
ROW inside an element or a group begins with the element that its first bit belongs to (DESIGN CHOICE, log 33). -/
def Mma.first (m : Mma) : Nat := if m.sparse then m.row else m.seg.origin + m.k0 * m.wB / 8
/-- The row after the last one that the instruction reads. -/
def Mma.top (m : Mma) : Nat :=
  if m.sparse then m.row + m.k / 48 * groupRows m.seg.spn else m.seg.origin + ((m.k0 + m.k) * m.wB + 7) / 8

def State.aXv (s : State) (m : Mma) (r k : Nat) : Xv :=
  let w := fmtWidth m.tagA
  memXv m.tagA (bitsAt (fun i => (s.rowByte m.b r i).1) (k * w) w)

def State.aScale (s : State) (m : Mma) (r k : Nat) : Xv :=
  if !scaledFmt m.tagA then .fin false 1 1
  else e4m3.decode (s.billetScale m.b (if m.axisA then 256 * (r / 32) + k else 8 * r + k / 32)).toNat

/-- The Plate row of the B scale of element k. -/
def Mma.scaleRow (m : Mma) (k : Nat) : Nat :=
  m.seg.srow + (if m.seg.axis then m.k0 + k else m.k0 / 32 + k / 32)

def State.bScale (s : State) (m : Mma) (k n : Nat) : Xv :=
  if !scaledFmt m.seg.fmt then .fin false 1 1
  else e4m3.decode (s.plateByte m.core (m.scaleRow k) n).1.toNat

/-- The B elements of column n as (k, bits): all K of a dense load, or the kept values of a sparse one. -/
def State.bElems (s : State) (m : Mma) (n : Nat) : List (Nat × Nat) :=
  if m.sparse then
    let get (i : Nat) : Byte := (s.plateByte m.core (m.row + i) n).1
    (List.range (m.k / 48)).flatMap fun g =>
      let base := g * groupRows m.seg.spn
      let v := keptN m.seg.spn
      (List.range v).map fun i => (48 * g + bitsAt get (8 * (base + v) + 6 * i) 6, (get (base + i)).toNat)
  else (List.range m.k).map fun k =>
    (k, bitsAt (fun i => (s.plateByte m.core (m.seg.origin + i) n).1) ((m.k0 + k) * m.wB) m.wB)

/-- Index i of group g of a sparse column, none where a byte of it is poisoned. -/
def State.sparseIndex (s : State) (m : Mma) (n g i : Nat) : Option Nat :=
  let off := 8 * (g * groupRows m.seg.spn + keptN m.seg.spn) + 6 * i
  let at' (j : Nat) := s.plateByte m.core (m.row + j) n
  if (at' (off / 8)).2 || (at' ((off + 5) / 8)).2 then none else some (bitsAt (fun j => (at' j).1) off 6)

/-- The indices of a sparse column are strictly ascending and below 48 in each group (R275, R280). DESIGN CHOICE (log 34): a
poisoned index is not checked, and poisons its column. -/
def State.indicesOk (s : State) (m : Mma) (n : Nat) : Bool :=
  (List.range (m.k / 48)).all fun g =>
    (List.range (keptN m.seg.spn)).all fun i =>
      match s.sparseIndex m n g i with
      | none => true
      | some x => x < 48 && (i = 0 || (match s.sparseIndex m n g (i - 1) with
        | some w => w < x
        | none => true))

/-- C(r, n) after the instruction: the K blocks in ascending order (R59, R278, R280). -/
def State.mmaElem (s : State) (m : Mma) (r n : Nat) (bs : List (Nat × Nat)) : BitVec 32 :=
  let ta := fp32.decode (s.ms m.core).ta.toNat
  let tb := fp32.decode (s.ms m.core).tb.toNat
  (List.range ((m.k + 31) / 32)).foldl (fun c j =>
    let ps := (bs.filter fun (k, _) => k / 32 = j).map fun (k, raw) =>
      (k, xmul (s.aXv m r k) (plateXv m.seg.fmt m.seg.planes raw))
    if m.offK then
      let ps := ps.map fun (k, p) => fp32.decode (fp32.lane 1#3 (xmul (xmul p (s.aScale m r k)) (s.bScale m k n)))
      accumulate c (blockSum ps) [ta, tb]
    else accumulate c (blockSum (ps.map (·.2))) [s.aScale m r (32 * j), s.bScale m (32 * j) n, ta, tb])
    (s.crucElem m.handle r n).1

/-- Whether a poisoned byte of the billet reaches element k of row r. -/
def State.aPois (s : State) (m : Mma) (r k : Nat) : Bool :=
  let w := fmtWidth m.tagA
  (List.range ((k * w + w + 7) / 8 - k * w / 8)).any fun i => (s.rowByte m.b r (k * w / 8 + i)).2

/-- Whether column n of B holds poison that the instruction reads. DESIGN CHOICE (log 34): poison in its index rows or in its
scales counts as poison of every element of the column. -/
def State.bPois (s : State) (m : Mma) (n : Nat) : Bool :=
  ((List.range (m.top - m.first)).any fun i => (s.plateByte m.core (m.first + i) n).2) ||
  (scaledFmt m.seg.fmt && (List.range m.k).any fun k => (s.plateByte m.core (m.scaleRow k) n).2)

/-- The checks of R264, R278 and R280: the operands, or the underlying cause. DESIGN CHOICE (log 33): the ROW of an `mmas` that is
no first row of a group of 48 raises underlying cause 35. -/
def mmaCheck (sparse : Bool) (b handle : Nat) (xb : Word) (s : State) : Except Nat Mma :=
  let t := s.billet b
  let k := (xb.extractLsb' 16 16).toNat
  let row := (xb.extractLsb' 0 16).toNat
  let g := s.issuerCore
  let seg := s.seg g (row / 256)
  let w := plateWidth seg.fmt seg.planes
  let k0 := if sparse then (row - seg.origin) / groupRows seg.spn * 48 else (row - seg.origin) * 8 / w
  let m : Mma := { core := g, b := b, handle := handle, tagA := t.tag, axisA := t.axis, seg := seg, row := row
                   k := k, k0 := k0, sparse := sparse }
  let last := m.top - 1
  let kmax := if fmtWidth t.tag = 6 then 160 else 1024 / fmtWidth t.tag
  let q (axis : Bool) : Nat := if axis then k else (k + 31) / 32
  if xb.extractLsb' 33 31 ≠ 0#31 ∨ !anvilTag t.tag ∨ k = 0 ∨ kmax < k ∨ (sparse ∧ k % 48 ≠ 0) ∨ 16384 ≤ row then .error 35
  else if !seg.valid ∨ (seg.spn ≠ 0) ≠ sparse ∨ row < seg.origin ∨ 16384 ≤ last ∨
      (List.range (last / 256 + 1 - row / 256)).any (fun i =>
        let u := s.seg g (row / 256 + i)
        !u.valid || u.origin ≠ seg.origin) ∨
      (sparse ∧ (row - seg.origin) % groupRows seg.spn ≠ 0) ∨ (scaledFmt seg.fmt ∧ k0 % 32 ≠ 0) then .error 35
  else if (scaledFmt t.tag ∧ t.nblk < q t.axis) ∨
      (scaledFmt seg.fmt ∧ seg.nscale < (if seg.axis then k0 else k0 / 32) + q seg.axis) then .error 31
  else if sparse ∧ (List.range 256).any (fun n => !s.indicesOk m n) then .error 35
  else .ok m

/-- A writer of a handle has issued: the scoreboard marks the handle busy up to its last block write (R287). DESIGN CHOICE
(log 115): how many steps that takes is free; the writer's effect is whole at its issue. -/
def State.markWriter (s : State) (k : Nat) : State :=
  s.setHandle k { s.handle k with ppc := s.pc, busyTill := s.tick + Config.writeTime s.tick }

/-- Runs k once the scoreboard marks a handle busy no longer. -/
def whenWritten (h : Nat) (s : State) (k : State → State) : State :=
  if s.tick < (s.handle h).busyTill then s.stallFor 5 (s.handle h).ppc 0 else k s

/-- The effect of an `mma` or `mmas`: every C element that no poison reaches (R278). -/
def mmaEffect (m : Mma) (e : Bool) (s : State) : State :=
  let cols := (List.range 256).map fun n => (n, s.bElems m n, s.bPois m n)
  let cells := (List.range 128).flatMap fun r => cols.map fun (n, bs, bad) =>
    let stop := bad || (s.crucElem m.handle r n).2 || bs.any fun (k, _) => s.aPois m r k
    (r, n, if stop then none else some (s.mmaElem m r n bs))
  let t := s
  let s := cells.foldl (fun s (r, n, v) => match v with | some x => s.putCruc m.handle r n x | none => s) s
  let s := if e then s.setBillet m.b { s.billet m.b with full := false, ppc := t.pc } else s
  let s := s.markWriter m.handle
  if cells.any fun (_, _, v) => v.isNone then s.trap 26 0 else s.retire 6

/-- Half cycles of the Anvil for each K (R279). -/
def anvilCost (f : BitVec 6) (planes : Nat) : Nat :=
  let w := plateWidth f planes
  if w ≤ 6 then 1 else if w ≤ 8 then 2 else if w ≤ 16 then 4 else 16

/-- The cycles for which an instruction keeps the Anvil busy (R279). -/
def anvilCycles (m : Mma) : Nat :=
  let n := (m.k * Nat.max (anvilCost m.tagA (valueBits m.tagA)) (anvilCost m.seg.fmt m.seg.planes) + 1) / 2
  let n := if (scaledFmt m.tagA && m.axisA) || (scaledFmt m.seg.fmt && m.seg.axis) then 4 * n else n
  if m.sparse then n * keptN m.seg.spn / 48 else n

/-- The busy cycles that Temper allows a core in the current window (R352). -/
def Core.limit (c : Core) : Nat := Nat.min 1250 (c.last + c.ramp)

def mmaOp (op : BitVec 6) (sparse : Bool) (o : T48) (s : State) : Out :=
  matStep op o s fun s => withHandle o.d s fun hk s =>
    let b := billetOf o.a s
    whenFull true b s fun s =>
      match mmaCheck sparse b hk (s.rx o.b) s with
      | .error cause => s.trap cause 0
      | .ok m =>
        let core := s.core m.core
        if core.limit ≤ core.busy then s.stallFor 7 0 0
        else mmaEffect m ((s.rx o.b).getLsbD 32) (s.setCore m.core { core with busy := core.busy + anvilCycles m })

def execMma (o : T48) (s : State) : Out := mmaOp 0x00 false o s
def execMmas (o : T48) (s : State) : Out := mmaOp 0x01 true o s

/-! `pload` (R272 to R275). -/

/-- Whether a missing page makes the agent wait for the pager (R283, R290, R310): the pager has not
reported it unmapped. -/
def State.pagerWorks (s : State) (va : Word) : Bool :=
  !s.hearth.unmapped.contains ((((s.ctx s.hart).unit.map (·.job)).getD 0), va.toNat / 65536)

/-- Ends an access of the MS that failed: it waits while the pager fetches a missing page (R283). -/
def State.msBad (s : State) (b : Bad) : State :=
  if b.1 = 13 ∧ s.pagerWorks b.2 then s.stall else s.trap b.1 b.2

structure Pload where
  base : Word
  kstride : Word
  spn : Nat
  kcnt : Nat
  row : Nat
  planes : Nat
  fmt : BitVec 6
  pstride : Word
  sbase : Word
  sstride : Word
  axis : Bool
  srow : Nat
  nscale : Nat

def Pload.w (d : Pload) : Nat := plateWidth d.fmt d.planes
/-- Plate rows that the data occupies (R271, R275). -/
def Pload.rows (d : Pload) : Nat :=
  if d.spn ≠ 0 then d.kcnt / 48 * groupRows d.spn
  else if d.w = 6 then (d.kcnt + 3) / 4 * 3
  else (d.kcnt * d.w + 7) / 8

/-- The descriptor of R273 with its checks (R273, R274, R454), none where it is bad. -/
def ploadDesc (w : List Word) (limit : Nat) : Option Pload :=
  let w2 := w.getD 2 0
  let w6 := w.getD 6 0
  let fmt := w2.extractLsb' 0 6
  let plane := planeFmt fmt
  let p := (w2.extractLsb' 12 4).toNat
  let held := if plane then planeCount (valueBits fmt) p limit else 0
  let d : Pload :=
    { base := w.getD 0 0, kstride := w.getD 1 0, spn := (w2.extractLsb' 48 4).toNat, kcnt := (w2.extractLsb' 32 16).toNat
      row := (w2.extractLsb' 16 14).toNat, planes := held, fmt := fmt, pstride := w.getD 3 0, sbase := w.getD 4 0
      sstride := w.getD 5 0, axis := w6.getLsbD 32, srow := (w6.extractLsb' 16 14).toNat, nscale := (w6.extractLsb' 0 16).toNat }
  if w2.extractLsb' 52 12 ≠ 0#12 ∨ w2.extractLsb' 30 2 ≠ 0#2 ∨ w2.extractLsb' 6 6 ≠ 0#6 ∨ 3 < d.spn ∨
      !(anvilTag fmt || plane) ∨ w6.extractLsb' 33 31 ≠ 0#31 ∨ w6.extractLsb' 30 2 ≠ 0#2 ∨ w.getD 7 0 ≠ 0 ∨
      (if plane then valueBits fmt < p else p ≠ 0 ∨ d.pstride ≠ 0) ∨
      (d.spn ≠ 0 ∧ (plane ∨ d.w ≠ 8 ∨ d.kcnt % 48 ≠ 0)) ∨ d.kcnt = 0 ∨ 16384 < d.kcnt ∨
      (!scaledFmt fmt ∧ (d.sbase ≠ 0 ∨ d.nscale ≠ 0)) ∨ 16384 < d.row + d.rows ∨ 16384 < d.srow + d.nscale ∨
      (d.nscale ≠ 0 ∧ d.row < d.srow + d.nscale ∧ d.srow < d.row + d.rows) then none
  else some d

/-- The memory rows that a load reads: addresses and the bytes of each. -/
def Pload.sources (d : Pload) : List Word :=
  if d.spn ≠ 0 then (List.range d.rows).map fun k => d.base + BitVec.ofNat 64 k * d.kstride
  else if planeFmt d.fmt then (List.range d.kcnt).flatMap fun k => (List.range d.planes).map fun q =>
    d.base + BitVec.ofNat 64 q * d.pstride + BitVec.ofNat 64 k * d.kstride
  else (List.range d.kcnt).map fun k => d.base + BitVec.ofNat 64 k * d.kstride
def Pload.rowBytes (d : Pload) : Nat :=
  if d.spn ≠ 0 then 256 else if planeFmt d.fmt then 32 else 32 * d.w

/-- Where bit t of column n of the data rows comes from: source row and bit; none for a bit that is 0 and clean, as the bits of
the last rows beyond element KCNT − 1 are (DESIGN CHOICE, log 35). -/
def Pload.bitSource (d : Pload) (n t : Nat) : Option (Nat × Nat) :=
  if d.spn ≠ 0 then some (t / 8, 8 * n + t % 8)
  else if d.kcnt ≤ t / d.w then none
  else if planeFmt d.fmt then
    let q := d.w - 1 - t % d.w
    if q < d.planes then some (t / d.w * d.planes + q, n) else none
  else some (t / d.w, n * d.w + t % d.w)

/-- A data byte of the Plate, with its poison, from the source rows. -/
def Pload.dataByte (d : Pload) (src : Nat → Nat → Byte × Bool) (r n : Nat) : Byte × Bool :=
  (List.range 8).foldl (fun (v, p) i =>
    match d.bitSource n (8 * r + i) with
    | some (k, b) => let (x, q) := src k (b / 8); (if x.getLsbD (b % 8) then v ||| (1#8 <<< i) else v, p || q)
    | none => (v, p)) (0#8, false)

def byteOf (l : List (List (Byte × Bool))) (k i : Nat) : Byte × Bool := (l.getD k []).getD i (0#8, false)

def ploadWrite (d : Pload) (data scales : List (List (Byte × Bool))) (s : State) : State :=
  let g := s.issuerCore
  let put (row : Nat) (f : Nat → Byte × Bool) (s : State) : State :=
    let s := (List.range 256).foldl (fun s n => let (v, p) := f n; s.putPlate g row n v p) s
    let tag : Seg :=
      { valid := true, fmt := d.fmt, planes := d.planes, spn := d.spn, axis := d.axis, srow := d.srow
        nscale := d.nscale, origin := d.row }
    { s with segs := sparsePut s.segs (64 * g + row / 256) tag }
  let s := (List.range d.rows).foldl (fun s r => put (d.row + r) (d.dataByte (byteOf data) r) s) s
  let s := (List.range d.nscale).foldl (fun s j =>
    put (d.srow + j) (fun n => byteOf scales j (if d.axis then n / 32 else n)) s) s
  s.retire 6

/-- The plane limit of the launch (R454). -/
def State.planeCap (s : State) : Nat := planeLimit (s.ctx s.hart)

def execPload (o : T48) (s : State) : Out :=
  matStep 0x02 o s fun s =>
    let va := s.rx o.a
    if va.toNat % 64 ≠ 0 then s.msRange
    else match readWords va 8 s with
      | (.error b, s) => s.msBad b
      | (.ok w, s) =>
        match ploadDesc w s.planeCap with
        | none => s.msRange
        | some d =>
          match spanAll .load d.rowBytes d.sources s with
          | (.error b, s) => s.msBad b
          | (.ok rows, s) =>
            let at' := (List.range d.nscale).map fun j => d.sbase + BitVec.ofNat 64 j * d.sstride
            match spanAll .load (if d.axis then 8 else 256) at' s with
            | (.error b, s) => s.msBad b
            | (.ok srows, s) =>
              let (data, s) := readSpans true rows s
              let (scales, s) := readSpans true srows s
              ploadWrite d data scales s

/-! The rest of MAT. -/

def execPzero (o : T48) (s : State) : Out :=
  matStep 0x03 o s fun s =>
    let xa := s.rx o.a
    let r := (xa.extractLsb' 16 14).toNat
    let n := (xa.extractLsb' 0 16).toNat
    if n = 0 ∨ 16384 < r + n then s.msRange
    else
      let lo := (s.issuerCore * 16384 + r) * 256
      State.retire { s with
        plate := sparseClear s.plate lo (lo + 256 * n)
        platePois := sparseClear s.platePois lo (lo + 256 * n) } 6

def execMscl (o : T48) (s : State) : Out :=
  matStep 0x04 o s fun s =>
    (s.modMs s.issuerCore fun m =>
      { m with ta := (s.rx o.a).setWidth 32, tb := (s.rx o.b).setWidth 32 }).retire 6

def execMsync (o : T48) (s : State) : Out := matStep 0x05 o s (·.retire 6)
def execMwait (o : T48) (s : State) : Out := matStep 0x06 o s (·.retire 6)

end Sys2Proof.Machine
end

