-- ==== Sys2Proof/Machine/Crucible.lean ====
section
/-! DEFINITION. CRUC (R284 to R290): the handle's writers apply in one step, and a drain reads its region when
it is issued; its writes to memory are one later step (log 6). -/

namespace Sys2Proof.Machine
open Sys2Proof

def crucBits (op : BitVec 6) (o : T48) : Word := t48Bits (0x12, op) o

def execCzero (o : T48) (s : State) : Out :=
  msStep s (crucBits 0x00 o) fun s => withHandle o.d s fun k s =>
    let s := s.markWriter k
    State.retire { s with
      cruc := sparseClear s.cruc (k * 32768) ((k + 1) * 32768)
      crucPois := sparseClear s.crucPois (k * 32768) ((k + 1) * 32768) } 6

/-- P(i): the row and column of element i (R286). -/
def crucPos (xb : Word) (i : Nat) : Nat × Nat :=
  let r := (xb.extractLsb' 0 7).toNat
  let c := (xb.extractLsb' 8 8).toNat
  ((r + (c + i) / 256) % 128, (c + i) % 256)

/-- What R366 reports of an element fault for which it names no kind. -/
def noKind (x : VIn) : FaultInfo := { count := 0, kind := 15, wr := false, width := x.v.bits, base := 0, stride := 0 }

def execCacc (o : T48) (s : State) : Out :=
  let form : VForm := { vform (0x12, 0x01) o [useA o] false with dst := none, align := [o.a.toNat] }
  ctStep s form.bits fun s => whenLegal form s fun s => withHandle o.d s fun k s => whenWritten k s fun s => vprep form s fun x s =>
    let res := x.acts.map fun e => (e,
      match x.taint s form.gm e (x.get s o.a.toNat e) with
      | .ok (_, true) => Except.error (s.ef (noKind x) (26, BitVec.ofNat 64 e))
      | r => r)
    let s := res.foldl (fun s (e, r) =>
      match r with
      | .ok (y, _) =>
        let (row, col) := crucPos (s.rx o.b) e
        let old := fp32.decode (s.crucElem k row col).1.toNat
        s.putCruc k row col (BitVec.ofNat 32 (fp32.lane 1#3 (xadd 1#3 old ((laneFp x.v.sb).decode y.toNat))))
      | .error _ => s) s
    let s := s.markWriter k
    vcommit form x false res s

def execCread (o : T48) (s : State) : Out :=
  let form : VForm := { vform (0x12, 0x02) o [] false with load := true }
  ctStep s form.bits fun s => whenLegal form s fun s => withHandle o.a s fun k s => whenWritten k s fun s => vprep form s fun x s =>
    let rm := s.mode 0#3
    loadCommit form x (x.acts.map fun e =>
      let (row, col) := crucPos (s.rx o.b) e
      let (c, p) := s.crucElem k row col
      let y := if x.v.sb = 2 then BitVec.ofNat 32 (bf16.lane rm (fp32.decode c.toNat)) else c
      (e, x.taint s form.gm e (.ok (y, p)))) s

/-! Drains (R288 to R290). -/

/-- A drain descriptor (R288). -/
structure DrainDesc where
  base : Word
  nc : Nat
  col0 : Nat
  nr : Nat
  row0 : Nat
  layout : Nat
  fmt : BitVec 6
  ld : Word
  br : Nat
  bc : Nat
  sbase : Word
  sld : Word
  sat : Bool
  rm : BitVec 3
  tscale : BitVec 32
  pstride : Word

def drainDesc (w : List Word) : DrainDesc :=
  let w1 := w.getD 1 0
  let w3 := w.getD 3 0
  let w6 := w.getD 6 0
  { base := w.getD 0 0, nc := (w1.extractLsb' 40 8).toNat + 1, col0 := (w1.extractLsb' 32 8).toNat
    nr := (w1.extractLsb' 24 7).toNat + 1, row0 := (w1.extractLsb' 16 7).toNat
    layout := (w1.extractLsb' 8 2).toNat, fmt := w1.extractLsb' 0 6, ld := w.getD 2 0
    br := (w3.extractLsb' 8 7).toNat + 1, bc := (w3.extractLsb' 0 8).toNat + 1
    sbase := w.getD 4 0, sld := w.getD 5 0, sat := w6.getLsbD 35, rm := w6.extractLsb' 32 3
    tscale := w6.extractLsb' 0 32, pstride := w.getD 7 0 }

/-- The limits of R288. -/
def drainOk (w : List Word) : Bool :=
  let w1 := w.getD 1 0
  let w3 := w.getD 3 0
  let w6 := w.getD 6 0
  let d := drainDesc w
  let ex := (d.tscale.extractLsb' 23 8).toNat
  w1.extractLsb' 48 16 = 0#16 && !w1.getLsbD 31 && !w1.getLsbD 23 && w1.extractLsb' 10 6 = 0#6 &&
  w1.extractLsb' 6 2 = 0#2 && assignedFmt d.fmt && (planeFmt d.fmt == (d.layout == 3)) &&
  d.row0 + d.nr ≤ 128 && d.col0 + d.nc ≤ 256 && (d.layout < 2 || d.ld = 0) &&
  w3.extractLsb' 16 48 = 0#48 && !w3.getLsbD 15 && (scaledFmt d.fmt || d.sbase = 0) &&
  w6.extractLsb' 36 28 = 0#28 && 1 ≤ d.rm.toNat && d.rm.toNat ≤ 5 && !d.tscale.getLsbD 31 && 0 < ex && ex < 255 &&
  (d.layout = 3 || d.pstride = 0) && (d.layout ≠ 2 || (d.nr % d.br = 0 && d.nc % d.bc = 0))

/-- The drained region, row by row. -/
def State.region (s : State) (k : Nat) (d : DrainDesc) : List (BitVec 32 × Bool) :=
  (List.range d.nr).flatMap fun r => (List.range d.nc).map fun c => s.crucElem k (d.row0 + r) (d.col0 + c)

/-- Issues a drain. DESIGN CHOICE (log 110): a fault at the `cdrain` itself is that of an MS instruction, SOURCE 1; SOURCE 2 is
for the fault of a drain, which `cwait` reports (R282, R290). -/
def execCdrain (o : T48) (s : State) : Out :=
  msStep s (crucBits 0x03 o) fun s => withHandle o.d s fun k s => whenWritten k s fun s =>
    let va := s.rx o.a
    if va.toNat % 64 ≠ 0 then s.msRange
    else match readWords va 8 s with
      | (.error (cause, tv), s) => s.trap cause tv
      | (.ok w, s) =>
        if !drainOk w then s.msRange
        else
          let hd := s.handle k
          let n : Drain := { desc := w, data := s.region k (drainDesc w), hart := s.hart
                             job := ((s.ctx s.hart).unit.map (·.job)).getD 0 }
          (s.setHandle k { hd with drains := hd.drains ++ [n] }).retire 6

/-- CRUC for both issuers (R142). -/
def bothStep (s : State) (k : State → State) : Out :=
  match s.who with
  | .ct _ => .next (k s)
  | .ms _ => .next (k s)
  | .ind .. => .next (k s)
  | _ => .fault .noSuchAgent

/-- `cwait` once no drain is in flight: a recorded fault is reported once (R290). -/
def reportDrain (k : Nat) (n : Reg) (s : State) (ok : State → State) : State :=
  let hd := s.handle k
  match hd.fault with
  | none => ok s
  | some (cause, i) =>
    let s := s.setHandle k { hd with fault := none }
    match s.who with
    | .ms g =>
      let w := msWord 2 cause n.toNat
      let s := s.modMs g fun m => { m with run := .stopped, faultWord := w, faultAddr := BitVec.ofNat 64 i }
      s.modCtx s.hart fun c => { c with msFaults := c.msFaults ++ [w] }
    | _ => s.trap cause (BitVec.ofNat 64 i)

def execCwait (o : T48) (s : State) : Out :=
  bothStep s fun s => withHandle o.d s fun k s =>
    if !(s.handle k).drains.isEmpty then s.stall
    else reportDrain k o.d s (fenceAcq 6 3)

def execCquery (o : T48) (s : State) : Out :=
  bothStep s fun s => withHandle o.a s fun k s =>
    let hd := s.handle k
    let (c, i) := hd.fault.getD (0, 0)
    (s.wx o.d (BitVec.ofBool (!hd.drains.isEmpty) ++ BitVec.ofBool hd.fault.isSome ++ (0#14) ++
      BitVec.ofNat 8 c ++ (0#8) ++ BitVec.ofNat 32 i)).retire 6

/-! What a drain writes (R289). -/

/-- Where element (r, c) goes: its memory order index, bit address and scale address. For planes the
address is that of plane 0. -/
def DrainDesc.place (d : DrainDesc) (r c : Nat) : Nat × Nat × Word :=
  let w := fmtWidth d.fmt
  match d.layout with
  | 0 => (r * d.nc + c, 8 * (d.base + BitVec.ofNat 64 r * d.ld).toNat + c * w, d.sbase + BitVec.ofNat 64 r * d.sld + BitVec.ofNat 64 (c / 32))
  | 1 => (c * d.nr + r, 8 * (d.base + BitVec.ofNat 64 c * d.ld).toNat + r * w, d.sbase + BitVec.ofNat 64 c * d.sld + BitVec.ofNat 64 (r / 32))
  | 2 =>
    let j := (r / d.br * (d.nc / d.bc) + c / d.bc) * d.br * d.bc + r % d.br * d.bc + c % d.bc
    (j, 8 * d.base.toNat + j * w, d.sbase + BitVec.ofNat 64 (j / 32))
  | _ => let j := r * d.nc + c; (j, 8 * d.base.toNat + j, d.sbase + BitVec.ofNat 64 (j / 32))

/-- The block of an element: elements of one block share their scale address and their row or column. -/
def DrainDesc.block (d : DrainDesc) (r c : Nat) : Nat :=
  match d.layout with
  | 0 => r * 8 + c / 32
  | 1 => c * 4 + r / 32
  | _ => (d.place r c).1 / 32

/-- The greatest finite value of a format (R289). -/
def fmtMax (f : BitVec 6) : Nat × Nat :=
  match fpOf f with
  | some p => magValue p p.maxMag
  | none => (2 ^ (valueBits f - 1) - 1, 1)

/-- ⌈log₂ (n/d)⌉ of a positive rational. -/
def ceilLog2 (n d : Nat) : Int :=
  let k := ilog2 n d
  if (if 0 ≤ k then d * 2 ^ k.toNat = n else d = n * 2 ^ (-k).toNat) then k else k + 1

/-- The exponent of a block's scale, from the finite unpoisoned elements of the block (R289). -/
def DrainDesc.scaleExp (d : DrainDesc) (xs : List (BitVec 32 × Bool)) : Int :=
  let (n, m) := xs.foldl (fun (a : Nat × Nat) (x, p) =>
    match p, fp32.decode x.toNat with
    | false, .fin _ n m => if a.1 * m < n * a.2 then (n, m) else a
    | _, _ => a) (0, 1)
  if n = 0 then 0
  else
    let (fn, fd) := fmtMax d.fmt
    match fp32.decode d.tscale.toNat with
    | .fin _ tn td => max (-9) (min 8 (ceilLog2 (n * td * fd) (m * tn * fn)))
    | _ => 0

/-- E4M3 bits of 2^e for −9 ≤ e ≤ 8. -/
def scaleBits (e : Int) : Byte :=
  if e < -6 then BitVec.ofNat 8 (2 ^ (e + 9).toNat) else BitVec.ofNat 8 ((e + 7).toNat * 8)

/-- The memory bits of an element under a block scale (R289, R44). -/
def DrainDesc.bits (d : DrainDesc) (x : BitVec 32) (e : Int) : Nat :=
  let v := fp32.decode x.toNat
  let s := scaleBits e
  let c : Cap := { rm := d.rm, sat := d.sat, vpst := 0, vtb := 0, vsb := 0, vts := d.tscale, planes := 0 }
  if scaledFmt d.fmt then narrow c d.fmt 4 x s
  else
    let q := xdiv v (fp32.decode d.tscale.toNat)
    match fpOf d.fmt with
    | some p => p.round d.rm d.sat (d.fmt == 0x00#6) q
    | none => toInteger (!unsignedFmt d.fmt) (valueBits d.fmt) d.rm d.sat q

end Sys2Proof.Machine
end

