-- ==== Sys2Proof/Machine/Drain.lean ====
section
/-! DEFINITION. The writes of a `cdrain` (R289, R290): one step once every page is there. -/

namespace Sys2Proof.Machine
open Sys2Proof

/-- The byte ranges that an element's bits touch: planes apart, a misaligned element byte by byte. -/
def DrainDesc.ranges (d : DrainDesc) (ba : Nat) : List (Word × Nat) :=
  let w := fmtWidth d.fmt
  let va := bitVa ba
  if planeFmt d.fmt then (List.range (valueBits d.fmt)).map fun q => (va + BitVec.ofNat 64 q * d.pstride, 1)
  else if w < 8 then (if ba % 8 + w ≤ 8 then [(va, 1)] else [(va, 1), (va + 1, 1)])
  else if va.toNat % (w / 8) = 0 then [(va, w / 8)]
  else (List.range (w / 8)).map fun i => (va + BitVec.ofNat 64 i, 1)

/-- The bytes, with the bits they write, of those ranges in order. -/
def DrainDesc.bytes (d : DrainDesc) (ba bits : Nat) : List (List (Byte × Byte)) :=
  let w := fmtWidth d.fmt
  let sh := ba % 8
  if planeFmt d.fmt then
    let b := valueBits d.fmt
    (List.range b).map fun q => [(BitVec.ofNat 8 (bits / 2 ^ (b - 1 - q) % 2 * 2 ^ sh), BitVec.ofNat 8 (2 ^ sh))]
  else if w < 8 then
    let v := bits * 2 ^ sh
    let m := (2 ^ w - 1) * 2 ^ sh
    (d.ranges ba).zip (List.range 2) |>.map fun (_, k) => [(BitVec.ofNat 8 (v / 256 ^ k), BitVec.ofNat 8 (m / 256 ^ k))]
  else if (bitVa ba).toNat % (w / 8) = 0 then [fullBytes (natLe (w / 8) bits)]
  else (natLe (w / 8) bits).map fun b => [(b, 0xFF#8)]

def resolveAll : List (Word × Nat) → State → Except Bad (List Place) × State
  | [], s => (.ok [], s)
  | (va, n) :: t, s => after (s.resolve va n .store) fun p s => after (resolveAll t s) fun l s => (.ok (p :: l), s)

/-- An element of the drained region, or the scale of a block: its relative index, memory order index, places or failure,
what is written, and the C value of an element. -/
structure DrainElem where
  idx : Nat
  j : Nat
  at' : Except Bad (List Place)
  bytes : List (List (Byte × Byte))
  lane : Option (BitVec 32) := none

inductive DrainEnd where
  | waits
  | unmapped (va : Word)
  | ended (s : State) (fault : Option (Nat × Nat))

/-- The scale of each block, with its address (R289). -/
def drainScales (d : DrainDesc) (data : List (BitVec 32 × Bool)) : List (Nat × Word × Int × Nat) :=
  if !scaledFmt d.fmt then []
  else
    let cells := (List.range d.nr).flatMap fun r => (List.range d.nc).map fun c => (d.block r c, (d.place r c).2.2, r * d.nc + c)
    (cells.map (·.1)).eraseDups.map fun b =>
      let mine := cells.filter (·.1 = b)
      let (_, va, i) := mine.headD (0, 0, 0)
      (b, va, d.scaleExp (mine.map fun (_, _, k) => data.getD k (0, false)), i)

/-- Resolves the elements and scales one after another. DESIGN CHOICE (log 94): a block scale whose address fails is
recorded as a failure at the block's first element, whose own write goes on; R290 speaks of elements' addresses only. -/
def drainPlaces (d : DrainDesc) (data : List (BitVec 32 × Bool)) (sc : List (Nat × Word × Int × Nat)) (s : State) :
    List DrainElem × State :=
  let cells := (List.range d.nr).flatMap fun r => (List.range d.nc).map fun c => (r, c)
  let (l, s) := cells.foldl (fun (l, s) (r, c) =>
    let i := r * d.nc + c
    let (x, p) := data.getD i (0, false)
    let (j, ba, _) := d.place r c
    if p then (({ idx := i, j := j, at' := .error (26, bitVa ba), bytes := [] } : DrainElem) :: l, s)
    else
      let e := ((sc.find? (·.1 = d.block r c)).map (·.2.2.1)).getD 0
      let (at', s) := resolveAll (d.ranges ba) s
      ({ idx := i, j := j, at' := at', bytes := d.bytes ba (d.bits x e), lane := some x } :: l, s)) (([] : List DrainElem), s)
  sc.foldl (fun (l, s) (_, va, e, i) =>
    let (at', s) := resolveAll [(va, 1)] s
    ({ idx := i, j := i, at' := at', bytes := [[(scaleBits e, 0xFF#8)]] } :: l, s)) (l, s)

/-- The cause that R290 records for a failed element. -/
def drainCause (b : Bad) : Nat := if b.1 = 25 ∨ b.1 = 26 then b.1 else 7

/-- Runs the oldest drain of a handle to its end. It is an engine command (R65): its writes change no copy in a cache way
(R67). The amax of the unit's context takes every element written (R58). DESIGN CHOICE (log 109): where several pages are
unmapped, the address of the lowest element, or of its block's scale, is reported (R290). -/
def State.runDrain (s : State) (key : Nat) : DrainEnd :=
  match (s.handle key).drains with
  | [] => .waits
  | n :: rest =>
    let d := drainDesc n.desc
    let who := s.who
    let sc := drainScales d n.data
    let (els, t) := drainPlaces d n.data sc (s.asBellows n.hart)
    let missing (e : DrainElem) : Option Word := match e.at' with
      | .error (15, va) => some va
      | _ => none
    match ((els.mergeSort fun a b => a.idx ≤ b.idx).filterMap missing).find? fun va => !t.pagerWorks va with
    | some va => .unmapped va
    | none =>
      if els.any fun e => (missing e).isSome then .waits
      else
        let order := els.reverse.mergeSort fun a b => a.j ≤ b.j
        let t := order.foldl (fun t e => match e.at' with
          | .ok ps => (ps.zip e.bytes).foldl (fun t (p, bs) => match p with
              | .mem x _ => t.homeWrite .other x.pa bs
              | _ => t) t
          | .error _ => t) t
        let t := t.modCtx n.hart fun c => order.foldl (fun c e => match e.at', e.lane with
          | .ok _, some x => noteDrain c d.fmt x
          | _, _ => c) c
        let bad := els.filterMap fun e => match e.at' with
          | .error b => some (e.idx, drainCause b)
          | .ok _ => none
        let first := bad.find? fun b => bad.all (b.1 ≤ ·.1)
        let hd := t.handle key
        let t := t.setHandle key { hd with
          drains := rest
          fault := match hd.fault, first with
            | none, some (i, cause) => some (cause, i)
            | f, _ => f }
        .ended { t with who := who } (first.map fun b => (b.2, b.1))

end Sys2Proof.Machine
end

