-- ==== Sys2Proof/Machine/Windows.lean ====
section
/-! DEFINITION. WIN (R234 to R240). -/

namespace Sys2Proof.Machine
open Sys2Proof

/-! The fields of GRID and KVB descriptors (R235). -/

def gridLevels (d : List Word) : Nat := ((d.getD 2 0).extractLsb' 0 4).toNat + 1
def gridDim (d : List Word) : Nat := ((d.getD 2 0).extractLsb' 4 3).toNat + 1
def gridFeat (d : List Word) : Nat := 2 ^ ((d.getD 2 0).extractLsb' 7 2).toNat
def gridBf16 (d : List Word) : Bool := (d.getD 2 0).getLsbD 9
def gridElem (d : List Word) : Nat := if gridBf16 d then 2 else 4

def levelN (l : Word × Word) : Nat := (l.1.extractLsb' 0 32).toNat
def levelLog (l : Word × Word) : Nat := (l.1.extractLsb' 32 5).toNat
def levelDense (l : Word × Word) : Bool := l.1.getLsbD 37

/-- A level entry of a GRID window (R235). -/
def levelOk (d : List Word) (size : Nat) (l : Word × Word) : Bool :=
  l.1.extractLsb' 38 26 = 0#26 && 10 ≤ levelLog l && levelLog l ≤ 26 && 2 ≤ levelN l &&
  (!levelDense l || levelN l ^ gridDim d ≤ 2 ^ levelLog l) &&
  l.2.toNat + 2 ^ levelLog l * gridFeat d * gridElem d ≤ size

/-- Whether a stream of the context has its BASE inside a window's aperture (R236). -/
def streamInWindow (c : Ctx) (n : Nat) : Bool :=
  c.streams.toList.any fun t => t.bound && isAperture (t.desc.getD 0 0) &&
    ((t.desc.getD 0 0).extractLsb' 40 4).toNat = n

/-- The checks of R236 step 3 on a descriptor and its levels. -/
def windowOk (c : Ctx) (n : Nat) (d : List Word) (levels : List (Word × Word)) : Bool :=
  let w : Win := { desc := d }
  let word (k : Nat) : Word := d.getD k 0
  w.base.toNat % 64 = 0 && (word 1).extractLsb' 51 5 = 0#5 && (word 1).extractLsb' 40 8 = 0#8 &&
  w.cls ≤ 3 && w.size ≠ 0 && w.base.toNat + w.size ≤ 0xFFFFE00000000000 &&
  (match w.cls with
    | 2 => (word 2).extractLsb' 10 54 = 0#54 && (d.drop 4).all (· = 0#64) && levels.all (levelOk d w.size)
    | 3 => (word 2).extractLsb' 5 59 = 0#59 && 12 ≤ (word 2).toNat && (word 2).toNat ≤ 18 &&
        (word 3).toNat % 4 = 0 && (word 4).extractLsb' 32 32 = 0#32 && (word 5).toNat % 2 = 0 &&
        (word 6).toNat % 32 = 0 && word 7 = 0#64
    | _ => (d.drop 2).all (· = 0#64)) &&
  !streamInWindow c n

/-- The level array of a GRID descriptor, read as scalar loads. -/
def readLevels (d : List Word) (s : State) : Except (Nat × Word) (List (Word × Word)) × State :=
  let w : Win := { desc := d }
  if w.cls ≠ 2 then (.ok [], s)
  else
    after (readWords (d.getD 3 0) (2 * gridLevels d) s) fun l s =>
      (.ok ((List.range (gridLevels d)).map fun k => (l.getD (2 * k) 0, l.getD (2 * k + 1) 0)), s)

/-- Copies a checked descriptor into a window (R236 steps 4 and 5). One that the context binds
again obeys R69 from here on, as after `winval` (R80; DEDUCED, log 108). -/
def State.setWindow (s : State) (h n : Nat) (d : List Word) (levels : List (Word × Word)) : State :=
  s.modCtx h fun c => c.setWin n { bound := true, desc := d, levels := levels, since := s.memLog.length, fresh := (c.win n).was, was := true }

/-- R236 step 1: no micro-thread runs, then as `lsync`. -/
def whenQuiet (s : State) (k : State → State) : State :=
  match s.runningThread s.hart with
  | some m => s.stallThreads s.hart m
  | none => afterDrain s k

def execWbind (o : T48) (s : State) : Out :=
  ctStep s (t48Bits (0x0F, 0x00) o) fun s => whenQuiet s fun s =>
    let h := s.hart
    let n := o.b.toNat
    let va := s.rx o.a
    match readWords va 8 s with
    | (.error (cause, tv), s) => s.trap cause tv
    | (.ok d, s) =>
      match readLevels d s with
      | (.error (cause, tv), s) => s.trap cause tv
      | (.ok levels, s) =>
        if va.toNat % 64 = 0 ∧ windowOk (s.ctx h) n d levels then (s.setWindow h n d levels).retire 6
        else s.trap 25 va

def execWunbind (o : T48) (s : State) : Out :=
  ctStep s (t48Bits (0x0F, 0x01) o) fun s =>
    let h := s.hart
    let n := o.b.toNat
    if !((s.ctx h).win n).bound then s.retire 6
    else whenQuiet s fun s =>
      if streamInWindow (s.ctx h) n then s.trap 25 (windowAddr n)
      else (s.modCtx h fun c => c.setWin n { was := true }).retire 6

/-- R238: from here on the window's reads are ordinary ones, until it is bound again. -/
def execWinval (o : T48) (s : State) : Out :=
  ctStep s (t48Bits (0x0F, 0x02) o) fun s =>
    let h := s.hart
    let n := o.b.toNat
    let w := (s.ctx h).win n
    if !w.bound then s.trap 25 (windowAddr n)
    else (s.modCtx h fun c => c.setWin n { w with since := s.memLog.length, fresh := true }).retire 6

/-- R239. -/
def windowQuery (w : Win) : Word :=
  if w.bound then (w.desc.getD 1 0 &&& 0x0007_00FF_FFFF_FFFF) ||| 0x8000_0000_0000_0000 else 0

def execWquery (o : T48) (s : State) : Out :=
  ctStep s (t48Bits (0x0F, 0x03) o) fun s =>
    (s.wx o.d (windowQuery ((s.ctx s.hart).win o.b.toNat))).retire 6

end Sys2Proof.Machine
end

