-- ==== Sys2Proof/Machine/Trace.lean ====
section
/-! DEFINITION. Trace records and their buffer (R455, R456). -/

namespace Sys2Proof.Machine
open Sys2Proof

def Plat.tracing (p : Plat) (kind job : Nat) : Bool :=
  p.trctl.getLsbD 0 && p.trctl.getLsbD (16 + kind) &&
  (p.trctl.getLsbD 47 || (p.trctl.extractLsb' 48 16).toNat == job)

def Plat.traceUsed (p : Plat) : Nat := (p.traceBuf.map (·.length)).sum
/-- The trace buffer of 256 KiB has room for n bytes more. -/
def Plat.traceRoom (p : Plat) (n : Nat) : Bool := p.traceUsed + n ≤ 262144

/-- A record: its header unit, and its extension where one follows (R455). -/
def traceBytes (kind job clu place : Nat) (time pc arg : Word) (ext : Option (List Nat)) : List Byte :=
  natLe 8 (kind * 2 ^ 56 + (if ext.isSome then 2 ^ 55 else 0) + job % 65536 * 2 ^ 32 + clu * 65536 + place) ++
  natLe 8 time.toNat ++ natLe 8 pc.toNat ++ natLe 8 arg.toNat ++
  ((ext.map fun l => l.flatMap (natLe 2)).getD [])

/-- A DROP record enters once there is room for it (R456). -/
def State.traceDrops (s : State) : State :=
  let p := s.plat
  if p.drops = 0 ∨ !p.traceRoom 32 ∨ !p.trctl.getLsbD 21 then s
  else { s with plat := { p with
    drops := 0
    traceBuf := p.traceBuf ++ [traceBytes 5 0 0 0 s.time 0 (BitVec.ofNat 64 p.drops) none] } }

/-- A record enters the buffer, after the DROP record that is due, or is dropped and counted. -/
def State.traceRec (s : State) (bytes : List Byte) : State :=
  let s := s.traceDrops
  let p := s.plat
  if (p.drops = 0 ∨ !p.trctl.getLsbD 21) ∧ p.traceRoom bytes.length then
    { s with plat := { p with traceBuf := p.traceBuf ++ [bytes] } }
  else { s with plat := { p with drops := p.drops + 1, dropped := Nat.min (p.dropped + 1) 0xFFFFFFFF } }

/-- The records of a kind must be held until they fit (R456). -/
def State.traceHolds (s : State) (kind job n : Nat) : Bool :=
  s.plat.tracing kind job && s.plat.trctl.getLsbD 1 && !s.plat.traceRoom n

/-- The slots attached to a context, as bits, and EP of each: the lowest element of its set in `mf` (R455). -/
def State.slotBits (s : State) (h : Nat) : Nat := 2 ^ (s.order h).length - 1
def State.slotEps (s : State) (h : Nat) : List Nat :=
  let c := s.ctx h
  let ord := s.order h
  let per := 512 * vtyLmul c.vty / vtySb c.vty
  (List.range 16).map fun j =>
    if ord.length ≤ j then 0xFFFF
    else
      let bit (e : Nat) : Bool :=
        let (q, p) := maskPlace ord (vtySb c.vty) e
        q = ord.getD j 0 && sparseGet false s.mbit (((4 * q + ctxNo h) * 9 + 8) * 2048 + p)
      ((List.range (Nat.min 65535 (per * ord.length))).find? bit).getD 0xFFFF

def placeBits (h : Nat) : Nat := dieOfCore (coreOf h) * 128 + coreOf h % 32 * 4 + ctxNo h

/-- A SAMPLE, BREAK or FAULT record of a context. -/
def State.traceCtx (s : State) (kind h : Nat) (pc arg : Word) : State :=
  let job := ((s.ctx h).unit.map (·.job)).getD 0
  if !s.plat.tracing kind job then s
  else s.traceRec (traceBytes kind job (s.slotBits h) (placeBits h) s.time pc arg (some (s.slotEps h)))

/-- A LAUNCH record: EVENT 0 names no context. -/
def State.traceLaunch (s : State) (job queue index event status : Nat) (h : Option Nat) : State :=
  if !s.plat.tracing 3 job then s
  else s.traceRec (traceBytes 3 job ((h.map s.slotBits).getD 0) ((h.map placeBits).getD 0) s.time
    (BitVec.ofNat 64 index) (BitVec.ofNat 64 (queue * 2 ^ 48 + status * 256 + event)) none)

def sampleArg (c : Ctx) : Word :=
  BitVec.ofNat 64 ((match c.loop.mode with | .off => 0 | .seq => 1 | .ind => 2) * 65536 + c.vl % 65536)

/-- A sample is due. Where STALLMODE holds its record, the context stops until it fits (R456). -/
def execTraceSample (hart : Nat) (s : State) : Out :=
  let c := s.ctx hart
  let sper := (s.plat.trctl.extractLsb' 22 5).toNat
  .next (if c.unit.isNone ∨ sper = 0 then s
    else if s.traceHolds 1 ((c.unit.map (·.job)).getD 0) 64 then s.modCtx hart fun c => { c with sampleDue := true }
    else s.traceCtx 1 hart c.pc (sampleArg c))

/-- A SAMPLE record that is due still does not fit: the context issues nothing (R456). -/
def State.traceStops (s : State) (h : Nat) : Bool :=
  (s.ctx h).sampleDue && s.traceHolds 1 (((s.ctx h).unit.map (·.job)).getD 0) 64

/-- The SAMPLE record that was due is written. -/
def State.traceDue (s : State) (h : Nat) : State :=
  if (s.ctx h).sampleDue then
    (s.traceCtx 1 h (s.ctx h).pc (sampleArg (s.ctx h))).modCtx h fun c => { c with sampleDue := false }
  else s

def execTraceDropRecord (s : State) : Out := .next s.traceDrops

/-- The oldest record leaves on a trained, enabled lane (R455). -/
def State.traceSend (s : State) : State :=
  let p := s.plat
  match p.traceBuf with
  | [] => s
  | r :: t =>
    if p.lanesUp &&& p.trctl.extractLsb' 32 8 = 0#8 then s
    else { s with plat := { p with traceBuf := t, traceOut := p.traceOut ++ [r] } }

/-- A lane gains or loses training (R455). -/
def execTraceLaneTraining (lane : Nat) (up : Bool) (s : State) : Out :=
  .next { s with plat := { s.plat with
    lanesUp := if up then s.plat.lanesUp ||| (1#8 <<< lane) else s.plat.lanesUp &&& ~~~(1#8 <<< lane) } }

/-- A TRCTL write (R455): SPER and KEN are clamped, and setting EN starts DROPPED again. -/
def execTrctlWrite (v : BitVec 64) (s : State) : Out :=
  let sper := (v.extractLsb' 22 5).toNat
  let w := (v &&& 0xFFFF80FF003E0003) ||| (if 10 ≤ sper ∧ sper ≤ 26 then BitVec.ofNat 64 (sper * 2 ^ 22) else 0)
  let on : Bool := w.getLsbD 0 && !s.plat.trctl.getLsbD 0
  .next { s with plat := { s.plat with trctl := w, dropped := if on then 0 else s.plat.dropped } }

end Sys2Proof.Machine
end

