-- ==== Sys2Proof/Machine/Hearth.lean ====
section
/-! DEFINITION. What the Hearth's rules share: its accesses to a job's memory, counters (R388), launches,
the release of a unit (R11, R308), a killed unit (R376), fatal faults (R372) and cancels (R390). -/

namespace Sys2Proof.Machine
open Sys2Proof

/-! Jobs and their memory. -/

def hubCore : Nat := 4096
def State.job (s : State) (j : Nat) : Job := sparseGet {} s.hearth.jobs j
def State.setJob (s : State) (j : Nat) (v : Job) : State :=
  { s with hearth := { s.hearth with jobs := sparsePut s.hearth.jobs j v } }
def State.modJob (s : State) (j : Nat) (f : Job → Job) : State := s.setJob j (f (s.job j))

/-- The Hearth reads and writes a job's structures as user accesses of the job (R361). -/
def State.hubSpace (s : State) (j : Nat) : Space := { core := hubCore, job := j, root := (s.job j).root, user := true }

/-- A word of a job's memory; none where it does not translate or is poisoned. -/
def State.hubWord (s : State) (j : Nat) (va : Word) : Option Word × State :=
  match s.translateIn (s.hubSpace j) va .load with
  | (.error _, s) => (none, s)
  | (.ok x, s) => (if x.pois || s.memPoisoned x.pa 8 then none else some (BitVec.ofNat 64 (s.memNat x.pa 8)), s)

def State.hubWords (s : State) (j : Nat) (va : Word) : Nat → Option (List Word) × State
  | 0 => (some [], s)
  | n + 1 =>
    match s.hubWord j va with
    | (none, s) => (none, s)
    | (some w, s) =>
      match s.hubWords j (va + 8) n with
      | (some t, s) => (some (w :: t), s)
      | (none, s) => (none, s)

/-- Writes a word of a job's memory; nothing where it does not translate. -/
def State.hubPut (s : State) (j : Nat) (va v : Word) : State :=
  match s.translateIn (s.hubSpace j) va .store with
  | (.error _, s) => s
  | (.ok x, s) => s.homeWrite .other x.pa (fullBytes (natLe 8 v.toNat))

def State.hubPuts (s : State) (j : Nat) (va : Word) (l : List Word) : State :=
  ((List.range l.length).zip l).foldl (fun s (i, w) => s.hubPut j (va + BitVec.ofNat 64 (8 * i)) w) s

/-! Queues. -/

def State.qRecord (s : State) (key : Nat) : Word :=
  (s.job (key / 65536)).qtab + BitVec.ofNat 64 (256 * (key % 65536))
def State.setSlot (s : State) (key : Nat) (v : QSlot) : State :=
  { s with hearth := { s.hearth with slots := sparsePut s.hearth.slots key v } }
def State.modSlot (s : State) (key : Nat) (f : QSlot → QSlot) : State :=
  match s.slot? key with
  | some v => s.setSlot key (f v)
  | none => s

/-! Counters (R388). -/

def counterValue (w : Word) : Nat := w.toNat % 2 ^ 63
def counterFailed (w : Word) : Bool := w.getLsbD 63
def State.counter (s : State) (j c : Nat) : Word := sparseGet 0 (s.job j).counters c

/-- A queue's program that waits on a counter runs again when it changes (R396). -/
def QSlot.awake (q : QSlot) (c : Nat) : QSlot := if q.waits.any (·.1 = c) then { q with rerun := true } else q

/-- Sets a counter and writes its mirror. -/
def State.setCounter (s : State) (j c : Nat) (w : Word) : State :=
  let s : State := if s.counter j c = w then s else { s with hearth := { s.hearth with
    slots := s.hearth.slots.map fun p => if p.1 / 65536 = j then (p.1, p.2.awake c) else p } }
  let s := s.modJob j fun v => { v with counters := sparseSet 0 v.counters c w }
  s.hubPut j ((s.job j).cmir + BitVec.ofNat 64 (8 * c)) w

/-- Adds to VALUE, mod 2^63, leaving FAILED. -/
def State.bumpCounter (s : State) (j c k : Nat) : State :=
  let w := s.counter j c
  s.setCounter j c ((w &&& 0x8000000000000000) ||| BitVec.ofNat 64 ((counterValue w + k) % 2 ^ 63))

/-- A completion advances a counter, or sets FAILED in it; counter 0 is not named. -/
def State.signal (s : State) (j c : Nat) (failed : Bool) : State :=
  if c = 0 then s
  else if failed then s.setCounter j c (s.counter j c ||| 0x8000000000000000)
  else s.bumpCounter j c 1

/-! Packets and launches (R386). -/

def pktType (w : List Word) : Nat := ((pktWord w 0x08).extractLsb' 56 8).toNat
def pktPrio (w : List Word) : Nat := ((pktWord w 0x08).extractLsb' 53 3).toNat
def pktSms (w : List Word) : Bool := (pktWord w 0x08).getLsbD 52
def pktElide (w : List Word) : Bool := (pktWord w 0x08).getLsbD 51
def pktLast (w : List Word) : Bool := (pktWord w 0x08).getLsbD 50
def pktDies (w : List Word) : Nat := ((pktWord w 0x08).extractLsb' 45 3).toNat
def pktGang (w : List Word) : Nat := ((pktWord w 0x08).extractLsb' 42 3).toNat
def pktUnits (w : List Word) : Nat := ((pktWord w 0x08).extractLsb' 16 16).toNat
def pktCcap (w : List Word) : Nat := ((pktWord w 0x08).extractLsb' 0 16).toNat
def pktHandles (w : List Word) : List Nat := (List.range 24).filter fun h => (pktWord w 0x28).getLsbD (40 + h)
def pktSig (w : List Word) : Nat := ((pktWord w 0x38).extractLsb' 54 10).toNat
def pktGsig (w : List Word) : Nat := ((pktWord w 0x38).extractLsb' 44 10).toNat

def State.modLaunch (s : State) (key index : Nat) (f : Launch → Launch) : State :=
  s.modSlot key fun q => { q with taken := q.taken.map fun l => if l.index = index then f l else l }

/-- The harts that run units of a launch; saved ones stand at virtual harts. -/
def State.unitsOf (s : State) (key index : Nat) : List Nat :=
  (s.ctxs.filter fun p => match p.2.unit with
    | some u => qKey u.job u.queue = key && u.index = index
    | none => false).map (·.1)

/-! Fences (R450); a failed core takes no unit either (R392). -/

def State.coreFenced (s : State) (g : Nat) : Bool :=
  s.plat.failed.getLsbD g || s.plat.fenceDie.getLsbD (dieOfCore g) || s.plat.fenceCore.getLsbD g || s.plat.cfg.cfence.getLsbD g

/-! Bank modes (R22, R23). -/

def State.setBank (s : State) (q b mode : Nat) : State :=
  if s.bankModeOf q b = mode then s
  else
    let lo := (16 * q + b) * 65536
    { s with
      bankMode := sparseSet 0 s.bankMode (16 * q + b) mode
      ways := s.ways.filter fun e => !(e.1 / 2 ^ 46 = q && e.2.bank = b)
      scratch := sparseClear s.scratch lo (lo + 65536)
      scratchPois := sparseClear s.scratchPois (lo / 4) (lo / 4 + 16384) }

/-- A deferred switch takes effect once the bank is held no longer. -/
def execBankSwitchDeferred (cl bank : Nat) (s : State) : Out :=
  let k := 16 * cl + bank
  .next (match s.bankReq.find? (·.1 = k) with
    | some (_, m) =>
      if s.bankHeld k then s
      else { s with bankReq := s.bankReq.filter (·.1 ≠ k) }.setBank cl bank m
    | none => s)

/-! The release of a unit. -/

/-- A context with no unit. What the core monitor keeps for the hart stays, as do stores in its queues. -/
def blankCtx (c : Ctx) : Ctx :=
  { queue := c.queue, instret := c.instret, stvec := c.stvec, sscratch := c.sscratch, sie := c.sie, sip := c.sip }

/-- The end of a spliced unit: its FIFO banks (R23, R332). -/
def State.dropSplice (s : State) (p : Nat) : State :=
  match s.splices.find? (·.1 = p) with
  | none => s
  | some (_, sp) =>
    let s := { s with splices := s.splices.filter (·.1 ≠ p) }
    (sp.fifos.flatMap (·.banks)).foldl (fun s (b, was) => if was then s.setBank (b / 16) (b % 16) 0 else s) s

/-- A context gives up its unit: its clusters follow R11, a fenced one to no heir (R450), and windows,
streams and the MS are released. -/
def State.releaseUnit (s : State) (h : Nat) : State :=
  let g := coreOf h
  let s := s.heirTransfer h
  let s := (List.range 4).foldl (fun s n =>
    let k := s.cluster (4 * g + n)
    if s.clusterFenced (4 * g + n) ∧ k.pend then s.setCluster (4 * g + n) { k with owner := none, pend := false } else s) s
  let s := if (s.ms g).owner = some h then s.modMs g fun m =>
      { m with owner := none, run := .idle, faultWord := 0, faultAddr := 0, ibuf := [], queue := [] } else s
  let s := s.dropSplice h
  let s := { s with mts := s.mts.filter fun p => !(p.1 / 128 % 4 = ctxNo h && p.1 / 512 / 4 = g) }
  s.modCtx h blankCtx

/-- Forgets everything that stands under a saved unit's virtual hart. -/
def State.dropVirtual (s : State) (id : Nat) : State :=
  let q := virtCluster id
  let g := virtCore id
  let k := 4 * q
  { s with
    ctxs := s.ctxs.filter (·.1 ≠ virtHart id)
    mss := s.mss.filter (·.1 ≠ g)
    vreg := sparseClear s.vreg (k * 4096) ((k + 64) * 4096)
    vpois := sparseClear s.vpois (k * 4096) ((k + 64) * 4096)
    mbit := sparseClear s.mbit (k * 18432) ((k + 64) * 18432)
    mpois := sparseClear s.mpois (k * 18432) ((k + 64) * 18432)
    mts := sparseClear s.mts (k * 128) ((k + 64) * 128)
    billets := sparseClear s.billets (8 * g) (8 * g + 8)
    brow := sparseClear s.brow (8 * g * 16384) ((8 * g + 8) * 16384)
    bpois := sparseClear s.bpois (8 * g * 16384) ((8 * g + 8) * 16384)
    bscale := sparseClear s.bscale (8 * g * 1024) ((8 * g + 8) * 1024)
    hearth := { s.hearth with saved := s.hearth.saved.filter (·.id ≠ id) } }

def State.retargetDrains (s : State) (h h' : Nat) : State :=
  { s with handles := s.handles.map fun p => (p.1, { p.2 with
      drains := p.2.drains.map fun d => if d.hart = h then { d with hart := h' } else d }) }

/-- Drains of a killed unit that wait for a page go on: what they resolve their addresses with stands under a hart of its
own until the last has ended (R376, log 54). -/
def State.keepDrains (s : State) (h : Nat) : State :=
  if s.handles.any fun p => p.2.drains.any (·.hart = h) then
    let id := s.hearth.nextId
    let s := s.setCtx (virtHart id) { unit := (s.ctx h).unit, wins := (s.ctx h).wins }
    let s := s.retargetDrains h (virtHart id)
    { s with hearth := { s.hearth with nextId := id + 1 } }
  else s

/-- A hart that only drains of a killed unit stand under goes with the last of them. -/
def State.dropKept (s : State) (h : Nat) : State :=
  if h < 512 ∨ s.hearth.saved.any (fun r => virtHart r.id = h) ∨ s.handles.any (fun p => p.2.drains.any (·.hart = h)) then s
  else { s with ctxs := s.ctxs.filter (·.1 ≠ h) }

/-- COUNT of a unit's `spsn` goes to its launch's completion record (R375). -/
def State.noteCount (s : State) (h : Nat) : State :=
  match (s.ctx h).unit with
  | none => s
  | some u =>
    let n := ((s.ctx h).spsn.extractLsb' 32 32).toNat
    (s.modLaunch (qKey u.job u.queue) u.index fun l => { l with pcount := Nat.min (l.pcount + n) 0xFFFFFFFF }).modCtx h
      fun c => { c with spsn := c.spsn &&& 0xFFFFFFFF }

/-- The issued drains of a killed unit complete: at once, or where they wait for a page under a hart of their own (R376). -/
def State.endDrains (s : State) (h : Nat) : State :=
  (s.handles.foldl (fun s (k, hd) =>
    (hd.drains.filter (·.hart = h)).foldl (fun s _ =>
      match s.runDrain k with
      | .ended t _ => t
      | .unmapped _ => s.setHandle k { s.handle k with drains := (s.handle k).drains.drop 1 }
      | .waits => s) s) s).keepDrains h

/-- The cancel operation of the Unit level (R29), which the cancels of the levels above and a fatal fault carry out (R372, R390).
A killed unit (R376): issued drains complete, accepted stream elements, micro-threads and engine
commands go, and stores in the class queues drain as they stand. -/
def State.killUnit (s : State) (h : Nat) : State :=
  let s := ((s.noteCount h).endDrains h).joinThreads h fun _ _ => true
  let g := coreOf h
  let s := if (s.ms g).owner = some h then s.modCtx h fun c => { c with queue := c.queue ++ (s.ms g).queue } else s
  let left := (s.ctx h).unit.map fun u => (qKey u.job u.queue, u.index)
  (s.releaseUnit h).modCtx h fun c => { c with leftOf := left }

/-- The committed point state and the saved records of a unit (R349, R392). -/
def State.savedOf (s : State) (key index : Nat) : List Saved :=
  s.hearth.saved.filter fun r => qKey r.job r.queue = key && r.index = index

/-- Ends a launch with a status: unplaced units are never placed, placed ones are killed (R376, R390). -/
def State.endLaunch (s : State) (key index status : Nat) (f : Launch → Launch) : State :=
  match s.launch? key index with
  | none => s
  | some l =>
    if l.status.isSome then s
    else
      let s := s.modLaunch key index fun l => { f l with status := some status, tend := s.time }
      let s := (s.savedOf key index).foldl (fun s r =>
        ((s.noteCount (virtHart r.id)).endDrains (virtHart r.id)).dropVirtual r.id) s
      (s.unitsOf key index).foldl State.killUnit s

/-- A launch that does not complete takes its spliced partner (R336, R337) and a successor started early
(R304, R346) with it. -/
def State.failLaunch (s : State) (key index status : Nat) (f : Launch → Launch) : State :=
  match s.launch? key index with
  | none => s
  | some l =>
    if l.status.isSome then s
    else
      let s := s.endLaunch key index status f
      let s := match l.partner with
        | some p => s.endLaunch key p 3 id
        | none => s
      let next := Nat.max index (l.partner.getD index) + 1
      match s.launch? key next with
      | some n => if n.early then s.endLaunch key next 4 id else s
      | none => s

/-- A fatal fault of a context's unit (R372). -/
def State.fatal (s : State) (h cause : Nat) (tv : Word) : State :=
  match (s.ctx h).unit with
  | none => s
  | some u => s.failLaunch (qKey u.job u.queue) u.index 1 fun l => { l with cause := cause, stval := tv, funit := u.num }

/-- A queued store is performed. One whose memory is gone meanwhile raises an access fault: an extent released (R431), or a
peer that no live port reaches any more (R432). -/
def State.perform (s : State) (hart : Nat) (w : Writer) (p : Pending) : State :=
  if s.installed p.pa then s.homeWrite w p.pa p.bytes
  else
    let (tv, s) := s.draw
    s.fatal hart 7 tv

/-- The completion counter of the Unit level, held in the Hearth: the units of a launch that have retired (R29). DESIGN CHOICE
(log 117): the spec gives it no place in memory, so that its mirror is the record of the launch that ends with the last. -/
def Launch.unitsDone (l : Launch) : Nat := l.retired.length

/-- A unit of a launch has retired (R29). -/
def State.noteRetired (s : State) (u : UnitRef) : State :=
  let key := qKey u.job u.queue
  let s := (s.savedOf key u.index).foldl (fun s r => if r.num = u.num then s.dropVirtual r.id else s) s
  s.modLaunch key u.index fun l =>
    let l := { l with retired := l.retired ++ [u.num] }
    if l.status.isNone ∧ l.unitsDone = pktUnits l.words then { l with status := some 0, tend := s.time } else l

/-- The number of a job that has ended may serve another one: what stood under it belongs to no job that runs (R23, R272). -/
def State.forgetJob (s : State) (j : Nat) : State :=
  { s with
    mss := s.mss.map fun p => if p.2.plateJob = some j then (p.1, { p.2 with plateJob := some 65536, plateOwner := none }) else p
    clus := s.clus.map fun p => if p.2.job = some j then (p.1, { p.2 with job := some 65536 }) else p }

/-- Whether the machine runs jobs: stage 4 of the boot is complete (R439). Until then doorbells, cancels and writes of the
job control blocks are ignored. -/
def State.running (s : State) : Bool := s.plat.mode = 1

/-! Cancels (R390). -/

/-- A consumer that is cancelled before the pair is taken: the splice is abandoned (R337, R390, R395). -/
def QSlot.unmate (q : QSlot) (index : Nat) : QSlot :=
  { q with ready := q.ready.map fun r => if r.index + 1 = index then { r with mate := none } else r }

def State.cancelOne (s : State) (key index ustat : Nat) : State :=
  match s.slot? key with
  | none => s
  | some q =>
    if q.read ≤ index then s.modSlot key fun q => { q with cancels := index :: q.cancels.filter (· ≠ index) }.unmate index
    else s.failLaunch key index 2 fun l => { l with ustat := ustat }

/-- Every handle of a job is zeroed and freed (R17): one whose drain waits for a page, whose region it has read, once that
has ended (R376). -/
def State.zeroHandles (s : State) (j : Nat) : State :=
  (s.handles.filter fun p => p.2.job = some j).foldl (fun s (k, _) =>
    { s with
      cruc := sparseClear s.cruc (k * 32768) ((k + 1) * 32768)
      crucPois := sparseClear s.crucPois (k * 32768) ((k + 1) * 32768)
      handles := (s.handles.filter fun p => p.1 ≠ k || !p.2.drains.isEmpty).map fun p =>
        if p.1 = k then (k, { job := p.2.job, drains := p.2.drains }) else p }) s

/-- Whether drains of a launch are still on their way: those of a killed unit among them (R391). -/
def State.drainsLeft (s : State) (key index : Nat) : Bool :=
  s.handles.any fun p => p.2.drains.any fun d => (s.ctx d.hart).unit.any fun u => qKey u.job u.queue = key && u.index = index

def State.queuesOf (s : State) (j : Nat) : List Nat := (s.hearth.slots.map (·.1)).filter (· / 65536 = j)

/-- A job-level cancel: counters and records stop where the kills leave them. -/
def State.cancelJob (s : State) (j : Nat) : State :=
  let s := (s.queuesOf j).foldl (fun s k =>
    (((s.slot? k).map (·.taken)).getD []).foldl (fun s l => s.endLaunch k l.index 2 id) s) s
  let s := s.modJob j fun v => { v with disabled := true, homes := [] }
  let s := { s with hearth := { s.hearth with
      slots := s.hearth.slots.filter (·.1 / 65536 ≠ j), runs := s.hearth.runs.filter (·.1 / 65536 ≠ j)
      waiting := s.hearth.waiting.filter (· / 65536 ≠ j), pending := s.hearth.pending.filter (·.1 / 65536 ≠ j),
      marks := s.hearth.marks.filter (·.1 / 65536 ≠ j) } }
  s.zeroHandles j

end Sys2Proof.Machine
end

