-- ==== Sys2Proof/Machine/Preempt.lean ====
section
/-! DEFINITION. A unit leaves its core and comes back (R349 to R351, R338, R379, R380). A saved unit's
context, register slices and MS stand under a virtual hart, so nothing of them is lost. -/

namespace Sys2Proof.Machine
open Sys2Proof

/-! Moving a block of a sparse store. -/

def moveBlock {α : Type} (keep : Bool) (size a b : Nat) (m : Sparse α) : Sparse α :=
  if a = b then m
  else
    let mine := m.filter fun p => p.1 / size = a
    mine.foldl (fun m p => sparsePut m (p.1 % size + size * b) p.2)
      (m.filter fun p => p.1 / size ≠ b && (keep || p.1 / size ≠ a))

/-- A context's slice of a cluster, from one hart and cluster to another. -/
def State.moveSlice (s : State) (keep : Bool) (h q h' q' : Nat) : State :=
  let a := 4 * q + ctxNo h
  let b := 4 * q' + ctxNo h'
  { s with
    vreg := moveBlock keep 4096 a b s.vreg
    vpois := moveBlock keep 4096 a b s.vpois
    mbit := moveBlock keep 18432 a b s.mbit
    mpois := moveBlock keep 18432 a b s.mpois
    mts := moveBlock keep 128 a b s.mts }

/-- The MS's own state and its billets, from one core to another. -/
def State.moveMs (s : State) (keep : Bool) (g g' : Nat) : State :=
  { s with
    mss := moveBlock keep 1 g g' s.mss
    billets := moveBlock keep 8 g g' s.billets
    brow := moveBlock keep 131072 g g' s.brow
    bpois := moveBlock keep 131072 g g' s.bpois
    bscale := moveBlock keep 8192 g g' s.bscale }

/-! Before a unit leaves (R183): its stores are performed, and accepted stream elements placed. -/

/-- Every store of a context, its micro-threads and its MS is performed, in queue order. -/
def State.flush (s : State) (h : Nat) : State :=
  let s := s.joinThreads h fun _ _ => true
  let q := (s.ctx h).queue
  let s := q.foldl (fun s p => s.perform h (.hart h) p) (s.modCtx h fun c => { c with queue := [] })
  let g := coreOf h
  if (s.ms g).owner = some h then
    let q := (s.ms g).queue
    q.foldl (fun s p => s.perform h (.msOf g) p) (s.modMs g fun m => { m with queue := [] })
  else s

def drainFully (h n : Nat) : Nat → State → State
  | 0, s => s
  | k + 1, s => drainFully h n k (s.drainStream h n)

def State.settleUnit (s : State) (h : Nat) : State :=
  let s := (List.range 16).foldl (fun s n => drainFully h n ((s.ctx h).stream n).accepted.length s) s
  s.flush h

/-! Leaving. -/

/-- A word from fields, each a value at a bit. -/
def packWord (l : List (Nat × Nat)) : Word := BitVec.ofNat 64 (l.map fun (sh, v) => v * 2 ^ sh).sum
def natBit (b : Bool) : Nat := if b then 1 else 0

/-- The header of a save area (R377), zeros following. -/
def areaHeader (n dies : Nat) (ms : Bool) (live : BitVec 32) (form size : Nat) : List Word :=
  [packWord [(0, 0x58564153), (32, size)],
   packWord [(0, natBit ms), (1, form), (8, dies - 1), (16, n), (32, live.toNat)]]

/-- The live mask of a saved unit, and whether it left in the light form, which alone commits its state (R349). -/
def Saved.live (r : Saved) : BitVec 32 := (r.header.getD 1 0xFFFFFFFFFFFFFFFF).extractLsb' 32 32
def Saved.light (r : Saved) : Bool := (r.header.getD 1 0).getLsbD 1

/-- Registers that the live mask leaves out are zero in the restored state (R184). -/
def State.dropDead (s : State) (k : Nat) (live : BitVec 32) : State :=
  let ok (p : Nat) : Bool := p / 4096 ≠ k || live.getLsbD (p / 128 % 32)
  { s with vreg := s.vreg.filter fun p => ok p.1, vpois := s.vpois.filter fun p => ok p.1 }

/-- The context as it is saved: prefetched data and links do not survive (R183, R379). -/
def savedCtx (c : Ctx) : Ctx :=
  let strips := c.loop.strips
  { c with
    preempt := false, ckpt := false, pointDue := false, atWait := false, links := [], resv := none, ibuf := [], queue := []
    stallOn := none, loading := [], fetching := none, ahead := [], sampled := [], exchg := none
    streams := c.streams.map fun t => { t with fetched := [], banks := [] }
    vrst := (List.range 16).foldl (fun v j =>
      match strips.find? (·.slot = j) with
      | some t => v.setIfInBounds j (BitVec.ofNat 64 t.base)
      | none => if c.loop.mode = .ind then v.setIfInBounds j (BitVec.ofNat 64 c.loop.base) else v) c.vrst }

/-- Cluster counts by die, ascending. -/
def dieCounts (order : List Nat) : List Nat :=
  ((order.map (· / 128)).eraseDups).map fun d => (order.filter (· / 128 = d)).length

/-- One context leaves: the record's id, and the state without it. A unit whose last stores end its launch does not. -/
def State.leave (s : State) (h : Nat) (live : Option (BitVec 32)) (mate : Option Nat) (isMate : Bool) : Nat × State :=
  let s := s.settleUnit h
  match (s.ctx h).unit with
  | none => (0, s)
  | some u =>
    let id := s.hearth.nextId
    let v := virtHart id
    let ord := s.order h
    let g := coreOf h
    let ms : Bool := (s.ms g).owner = some h
    let rec' : Saved :=
      { id := id, job := u.job, queue := u.queue, index := u.index, num := u.num, left := h
        counts := dieCounts ord, ms := ms, journal := false, mate := mate, isMate := isMate
        order := ord, banks := ord.map fun q => (List.range 16).map (s.bankModeOf q)
        splice := (s.splices.find? (·.1 = h)).map (·.2)
        header := areaHeader ord.length (diesOf ord) ms (live.getD 0xFFFFFFFF) (natBit live.isSome) (s.saveSize h) }
    let s := ((List.range ord.length).zip ord).foldl (fun s (j, q) => s.moveSlice false h q v (virtCluster id + j)) s
    let s := if ms then
        let s := s.moveMs false g (virtCore id)
        let m := s.ms (virtCore id)
        let s := s.setMs (virtCore id) { m with owner := some v, ibuf := [], atWait := false }
        s.setMs g { plateOwner := m.plateOwner, plateJob := m.plateJob }
      else s
    let c := s.ctx h
    let s := s.setCtx v (savedCtx c)
    let s := s.setCtx h (blankCtx c)
    let s := s.retargetDrains h v
    (id, { s with hearth := { s.hearth with saved := s.hearth.saved ++ [rec'], nextId := id + 1 } })

/-- A cluster without the context that owns it. -/
def Clus.disown (k : Clus) (h : Nat) : Clus :=
  if k.owner = some h ∧ k.left.isNone then { k with owner := none, pend := false } else k

/-- The clusters of a context that has left return to the Hearth. -/
def State.freeClusters (s : State) (h : Nat) : State :=
  let core := s.core (coreOf h)
  let s := ((s.clus.filter (·.2.attached = some h)).map (·.1)).foldl State.detach s
  let s : State := { s with clus := s.clus.map fun p => (p.1, p.2.disown h) }
  s.setCore (coreOf h) { core with heirs := core.heirs.setIfInBounds (ctxNo h) none }

/-- The unit of a context leaves its core: both contexts of a spliced one (R338). A span unit leaves without the dies that
it has lost (R28, R355). -/
def State.leaveUnit (s : State) (h : Nat) (live : Option (BitVec 32)) : Nat × State :=
  let p := s.holder h
  let s := if s.betweenStrips p ∧ (s.ctx p).unit.any (1 < ·.dies.length) then s.boundary p else s
  match s.splices.find? (·.1 = p) with
  | some (_, sp) =>
    let (idc, s) := s.leave sp.c live none true
    let (id, s) := s.leave p live (some idc) false
    (id, (s.dropSplice p).freeClusters p)
  | none =>
    let (id, s) := s.leave h live none false
    (id, s.freeClusters h)

def State.savedById (s : State) (id : Nat) : Option Saved := s.hearth.saved.find? (·.id = id)

/-- Whether a saved unit owns the MS, through either of its contexts (R351). -/
def State.savedMs (s : State) (r : Saved) : Bool := r.ms || ((r.mate.bind s.savedById).any (·.ms))

/-- A copy of a saved unit under a new id, in the journal: its committed point state (R349, R392). An
older one of the unit goes. -/
def State.commitOne (s : State) (r : Saved) : State :=
  let old := s.hearth.saved.filter fun o => o.journal && o.job = r.job && o.queue = r.queue && o.index = r.index && o.num = r.num
  let s := old.foldl (fun s o => s.dropVirtual o.id) s
  let id := s.hearth.nextId
  let s := (List.range r.banks.length).foldl (fun s j =>
    s.moveSlice true (virtHart r.id) (virtCluster r.id + j) (virtHart id) (virtCluster id + j)) s
  let s := if r.ms then
      let s := s.moveMs true (virtCore r.id) (virtCore id)
      s.modMs (virtCore id) fun m => { m with owner := some (virtHart id) }
    else s
  let s := s.setCtx (virtHart id) { s.ctx (virtHart r.id) with unit := none }
  { s with hearth := { s.hearth with
      nextId := id + 1
      saved := s.hearth.saved ++ [{ r with id := id, journal := true, mate := none, ref := (s.ctx (virtHart r.id)).unit }] } }

def State.commitUnit (s : State) (id : Nat) : State :=
  match s.savedById id with
  | none => s
  | some r =>
    let s := match r.mate.bind s.savedById with
      | some m => s.commitOne m
      | none => s
    s.commitOne r

/-- A wait or forced pre-emption: the full state. -/
def State.fullLeave (s : State) (h : Nat) : State := (s.leaveUnit h none).2

/-- A pre-emption request for a context's unit (R349); it stays pending until it is taken. -/
def State.request (s : State) (h : Nat) : State :=
  s.modCtx h fun c => if c.preempt then { c with ckpt := false } else { c with preempt := true, preemptAt := s.tick }

/-! What a core can offer (R341). -/

/-- A context of a core is taken by a unit, by a span unit of another die (R355), or by stores and commands
of a killed one that still go on. -/
def State.ctxBusy (s : State) (h : Nat) : Bool :=
  let c := s.ctx h
  c.unit.isSome || s.storesWait h || !c.cmds.isEmpty ||
  s.ctxs.any fun p => match p.2.unit with
    | some u => p.1 < 512 && u.dies.contains (dieOfCore (coreOf h)) && coreOf p.1 % 32 = coreOf h % 32 && ctxNo p.1 = ctxNo h
    | none => false

def State.freeCtxs (s : State) (g : Nat) : List Nat := ((List.range 4).map (4 * g + ·)).filter fun h => !s.ctxBusy h
def State.freeClus (s : State) (g : Nat) : List Nat :=
  ((List.range 4).map (4 * g + ·)).filter fun q =>
    let k := s.cluster q
    k.owner.isNone && k.attached.isNone && !s.clusterFenced q
def State.msFree (s : State) (g : Nat) : Bool := (s.ms g).owner.isNone && (s.ms g).queue.isEmpty

/-- A cluster is attached to a context of a job; banks return to cache ways before another job (R23). -/
def State.giveCluster (s : State) (job h q : Nat) : State :=
  let k := s.cluster q
  let s := if k.job = some job ∨ k.job = none then s
    else (List.range 16).foldl (fun s b => s.setBank q b 0) { s with bankReq := s.bankReq.filter (·.1 / 16 ≠ q) }
  s.setCluster q { owner := some h, pend := false, attached := some h, job := some job }

/-- The MS passes to a unit: a start, and another unit's use, invalidate the Plate's tags, another job's zeroes its rows (R272).
The Plates that the unit left on other cores are its own no longer. -/
def State.giveMs (s : State) (start : Bool) (g h : Nat) (u : UnitRef) : State :=
  let me := (u.job, u.queue, u.index, u.num)
  let m := s.ms g
  let lo := g * 16384 * 256
  let s := if m.plateOwner = some me ∧ !start then s else { s with segs := sparseClear s.segs (64 * g) (64 * g + 64) }
  let s := if m.plateJob = some u.job ∨ m.plateJob = none then s
    else { s with plate := sparseClear s.plate lo (lo + 4194304), platePois := sparseClear s.platePois lo (lo + 4194304) }
  let s : State := { s with mss := s.mss.map fun p => if p.2.plateOwner = some me then (p.1, { p.2 with plateOwner := none }) else p }
  s.modMs g fun m => { m with owner := some h, plateOwner := some me, plateJob := some u.job }

/-! Coming back (R351, R379). -/

/-- Picks, die by die, cores that have the clusters and a free context for each saved one. -/
def State.pickCores (s : State) (need : Nat) : List Nat → List Nat → Option (List Nat)
  | [], _ => some []
  | _, [] => none
  | n :: t, g :: r =>
    if !s.coreFenced g ∧ n ≤ (s.freeClus g).length ∧ need ≤ (s.freeCtxs g).length then (s.pickCores need t r).map (g :: ·)
    else s.pickCores need (n :: t) r

/-- Whether core g can take a saved unit, a span unit with cores of that number on later dies: the contexts and the
clusters it gets (R351, R355). The banks of a spliced one come with their modes (R380). -/
def State.canResume (s : State) (r : Saved) (g : Nat) : Option (List Nat × List Nat) :=
  let need := if r.mate.isSome then 2 else 1
  let gs := if r.counts.length ≤ 1 then [g] else ((List.range 4).map fun d => 32 * d + g % 32).filter (g ≤ ·)
  let counts := if r.counts.isEmpty then [0] else r.counts
  match s.pickCores need counts gs with
  | none => none
  | some cores =>
    let ctxs := ((List.range 4).filter fun c => cores.all fun k => !s.ctxBusy (4 * k + c)).take need
    if cores.headD 0 ≠ g ∨ ctxs.length < need ∨ (s.savedMs r ∧ !s.msFree g) then none
    else some (ctxs.map (4 * g + ·), (cores.zip counts).flatMap fun (k, n) => (s.freeClus k).take n)

/-- Restores one context on a hart. -/
def State.arrive (s : State) (r : Saved) (h : Nat) (order : List Nat) (splice : Option Nat) : State :=
  let v := virtHart r.id
  let g := coreOf h
  let s := ((List.range order.length).zip order).foldl (fun s (j, q) => s.moveSlice false v (virtCluster r.id + j) h q) s
  let s := order.foldl (fun s q => s.dropDead (4 * q + ctxNo h) r.live) s
  let old := s.ctx h
  let c := s.ctx v
  let u := c.unit.map fun u => { u with splice := splice, dies := (order.map (· / 128)).eraseDups }
  let s := s.setCtx h { c with
    unit := u, sip := old.sip
    vrst := Vector.replicate 16 0xFFFFFFFFFFFFFFFF
    loop := { c.loop with halt := c.loop.strips.any (·.stop.isSome) }
    wins := c.wins.map fun w => { w with since := s.memLog.length, fresh := w.bound } }
  let s := if r.ms then
      let p := s.ms g
      let s := s.moveMs false (virtCore r.id) g
      let s := s.modMs g fun m => { m with owner := none, plateOwner := p.plateOwner, plateJob := p.plateJob }
      match u with
      | some u => s.giveMs false g h u
      | none => s
    else s
  let s := s.retargetDrains v h
  { s with
    ctxs := s.ctxs.filter (·.1 ≠ v)
    hearth := { s.hearth with saved := s.hearth.saved.filter (·.id ≠ r.id) } }

/-- A FIFO on other clusters: the same bank of each slot. -/
def Fifo.moved (f : Fifo) (order : List Nat) : Fifo :=
  { f with banks := (f.banks.zip order).map fun (b, q) => (16 * q + b.1 % 16, b.2) }

/-- Resumes a saved unit on the contexts and clusters found for it; it acquires at `.mod` (R379). -/
def State.comeBack (s : State) (r : Saved) (harts order : List Nat) : State :=
  let h := harts.headD 0
  let s := order.foldl (fun s q => s.giveCluster r.job h q) s
  let s := ((List.range order.length).zip order).foldl (fun s (j, q) =>
    (List.range 16).foldl (fun s b => s.setBank q b ((r.banks.getD j []).getD b 0)) s) s
  let s := match r.mate.bind s.savedById with
    | some m =>
      let hc := harts.getD 1 0
      let s := s.arrive m hc order (some h)
      let s := s.arrive r h order (some h)
      match r.splice with
      | some sp => { s with splices := sparsePut s.splices h { sp with c := hc, fifos := sp.fifos.map (Fifo.moved · order) } }
      | none => s
    | none => s.arrive r h order none
  s.dropWays (coreOf h)

/-! A unit leaves, and comes back at once where it left for a checkpoint only (R392). -/

/-- Brings a unit back to the contexts it has just left. -/
def State.backAtOnce (s : State) (id h : Nat) : State :=
  match s.savedById id with
  | none => s
  | some r => match s.canResume r (coreOf h) with
    | some (harts, order) => s.comeBack r harts order
    | none => s

/-- A context's unit takes its pending request, in the light form or in full. -/
def State.takeRequest (s : State) (h : Nat) (light : Bool) : State :=
  let p := s.holder h
  let quick := (s.ctx h).ckpt
  let (id, s) := s.leaveUnit h (if light then some (s.ctx h).live else none)
  let s := if (s.savedById id).any (·.light) then s.commitUnit id else s
  if quick then s.backAtOnce id p else s

end Sys2Proof.Machine
end

