-- ==== Sys2Proof/Machine/Slh.lean ====
section
/-! DEFINITION. The functions that R434 names: SHAKE256, and SLH-DSA with parameter set SLH-DSA-SHAKE-256s; the keys of R438 and
the flash of R435. PRESUMED (log 62): the spec cites FIPS 205 (and with it FIPS 202) and does not repeat them. -/

namespace Sys2Proof.Machine
open Sys2Proof

/-! SHAKE256. -/

/-- The rotations of the lanes, by x + 5·y. -/
def keccakRot : List Nat :=
  [0, 1, 62, 28, 27, 36, 44, 6, 55, 20, 3, 10, 43, 25, 39, 41, 45, 15, 21, 8, 18, 2, 61, 56, 14]

def keccakRc : List Word :=
  [0x0000000000000001, 0x0000000000008082, 0x800000000000808A, 0x8000000080008000, 0x000000000000808B, 0x0000000080000001,
   0x8000000080008081, 0x8000000000008009, 0x000000000000008A, 0x0000000000000088, 0x0000000080008009, 0x000000008000000A] ++
  [0x000000008000808B, 0x800000000000008B, 0x8000000000008089, 0x8000000000008003, 0x8000000000008002, 0x8000000000000080,
   0x000000000000800A, 0x800000008000000A, 0x8000000080008081, 0x8000000000008080, 0x0000000080000001, 0x8000000080008008]

def lane (a : List Word) (k : Nat) : Word := a.getD k 0

/-- One round of Keccak-f[1600] over 25 lanes, lane (x, y) at x + 5·y. -/
def keccakRound (a : List Word) (rc : Word) : List Word :=
  let c := (List.range 5).map fun x => lane a x ^^^ lane a (x + 5) ^^^ lane a (x + 10) ^^^ lane a (x + 15) ^^^ lane a (x + 20)
  let d := (List.range 5).map fun x => lane c ((x + 4) % 5) ^^^ (lane c ((x + 1) % 5)).rotateLeft 1
  let b := (List.range 25).map fun k =>
    let from' := (k % 5 + 3 * (k / 5)) % 5 + 5 * (k % 5)
    (lane a from' ^^^ lane d (from' % 5)).rotateLeft (keccakRot.getD from' 0)
  (List.range 25).map fun k =>
    let y := k / 5 * 5
    let v := lane b k ^^^ (~~~(lane b (y + (k + 1) % 5)) &&& lane b (y + (k + 2) % 5))
    if k = 0 then v ^^^ rc else v

def keccak (a : List Word) : List Word := keccakRc.foldl keccakRound a

def laneBytes (a : List Word) : List Byte := a.flatMap fun w => natLe 8 w.toNat

/-- A block of 136 bytes is absorbed. -/
def absorb (a : List Word) (block : List Byte) : List Word :=
  keccak ((List.range 25).map fun k => lane a k ^^^ BitVec.ofNat 64 (leNat ((block.drop (8 * k)).take 8)))

/-- Absorbs n whole blocks. -/
def absorbAll : Nat → List Word → List Byte → List Word
  | 0, a, _ => a
  | n + 1, a, bs => absorbAll n (absorb a (bs.take 136)) (bs.drop 136)

/-- n blocks of output. -/
def squeeze : Nat → List Word → List Byte
  | 0, _ => []
  | n + 1, a => (laneBytes a).take 136 ++ squeeze n (keccak a)

/-- SHAKE256 of a message, with n bytes of output. -/
def shake256 (n : Nat) (m : List Byte) : List Byte :=
  let pad := 136 - m.length % 136
  let tail : List Byte := if pad = 1 then [0x9F] else 0x1F :: (List.replicate (pad - 2) 0 ++ [0x80])
  (squeeze (n / 136 + 1) (absorbAll (m.length / 136 + 1) (List.replicate 25 0) (m ++ tail))).take n

/-! SLH-DSA-SHAKE-256s: n 32, h 64, d 8, h' 8, a 14, k 22, w 16. -/

/-- A number as n bytes, the most significant first. -/
def natBe (n v : Nat) : List Byte := (natLe n v).reverse
def beNat (bs : List Byte) : Nat := leNat bs.reverse

/-- An address: layer, tree, type, key pair, chain or height, hash or index. -/
structure SlhAdr where
  layer : Nat
  tree : Nat
  type : Nat
  pair : Nat := 0
  height : Nat := 0
  index : Nat := 0
  deriving DecidableEq, Repr

def SlhAdr.bytes (a : SlhAdr) : List Byte :=
  natBe 4 a.layer ++ natBe 12 a.tree ++ natBe 4 a.type ++ natBe 4 a.pair ++ natBe 4 a.height ++ natBe 4 a.index

/-- F, H, T and PRF: one hash under PK.seed and an address. -/
def slhHash (ps : List Byte) (a : SlhAdr) (m : List Byte) : List Byte := shake256 32 (ps ++ a.bytes ++ m)

/-- `s` steps of a chain from step i. -/
def slhChain (ps : List Byte) (a : SlhAdr) : Nat → Nat → List Byte → List Byte
  | 0, _, x => x
  | s + 1, i, x => slhChain ps a s (i + 1) (slhHash ps { a with index := i } x)

/-- The 67 base-16 digits of a 32-byte message with its checksum. -/
def slhDigits (m : List Byte) : List Nat :=
  let ds := m.flatMap fun b => [b.toNat / 16, b.toNat % 16]
  let sum := (ds.map (15 - ·)).sum
  ds ++ [sum / 256 % 16, sum / 16 % 16, sum % 16]

/-- One-time signatures: the secret of a chain, the public key, a signature, and the public key from one. -/
def wotsSecret (ss ps : List Byte) (a : SlhAdr) (c : Nat) : List Byte := slhHash ps { a with type := 5, height := c, index := 0 } ss
def wotsTop (ps : List Byte) (a : SlhAdr) (ends : List (List Byte)) : List Byte :=
  slhHash ps { a with type := 1, height := 0, index := 0 } ends.flatten
def wotsPublic (ss ps : List Byte) (a : SlhAdr) : List Byte :=
  wotsTop ps a ((List.range 67).map fun c => slhChain ps { a with height := c } 15 0 (wotsSecret ss ps a c))
def wotsSign (ss ps : List Byte) (a : SlhAdr) (m : List Byte) : List (List Byte) :=
  ((List.range 67).zip (slhDigits m)).map fun (c, x) => slhChain ps { a with height := c } x 0 (wotsSecret ss ps a c)
def wotsFrom (ps : List Byte) (a : SlhAdr) (sig : List (List Byte)) (m : List Byte) : List Byte :=
  wotsTop ps a (((List.range 67).zip (slhDigits m)).map fun (c, x) => slhChain ps { a with height := c } (15 - x) x (sig.getD c []))

/-- A node of a tree of hashes: its leaves by index, its inner nodes at heights 1 up. -/
def slhNode (leaf : Nat → List Byte) (ps : List Byte) (a : SlhAdr) : Nat → Nat → List Byte
  | 0, i => leaf i
  | z + 1, i => slhHash ps { a with height := z + 1, index := i } (slhNode leaf ps a z (2 * i) ++ slhNode leaf ps a z (2 * i + 1))

/-- The root that a leaf at index i and its path give, from height z up. -/
def slhClimb (ps : List Byte) (a : SlhAdr) : Nat → Nat → List Byte → List (List Byte) → List Byte
  | _, _, x, [] => x
  | z, i, x, p :: ps' =>
    slhClimb ps a (z + 1) (i / 2) (slhHash ps { a with height := z + 1, index := i / 2 } (if i % 2 = 0 then x ++ p else p ++ x)) ps'

/-- The siblings on the way up from leaf i of a tree of n levels. -/
def slhPath (node : Nat → Nat → List Byte) (i n : Nat) : List (List Byte) :=
  (List.range n).map fun j => node j (i / 2 ^ j ^^^ 1)

/-- A tree of the hypertree. -/
def xmssNode (ss ps : List Byte) (layer tree z i : Nat) : List Byte :=
  slhNode (fun i => wotsPublic ss ps { layer := layer, tree := tree, type := 0, pair := i }) ps { layer := layer, tree := tree, type := 2 } z i
def xmssSign (ss ps : List Byte) (layer tree i : Nat) (m : List Byte) : List (List Byte) :=
  wotsSign ss ps { layer := layer, tree := tree, type := 0, pair := i } m ++ slhPath (xmssNode ss ps layer tree) i 8
def xmssFrom (ps : List Byte) (layer tree i : Nat) (sig : List (List Byte)) (m : List Byte) : List Byte :=
  slhClimb ps { layer := layer, tree := tree, type := 2 } 0 i
    (wotsFrom ps { layer := layer, tree := tree, type := 0, pair := i } (sig.take 67) m) ((sig.drop 67).take 8)

/-- The few-time signature of a digest: 22 trees of 14 levels. -/
def forsAdr (tree pair : Nat) : SlhAdr := { layer := 0, tree := tree, type := 3, pair := pair }
def forsSecret (ss ps : List Byte) (a : SlhAdr) (i : Nat) : List Byte := slhHash ps { a with type := 6, height := 0, index := i } ss
def forsNode (ss ps : List Byte) (a : SlhAdr) (z i : Nat) : List Byte :=
  slhNode (fun i => slhHash ps { a with height := 0, index := i } (forsSecret ss ps a i)) ps a z i
def forsSign (ss ps : List Byte) (a : SlhAdr) (ix : List Nat) : List (List Byte) :=
  ((List.range 22).zip ix).flatMap fun (t, x) =>
    forsSecret ss ps a (16384 * t + x) :: slhPath (forsNode ss ps a) (16384 * t + x) 14
def forsFrom (ps : List Byte) (a : SlhAdr) (sig : List (List Byte)) (ix : List Nat) : List Byte :=
  slhHash ps { a with type := 4 } (((List.range 22).zip ix).flatMap fun (t, x) =>
    let e := (sig.drop (15 * t)).take 15
    slhClimb ps a 0 (16384 * t + x) (slhHash ps { a with height := 0, index := 16384 * t + x } (e.getD 0 [])) (e.drop 1))

/-- What a message's digest selects: the leaves of the few-time trees, the tree and the leaf of the lowest layer. -/
def slhSelect (r pk m : List Byte) : List Nat × Nat × Nat :=
  let g := shake256 47 (r ++ pk ++ m)
  let v := beNat (g.take 39)
  ((List.range 22).map fun i => v / 2 ^ (298 - 14 * i) % 16384, beNat ((g.drop 39).take 7), beNat (g.drop 46))

/-- A message as the pure form of FIPS 205 signs it, with an empty context. -/
def slhPure (m : List Byte) : List Byte := 0 :: 0 :: m

/-- The key pair from SK.seed, SK.prf and PK.seed: the secret key of 128 bytes and the public key of 64. -/
def slhKeygen (ss sp ps : List Byte) : List Byte × List Byte :=
  let root := xmssNode ss ps 7 0 8 0
  (ss ++ sp ++ ps ++ root, ps ++ root)

/-- The trees of the hypertree from a layer up, with the node that each signs. -/
def hyperSign (ss ps : List Byte) : Nat → Nat → Nat → Nat → List Byte → List (List Byte)
  | 0, _, _, _, _ => []
  | n + 1, layer, tree, i, m =>
    let sig := xmssSign ss ps layer tree i m
    sig ++ hyperSign ss ps n (layer + 1) (tree / 256) (tree % 256) (xmssFrom ps layer tree i sig m)
def hyperFrom (ps : List Byte) : Nat → Nat → Nat → Nat → List (List Byte) → List Byte → List Byte
  | 0, _, _, _, _, m => m
  | n + 1, layer, tree, i, sig, m =>
    hyperFrom ps n (layer + 1) (tree / 256) (tree % 256) (sig.drop 75) (xmssFrom ps layer tree i (sig.take 75) m)

/-- A signature, of 29,792 bytes, of a message under a secret key with randomness `rnd`. -/
def slhSign (sk rnd m : List Byte) : List Byte :=
  let ss := sk.take 32
  let ps := (sk.drop 64).take 32
  let m := slhPure m
  let r := shake256 32 ((sk.drop 32).take 32 ++ rnd ++ m)
  let (ix, tree, i) := slhSelect r (sk.drop 64) m
  let a := forsAdr tree i
  let fors := forsSign ss ps a ix
  (r :: (fors ++ hyperSign ss ps 8 0 tree i (forsFrom ps a fors ix))).flatten

/-- n pieces of 32 bytes. -/
def pieces : Nat → List Byte → List (List Byte)
  | 0, _ => []
  | n + 1, bs => bs.take 32 :: pieces n (bs.drop 32)

/-- Whether a signature of a message verifies under a public key. -/
def slhVerify (pk m sig : List Byte) : Bool :=
  let ps := pk.take 32
  let m := slhPure m
  let g := pieces 931 sig
  let (ix, tree, i) := slhSelect (g.getD 0 []) pk m
  sig.length == 29792 && hyperFrom ps 8 0 tree i (g.drop 331) (forsFrom ps (forsAdr tree i) ((g.drop 1).take 330) ix) == pk.drop 32

/-! What the part holds, and the keys of R438. -/

/-- A field of a byte string, little-endian. -/
def field (bs : List Byte) (o n : Nat) : Nat := leNat ((bs.drop o).take n)
def part (bs : List Byte) (o n : Nat) : List Byte := (bs.drop o).take n

def ascii (l : List Nat) : List Byte := l.map (BitVec.ofNat 8)

/-- SHAKE256 with 64 bytes of output (R434). -/
def digest (bs : List Byte) : List Byte := shake256 64 bs

/-- The first n bytes of a string that the part holds, of which no more is known. -/
def fit (n : Nat) (bs : List Byte) : List Byte := (bs ++ List.replicate n 0).take n

/-- Dvorlia's root public key, of 64 bytes, and the PUF key, of 32 (R434, R438). -/
def rootKey : List Byte := fit 64 Config.rootKey
def pufKey : List Byte := fit 32 Config.pufKey

/-- SHAKE256(PUF key ∥ "BX40-" ∥ two letters), n bytes. -/
def derive (n : Nat) (a b : Nat) : List Byte := shake256 n (pufKey ++ ascii [0x42, 0x58, 0x34, 0x30, 0x2D, a, b])

def identitySeed : List Byte := derive 96 0x49 0x44
def identityKeys : List Byte × List Byte :=
  slhKeygen (part identitySeed 0 32) (part identitySeed 32 32) (part identitySeed 64 32)
def devId : List Byte := part (digest identityKeys.2) 0 32

/-- The flash key "BX40-FL", and the journal key "BX40-JN". -/
def flashKey : List Byte := derive 32 0x46 0x4C
def journalKey : List Byte := derive 32 0x4A 0x4E

/-- The tag of the counters of the replay-protected area (R435): DESIGN CHOICE (log 114), formed as R438 forms a journal tag. -/
def replayTag (counters : List Byte) : List Byte := shake256 32 (flashKey ++ counters)

/-- The tag of a journal entry (R438), whose bytes are the queue's key, the index and the packet: DESIGN CHOICE (log 61). -/
def journalTag (key index : Nat) (ws : List Word) : List Byte :=
  shake256 32 (journalKey ++ natLe 8 key ++ natLe 8 index ++ ws.flatMap fun w => natLe 8 w.toNat)

/-! Flash, of 64 MiB (R435). -/

def flashSize : Nat := 0x4000000

/-- The counters CFGSVN, QCOUNT1 and QCOUNT2 as the replay-protected area holds them, with their tag (log 114). -/
def Plat.replay (p : Plat) : List Byte :=
  let l := natLe 4 p.cfgsvn ++ natLe 4 p.qcount1 ++ natLe 4 p.qcount2
  l ++ replayTag l

/-- A byte of the flash: the replay-protected area holds the counters, and erased helper data reads all ones (log 114). -/
def State.flashByte (s : State) (o : Nat) : Byte :=
  if 0x30000 ≤ o ∧ o < 0x3002C then s.plat.replay.getD (o - 0x30000) 0
  else if s.plat.helperGone ∧ 0x10000 ≤ o ∧ o < 0x20000 then 0xFF
  else match s.plat.flash.find? (·.1 = o) with
    | some e => e.2
    | none => if o < flashSize then Config.flash0 o else 0
def State.flashBytes (s : State) (o n : Nat) : List Byte := (List.range n).map fun i => s.flashByte (o + i)
def State.putFlash (s : State) (o : Nat) (bs : List Byte) : State :=
  { s with plat := { s.plat with flash := ((List.range bs.length).zip bs).foldl (fun m (i, b) =>
    if o + i < flashSize then sparsePut m (o + i) b else m) s.plat.flash } }

/-- Whether the replay-protected area authenticates with the flash key. -/
def State.replayGood (s : State) : Bool :=
  Config.replayGood s.tick && s.flashBytes 0x3000C 32 == replayTag (s.flashBytes 0x30000 12)

def slotBase (slot : Nat) : Nat := 0x1000000 * (slot + 1)

/-- A target slot that an INSTALL leaves invalid has no MAGIC. -/
def State.spoil (s : State) (slot : Nat) : State := s.putFlash (slotBase slot) [0, 0, 0, 0]

end Sys2Proof.Machine
end

