-- ==== Sys2Proof/Machine/Queue.lean ====
section
/-! DEFINITION. Queues: the record (R381), announcements and acceptance (R385), and the verification of a queue program (R398,
R399). -/

namespace Sys2Proof.Machine
open Sys2Proof

/-! Word 0x48 of a record. -/

def w48Cap (w : Word) : Nat := 2 ^ (w.extractLsb' 8 5).toNat
def w48Ccap (w : Word) : Nat := 2 ^ (w.extractLsb' 16 5).toNat
def w48Ckpt (w : Word) : Nat := (w.extractLsb' 32 32).toNat
def w48Ok (w : Word) : Bool :=
  w.getLsbD 0 && w &&& 0x00000000FFE0E0FA = 0 &&
  decide (3 ≤ (w.extractLsb' 8 5).toNat ∧ (w.extractLsb' 8 5).toNat ≤ 16) &&
  decide (3 ≤ (w.extractLsb' 16 5).toNat ∧ (w.extractLsb' 16 5).toNat ≤ 16)

def QSlot.cap (q : QSlot) : Nat := w48Cap q.w48

/-- Whether a queue is mapped for its job: word 0x48 of its record, if so (R316, R381). -/
def State.queueOn (s : State) (key : Nat) : Option Word × State :=
  let j := key / 65536
  let job := s.job j
  if job.state ≠ 1 ∨ job.disabled ∨ job.nq < key % 65536 then (none, s)
  else
    match s.hubWord j (s.qRecord key + 0x48) with
    | (none, s) => (none, s)
    | (some w, s) =>
      match s.hubWords j (s.qRecord key + 0xD0) 6 with
      | (some l, s) => (if w48Ok w && l.all (· == 0) then some w else none, s)
      | (none, s) => (none, s)

/-- A field of a record as the Hearth writes it. -/
def State.recPut (s : State) (key off v : Nat) : State :=
  s.hubPut (key / 65536) (s.qRecord key + BitVec.ofNat 64 off) (BitVec.ofNat 64 v)

/-- Activity of a queue, for the order of R382. -/
def State.touch (s : State) (key : Nat) : State :=
  let s : State := { s with hearth := { s.hearth with seq := s.hearth.seq + 1 } }
  s.modSlot key fun q => { q with lastAct := s.hearth.seq }

/-! Acceptance (R385, R391). -/

/-- The words of the ring slot of an index. -/
def State.ringWords (s : State) (key index : Nat) : Option (List Word) × State :=
  match s.slot? key with
  | some q => s.hubWords (key / 65536) (q.ring + BitVec.ofNat 64 (128 * (index % q.cap))) 16
  | none => (none, s)

/-- The packet of an index in its ring slot, if it is published (R384). -/
def State.published (s : State) (key index : Nat) : Option (List Word) × State :=
  let (ws, s) := s.ringWords key index
  (ws.filter fun l => (l.getD 0 0).toNat == index + 1, s)

/-- What an accepted packet leaves in the two copies of the journal: each entry carries its tag (R391, R438). -/
def journalCopies (key index : Nat) (ws : List Word) : JEntry × JEntry :=
  let e : JEntry := { words := ws, tag := journalTag key index ws }
  (e, e)

def acceptGo (key : Nat) : Nat → State → State
  | 0, s => s
  | n + 1, s =>
    match s.slot? key with
    | none => s
    | some q =>
      if q.tail ≤ q.acc then s
      else
        match s.published key q.acc with
        | (none, s) => s
        | (some ws, s) =>
          let s := s.modSlot key fun q => { q with
            acc := q.acc + 1, journal := sparsePut q.journal q.acc ws, copies := sparsePut q.copies q.acc (journalCopies key q.acc ws) }
          acceptGo key n ((s.recPut key 0x18 (q.acc + 1)).recPut key 0x10 q.tail)

/-- Accepts packets in index order up to the first unpublished one. A slot matches one index, so a pass
accepts at most a ring. -/
def State.acceptAll (s : State) (key : Nat) : State := acceptGo key (((s.slot? key).map (·.cap)).getD 0) s

/-- An announcement of a tail value, by `qtail`, `qput` or a doorbell (R385, R429). -/
def State.announce (s : State) (key t : Nat) : State :=
  match s.queueOn key with
  | (none, s) => s.modSlot key fun q => { q with enable := false }
  | (some w, s) =>
    match s.slot? key with
    | some q =>
      let s := s.modSlot key fun q => { q with enable := true, weldoff := w.getLsbD 2 }
      if t ≤ q.tail then s
      else
        let s := (s.touch key).modSlot key fun q => { q with tail := t }
        (s.recPut key 0x10 t).acceptAll key
    | none =>
      match s.hubWords (key / 65536) (s.qRecord key + 0x10) 2 with
      | (some l, s) =>
        let tail := (l.getD 0 0).toNat
        let acc := (l.getD 1 0).toNat
        if t ≤ tail then s
        else
          let s := s.recPut key 0x10 t
          if t ≤ acc ∨ s.hearth.waiting.contains key then s
          else { s with hearth := { s.hearth with waiting := s.hearth.waiting ++ [key] } }
      | (none, s) => s

/-- The periodic re-examination of an unpublished index (R385). -/
def execAcceptReexamine (job q : Nat) (s : State) : Out := .next (s.acceptAll (qKey job q))

/-! Verification (R399). -/

/-- The tables of a record that are declared (R398). -/
def tableOn (tables : List (Word × Word)) (t : Nat) : Bool := (tables.getD t (0, 0)).2 ≠ 0

/-- Whether a word is a `rep`. -/
def isRep (w : BitVec 32) : Bool := w.extractLsb' 24 8 = 0x1D#8

/-- Rules 2 to 8 for the instruction at index k of a program. -/
def crillOk (tables : List (Word × Word)) (prog : List (BitVec 32)) (k : Nat) : Bool :=
  let len := prog.length
  let w := prog.getD k 0
  let op := w.extractLsb' 24 8
  let imm := w.extractLsb' 0 16
  let n := (imm.extractLsb' 0 8).toNat
  crillFits op (w.extractLsb' 20 4) (w.extractLsb' 16 4) imm &&
  match op with
  | 0x18#8 | 0x19#8 | 0x1A#8 | 0x1B#8 | 0x1C#8 => k + 1 + imm.toNat ≤ len
  | 0x1D#8 => n ≠ 0 && k + n < len && (List.range n).all fun d => !isRep (prog.getD (k + 1 + d) 0)
  | 0x10#8 => packetOff imm
  | 0x11#8 => packetOff imm && imm ≠ 0#16
  | 0x12#8 | 0x13#8 => scratchOff imm
  | 0x14#8 => tableOn tables imm.toNat
  | 0x0E#8 | 0x0F#8 => (imm.extractLsb' 8 6).toNat + (imm.extractLsb' 0 6).toNat + 1 ≤ 64
  | 0x21#8 => imm ≠ 0#16
  | 0x25#8 => imm.extractLsb' 0 2 ≠ 2#2 || (imm.extractLsb' 8 4 ≠ 0#4 && (imm.extractLsb' 8 4).toNat ≤ 7)
  | _ => true

/-- The first instruction that fails verification. -/
def crillBad (tables : List (Word × Word)) (prog : List (BitVec 32)) : Option Nat :=
  (List.range prog.length).find? fun k => !crillOk tables prog k

/-- The instruction words that follow the header of an image: two in each 8 bytes. -/
def splitWords (n : Nat) (l : List Word) : List (BitVec 32) :=
  (l.flatMap fun w => [w.extractLsb' 0 32, w.extractLsb' 32 32]).take n

/-- A rejection counts in the job's QERR (R458). -/
def State.noteQerr (s : State) (key instr : Nat) : State :=
  let j := key / 65536
  let n := Nat.min 0xFFFFFFFF ((sparseGet (0 : Word) s.plat.qerr j).toNat % 2 ^ 32 + 1)
  { s with plat := { s.plat with
      qerr := sparsePut s.plat.qerr j (BitVec.ofNat 64 ((key % 65536) * 2 ^ 48 + instr * 2 ^ 32 + n)) } }

/-- Reads and verifies a queue's program: none where it is rejected. An address of 0 names no program. -/
def State.loadProgram (s : State) (key : Nat) (addr : Word) (tables : List (Word × Word)) :
    Option (List (BitVec 32)) × State :=
  let j := key / 65536
  if addr = 0 then (some [], s)
  else
    match s.hubWord j addr with
    | (none, s) => (none, s.noteQerr key 0)
    | (some hd, s) =>
      let len := hd.toNat % 2 ^ 32
      if addr.toNat % 8 ≠ 0 ∨ hd.toNat ≠ len ∨ len = 0 ∨ 1024 < len then (none, s.noteQerr key 0)
      else
        match s.hubWords j (addr + 8) ((len + 1) / 2) with
        | (none, s) => (none, s.noteQerr key 0)
        | (some l, s) =>
          let prog := splitWords len l
          match crillBad tables prog with
          | some k => (none, s.noteQerr key k)
          | none => (some prog, s)

end Sys2Proof.Machine
end

