-- ==== Sys2Proof/Machine/Weld.lean ====
section
/-! DEFINITION. What the Hearth reads of a launch packet (R320 to R323, R386, R387), and the Weld's decision
(R324 to R330). -/

namespace Sys2Proof.Machine
open Sys2Proof

/-! The packet (R386, R387). -/

/-- The dependences of a packet. A malformed one is none (log 97): R387 ends its packet when it is taken. -/
def pktDeps (w : List Word) : List (Nat × Nat) :=
  [0x40, 0x50].filterMap fun o =>
    if (pktWord w o).getLsbD 63 && pktWord w o &&& 0x7FFFFFFFFFFFFC00 = 0 && !(pktWord w (o + 8)).getLsbD 63 then some ((pktWord w o).toNat % 1024, (pktWord w (o + 8)).toNat) else none
def pktCode (w : List Word) : Word := pktWord w 0x18
def pktArgs (w : List Word) : Word := pktWord w 0x30

/-- A dependence word with a reserved bit, or with a counter of 1,024 or more (R387). -/
def depsBad (w : List Word) : Bool :=
  pktWord w 0x40 &&& 0x7FFFFFFFFFFFFC00 ≠ 0 || pktWord w 0x50 &&& 0x7FFFFFFFFFFFFC00 ≠ 0 ||
  (pktWord w 0x48).getLsbD 63 || (pktWord w 0x58).getLsbD 63

/-- A reserved field set, or a reserved TYPE. -/
def pktReserved (w : List Word) : Bool :=
  pktWord w 0x08 &&& 0x000303FF00000000 ≠ 0 || pktWord w 0x10 &&& 0x00000000FFFFFFFF ≠ 0 ||
  pktWord w 0x28 &&& 0x000000FFFFFF0000 ≠ 0 || pktWord w 0x38 &&& 0x00000FFFFFFFFFFF ≠ 0 ||
  depsBad w || !(pktType w == 1 || pktType w == 2 || 0x80 ≤ pktType w)

/-! The code object (R121, R320, R321). -/

def State.hub32 (s : State) (j : Nat) (va : Word) : Option Nat × State :=
  let (w, s) := s.hubWord j (va &&& 0xFFFFFFFFFFFFFFF8)
  (w.map fun w => (if va.getLsbD 2 then w.extractLsb' 32 32 else w.extractLsb' 0 32).toNat, s)

/-- Runs k on some value, or answers none. -/
def onSome {α β : Type} (r : Option α × State) (k : α → State → Option β × State) : Option β × State :=
  match r with
  | (some a, s) => k a s
  | (none, s) => (none, s)

/-- Bytes of little-endian words: n of them, at most 8, within one word. -/
def wordsAt (l : List Word) (off n : Nat) : Nat := (l.getD (off / 8) 0).toNat / 2 ^ (8 * (off % 8)) % 2 ^ (8 * n)

/-- A map table entry (R322) with its extents evaluated. -/
structure MapEntry where
  fmt : BitVec 6
  sc : Nat
  strm : Bool
  reads : Bool
  writes : Bool
  win : Nat
  itext : List Nat
  text : List Nat
  off : List Int
  m : List (List Int)
  valid : Bool

def signed (w v : Nat) : Int := if v < 2 ^ (w - 1) then v else (v : Int) - 2 ^ w

/-- The extent words of an entry. -/
def mapExts (l : List Word) : List Nat :=
  (List.range 4).map (fun j => wordsAt l (0x08 + 4 * j) 4) ++ (List.range 4).map fun k => wordsAt l (0x18 + 4 * k) 4

/-- The value of an extent; 0 where it has none. -/
def extValue (args : List Nat) (v : Nat) : Nat :=
  if v < 2 ^ 31 then v else if v % 2 ^ 31 < 32 then args.getD (v % 32) 0 else 0

/-- R322, R323. -/
def mapEntry (args : List Nat) (l : List Word) : MapEntry :=
  let c := l.getD 0 0
  let ir := (c.extractLsb' 22 2).toNat + 1
  let tr := (c.extractLsb' 20 2).toNat + 1
  let dir := (c.extractLsb' 16 2).toNat
  let ex := mapExts l
  let it := (ex.take ir).map (extValue args)
  let te := ((ex.drop 4).take tr).map (extValue args)
  let off := (List.range 4).map fun k => signed 32 (wordsAt l (0x28 + 4 * k) 4)
  let m := (List.range 4).map fun k => (List.range 4).map fun j => signed 16 (wordsAt l (0x38 + 2 * (4 * k + j)) 2)
  let unused := (List.range 4).all fun k =>
    (k < ir || ex.getD k 0 = 0) && (k < tr || (ex.getD (4 + k) 0 = 0 && off.getD k 0 = 0)) &&
    (List.range 4).all fun j => (k < tr && j < ir) || (m.getD k []).getD j 0 = 0
  let inside := (List.range tr).all fun k =>
    let ends := (List.range ir).map fun j => (m.getD k []).getD j 0 * ((it.getD j 0 : Int) - 1)
    let lo := ends.foldl (fun a e => a + min 0 e) (off.getD k 0)
    let hi := ends.foldl (fun a e => a + max 0 e) (off.getD k 0)
    0 ≤ lo && hi < (te.getD k 0 : Int)
  { fmt := c.extractLsb' 34 6, sc := (c.extractLsb' 30 4).toNat, strm := c.getLsbD 29
    reads := dir % 2 = 1, writes := 2 ≤ dir, win := c.toNat % 16
    itext := it, text := te, off := off.take tr, m := (m.take tr).map (·.take ir)
    valid := c &&& 0xFFFFFF001F0CFFF0 = 0 && l.getD 11 0 = 0 && dir ≠ 0 && assignedFmt (c.extractLsb' 34 6) &&
      unused && (it ++ te).all (1 ≤ ·) && inside }

/-- A launch packet as the Hearth has read it. -/
structure Loaded where
  words : List Word
  kern : Kernel
  maps : List MapEntry

def State.hubMaps (s : State) (j : Nat) (at' : Word) : Nat → Option (List (List Word)) × State
  | 0 => (some [], s)
  | n + 1 => onSome (s.hubWords j at' 12) fun l s => onSome (s.hubMaps j (at' + 96) n) fun t s => (some (l :: t), s)

/-- The argument words; 0 where one cannot be read. -/
def State.hubArgs (s : State) (j : Nat) (args : Word) : List Nat × State :=
  (List.range 32).foldl (fun (l, s) k =>
    let (v, s) := s.hub32 j (args + BitVec.ofNat 64 (4 * k))
    (l ++ [v.getD 0], s)) (([] : List Nat), s)

/-- Descriptors of a list of windows at consecutive addresses of 64 B. -/
def State.hubDescs (s : State) (j : Nat) (l : List (Nat × Word)) : Option (List (Nat × List Word)) × State :=
  match l with
  | [] => (some [], s)
  | (n, a) :: t => onSome (s.hubWords j a 8) fun d s => onSome (s.hubDescs j t) fun r s => (some ((n, d) :: r), s)

/-- A template's relocation (R241). -/
def relocate (code : Word) (d : List Word) : List Word :=
  let w := d.getD 1 0
  (List.range 8).map fun k =>
    let x := d.getD k 0
    if k = 1 then x &&& 0xFF3FFFFFFFFFFFFF
    else if (k = 0 ∧ w.getLsbD 55) ∨ (k = 3 ∧ w.getLsbD 54) then x + code else x

/-- The level entries of a GRID descriptor (R236). -/
def State.hubLevels (s : State) (j : Nat) (d : List Word) : Option (List (Word × Word)) × State :=
  let w : Win := { desc := d }
  if w.cls ≠ 2 then (some [], s)
  else onSome (s.hubWords j (d.getD 3 0) (2 * gridLevels d)) fun l s =>
    (some ((List.range (gridLevels d)).map fun k => (l.getD (2 * k) 0, l.getD (2 * k + 1) 0)), s)

/-- The level arrays of a list of descriptors, none unless `wbind` would accept every one (R236, R387). -/
def State.checkedLevels (s : State) (j : Nat) : List (Nat × List Word) → Option (List (Nat × List (Word × Word))) × State
  | [] => (some [], s)
  | (n, d) :: t =>
    onSome (s.hubLevels j d) fun l s =>
      if windowOk {} n d l then onSome (s.checkedLevels j t) fun r s => (some ((n, l) :: r), s) else (none, s)

/-- The die that most hinted windows name, the lower one of equals (R342). -/
def hintOf (wins : List (Nat × List Word)) : Option Nat :=
  let named := wins.filterMap fun (_, d) =>
    let w := d.getD 1 0
    if w.getLsbD 63 then some (w.extractLsb' 56 2).toNat else none
  let votes (k : Nat) : Nat := named.count k
  if named.isEmpty then none
  else (List.range 4).find? fun k => (List.range 4).all fun o => votes o ≤ votes k

/-- The windows of a launch: its bind list, or the kernel's templates (R241, R386). DESIGN CHOICE (log 44): a template carries no
window number, and the spec gives them no order; the k-th template is that of the k-th lowest set bit of BINDMASK. -/
def winAddrs (w : List Word) (binds first cnt mask : Nat) (tab : Word) : List (Nat × Word) :=
  if binds ≠ 0 then
    ((List.range 16).filter (pktWord w 0x28).getLsbD).map fun n => (n, pktWord w 0x20 + BitVec.ofNat 64 (64 * n))
  else
    let ns := ((List.range 16).filter fun n => mask / 2 ^ n % 2 = 1).take cnt
    ((List.range ns.length).zip ns).map fun (k, n) => (n, tab + BitVec.ofNat 64 (64 * (first + k)))

/-- Reads a launch packet's code object, windows and maps; none where R387 fails the packet. -/
def State.loadLaunch (s : State) (j : Nat) (w : List Word) : Option Loaded × State :=
  let code := pktCode w
  if pktGang w = 0 ∨ 4 < pktGang w ∨ 5 ≤ pktDies w ∨ code.toNat % 64 ≠ 0 ∨ (pktWord w 0x20).toNat % 64 ≠ 0 then (none, s)
  else
    onSome (s.hubWords j code 11) fun hd s =>
      let kidx := ((pktWord w 0x10).extractLsb' 32 16).toNat
      let align := wordsAt hd 0x50 4
      if wordsAt hd 0 4 ≠ 0x30345842 ∨ wordsAt hd 4 2 ≠ 1 ∨ wordsAt hd 6 2 ≤ kidx ∨ code.toNat % align ≠ 0 then (none, s)
      else
        onSome (s.hubWords j (code + BitVec.ofNat 64 (0x80 + 64 * kidx)) 8) fun r s =>
          let part (o : Nat) : Word := code + BitVec.ofNat 64 (wordsAt hd o 4)
          let ctl := wordsAt r 0x0C 4
          let ppd := ((pktWord w 0x10).extractLsb' 48 16).toNat
          let binds := (pktWord w 0x20).toNat
          onSome (s.hubMaps j (part 0x28 + BitVec.ofNat 64 (96 * wordsAt r 0x14 2)) (wordsAt r 0x16 2)) fun raw s =>
            let uses := raw.any fun l => (mapExts l).any (2 ^ 31 ≤ ·)
            if uses ∧ pktArgs w = 0 then (none, s)
            else
              let (args, s) := if uses then s.hubArgs j (pktArgs w) else ([], s)
              onSome (s.hubDescs j (winAddrs w binds (wordsAt r 0x18 2) (wordsAt r 0x1A 2) (wordsAt r 0x1C 2) (part 0x30))) fun ds s =>
                let wins := if binds = 0 then ds.map fun (n, d) => (n, relocate code d) else ds
                onSome (s.checkedLevels j wins) fun levels s =>
                  let k : Kernel :=
                    { ct := code + BitVec.ofNat 64 (wordsAt r 0 4)
                      ms := if wordsAt r 4 4 = 0xFFFFFFFF then none else some (code + BitVec.ofNat 64 (wordsAt r 4 4))
                      loop := ctl / 2 ^ 20 % 4, ubar := ctl / 2 ^ 19 % 2 = 1
                      ppd := if ppd = 0 then wordsAt r 0x10 2 else ppd
                      blkBase := part 0x20, blkSize := wordsAt hd 0x24 4
                      wins := wins, levels := levels, hint := hintOf wins }
                  (some { words := w, kern := k, maps := raw.map (mapEntry args) }, s)

/-! The decision (R324, R327 to R330). -/

def insertAbs (x : Nat × Nat) : List (Nat × Nat) → List (Nat × Nat)
  | [] => [x]
  | y :: t => if x.1 < y.1 || (x.1 == y.1 && x.2 ≤ y.2) then x :: y :: t else y :: insertAbs x t

/-- R324; columns of equal magnitude are taken by ascending extent. -/
def MapEntry.injective (e : MapEntry) : Bool :=
  ((List.range e.itext.length).all fun j =>
    e.itext.getD j 0 ≤ 1 || (e.m.filter fun row => row.getD j 0 ≠ 0).length == 1) &&
  e.m.all fun row =>
    let cols := ((List.range row.length).filter fun j => row.getD j 0 ≠ 0).map fun j => ((row.getD j 0).natAbs, e.itext.getD j 0)
    let l := cols.foldr insertAbs []
    (l.zip (l.drop 1)).all fun (a, b) => a.1 * a.2 ≤ b.1

/-- R327. -/
def Loaded.spliceable (p : Loaded) : Bool :=
  (p.kern.loop = 1 || p.kern.loop = 2) && p.maps.all (·.valid) && (p.maps.map (·.itext)).eraseDups.length ≤ 1

/-- The range that a window of a launch binds. -/
def Loaded.range (p : Loaded) (win : Nat) : Option (Nat × Nat) :=
  (p.kern.wins.find? (·.1 = win)).map fun (_, d) => let w : Win := { desc := d }; (w.base.toNat, w.size)

def overlaps (a b : Option (Nat × Nat)) : Bool :=
  match a, b with
  | some (x, n), some (y, m) => x < y + m && y < x + n
  | _, _ => false

def depMet (w : Word) (target : Nat) : Bool := !counterFailed w && target ≤ counterValue w

/-- A dependence on P's completion (R328). -/
def State.onCompletion (s : State) (j : Nat) (p : Loaded) (d : Nat × Nat) : Bool :=
  pktSig p.words ≠ 0 && d.1 = pktSig p.words && d.2 ≤ counterValue (s.counter j d.1) + 1

/-- R328's conditions on the pair, both of them launch packets. -/
def State.pairOk (s : State) (j : Nat) (p c : Loaded) : Bool :=
  pktType p.words = 1 && pktType c.words = 1 && p.spliceable && c.spliceable && p.kern.loop = c.kern.loop && pktUnits p.words = pktUnits c.words &&
  pktGang p.words = 1 && pktGang c.words = 1 && pktCcap p.words = pktCcap c.words &&
  pktDies p.words = 0 && pktDies c.words = 0 && !(p.kern.ms.isSome && c.kern.ms.isSome) &&
  (pktDeps c.words).all fun d =>
    !counterFailed (s.counter j d.1) && (depMet (s.counter j d.1) d.2 || s.onCompletion j p d)

/-- A read entry of C paired with the one entry of P that writes the same range. -/
def passedOf (p c : Loaded) : Option (List (MapEntry × MapEntry)) :=
  let writes := p.maps.filter (·.writes)
  (c.maps.filter (·.reads)).foldr (fun e l =>
    match l with
    | none => none
    | some l =>
      let r := c.range e.win
      if !writes.any fun x => overlaps r (p.range x.win) then some l
      else match writes.filter fun x => p.range x.win = r with
        | [x] => some ((x, e) :: l)
        | _ => none) (some [])

/-- Conditions 1, 2 and 4 of R329 on a pair of entries; 3 follows from R328 and condition 1. -/
def entryOk (x e : MapEntry) : Bool :=
  x.fmt = e.fmt && x.m = e.m && x.off = e.off && x.text = e.text && x.itext = e.itext &&
  !scaledFmt x.fmt && !planeFmt x.fmt && 8 ≤ fmtWidth x.fmt && x.injective && x.strm && e.strm

/-- Condition 7 of R329 at the decision, before the unit has a place: DEDUCED (log 24), some cluster that may be placed can
spare a bank for each passed tensor once the streams that use its FIFO banks are gone (R332). -/
def State.fifoRoom (s : State) (n : Nat) : Bool :=
  (List.range 512).any fun q =>
    let count (m : Nat) : Nat := ((List.range 16).filter fun b => s.bankModeOf q b = m).length
    !s.clusterFenced q && !s.coreFenced (q / 4) && n ≤ count 2 + (count 0 - 4)

/-- Whether P and C splice, given the other launches of the window (R329, R330): the passed tensors and N_i. P is one of
the launches other than C. -/
def State.weldDecide (s : State) (j : Nat) (p c : Loaded) (others : List Loaded) : Option (List Passed × Nat) :=
  if !s.pairOk j p c then none
  else match passedOf p c with
    | none => none
    | some l =>
      let readers (x : MapEntry) : Bool := (p :: others).any fun o =>
        o.maps.any fun e => e.reads && overlaps (o.range e.win) (p.range x.win)
      let dependants := others.any fun o => (pktDeps o.words).any (s.onCompletion j p)
      let once (k : List Nat) : Bool := k.eraseDups.length == k.length
      if l.isEmpty || dependants || !s.fifoRoom l.length || !(l.all fun (x, e) => entryOk x e && (pktElide p.words || !readers x)) ||
          !once (l.map (·.1.sc)) || !once (l.map (·.2.sc)) then none
      else
        some (l.map fun (x, e) => { pSc := x.sc, cSc := e.sc, fmt := x.fmt, teed := !pktElide p.words || readers x, win := x.win },
          ((l.headD (mapEntry [] [], mapEntry [] [])).1.itext).foldl (· * ·) 1)

/-- The launch packets published after an index, with nothing else between, in the ring (R328). -/
def State.windowFrom (s : State) (key : Nat) : Nat → Nat → List (List Word) × State
  | 0, _ => ([], s)
  | n + 1, i =>
    match s.published key i with
    | (some w, s) =>
      if pktType w ≠ 1 then ([], s)
      else
        let (l, s) := s.windowFrom key n (i + 1)
        (w :: l, s)
    | (none, s) => ([], s)

/-- Loads the window's other launches; one whose packet would fail counts by its dependences alone. -/
def State.loadOthers (s : State) (j : Nat) : List (List Word) → List Loaded × State
  | [] => ([], s)
  | w :: t =>
    let (p, s) := s.loadLaunch j w
    let (l, s) := s.loadOthers j t
    (p.getD { words := w, kern := {}, maps := [] } :: l, s)

/-- The Weld's test of a packet P and the copy of C directly after it, with what the Hearth keeps of C. -/
def State.weldTest (s : State) (key index : Nat) (p c : List Word) : Option (List Passed × Nat × Kernel) × State :=
  let j := key / 65536
  let (win, s) := s.windowFrom key 6 (index + 2)
  let (others, s) := s.loadOthers j win
  match s.loadLaunch j p with
  | (some lp, s) =>
    match s.loadLaunch j c with
    | (some lc, s) => ((s.weldDecide j lp lc others).map fun r => (r.1, r.2, lc.kern), s)
    | (none, s) => (none, s)
  | (none, s) => (none, s)

end Sys2Proof.Machine
end

