-- ==== Sys2Proof/Machine/Crill.lean ====
section
/-! DEFINITION. Crill runs (R394 to R402): one instruction a step, and how a run ends. -/

namespace Sys2Proof.Machine
open Sys2Proof

/-! The effects on the launch itself. -/

/-- The poison policy and plane count that a run leaves (R401); FAIL where it sets none. -/
def policyOf (l : List Effect) : Nat × Nat :=
  l.foldl (fun p e => match e with
    | .psn policy planes => (policy, planes)
    | _ => p) (0, 0)
/-- Whether the run keeps its packet out of the Weld. -/
def weldOffOf (l : List Effect) : Bool := l.any fun e => match e with
  | .weld off => off
  | _ => false
/-- A launch-level cancel of the run's own index (R402). -/
def ownCancel (index : Nat) (l : List Effect) : Bool := l.any fun e => match e with
  | .cancel level i => level = 0 && i = index
  | _ => false

/-! Runs. -/

def State.run? (s : State) (key : Nat) : Option Run := (s.hearth.runs.find? (·.1 = key)).map (·.2)
def State.setRun (s : State) (key : Nat) (r : Run) : State :=
  { s with hearth := { s.hearth with runs := sparsePut s.hearth.runs key r } }
def State.dropRun (s : State) (key : Nat) : State :=
  { s with hearth := { s.hearth with runs := s.hearth.runs.filter (·.1 ≠ key) } }

def Run.q' (r : Run) (n : BitVec 4) : Word := if n = 0#4 then 0 else r.q.getD n.toNat 0
def Run.setQ (r : Run) (n : BitVec 4) (v : Word) : Run := if n = 0#4 then r else { r with q := r.q.set n.toNat v }

/-- How a run ends (R396). -/
inductive RunEnd where
  | carry
  | cancelled
  | unmet (c : Nat) (w : Word)
  | discard (status : Nat)
  deriving DecidableEq, Repr

/-- A packet as its run leaves it. -/
def Run.ready (r : Run) (scratch : List Word) (effects : List Effect) (ending : Option Nat) : Option Ready :=
  some { index := r.index, words := r.words, scratch := scratch, effects := effects, ending := ending }

/-- The run of a packet that reached the read position ends. -/
def State.endOwn (s : State) (key : Nat) (r : Run) (e : RunEnd) : State :=
  s.modSlot key fun q => match e with
    | .carry => { q with ready := r.ready r.scratch r.effects none }
    | .cancelled => { q with ready := r.ready r.scratch r.effects (some 2) }
    | .unmet c w => { q with waits := some (c, w), rerun := false }
    | .discard st => { q with ready := r.ready q.scratch [] (some st) }

/-- The run of the consumer of a splice ends (R395): the splice is confirmed or abandoned. -/
def State.endMate (s : State) (key : Nat) (r : Run) (e : RunEnd) : State :=
  match (s.slot? key).bind (·.ready) with
  | none => s
  | some p =>
    let cancelled : Bool := (s.slot? key).any (·.cancels.contains r.index)
    let (res, s) : Option (List Passed × Nat × Kernel) × State :=
      if e = .carry ∧ !cancelled ∧ !ownCancel r.index r.effects ∧ !weldOffOf r.effects ∧ !pktReserved r.words ∧ pktType r.words = 1 then
        s.weldTest key p.index p.words r.words
      else (none, s)
    let m : Option Mate := res.map fun (passed, n, k) =>
      { words := r.words, scratch := r.scratch, effects := r.effects, passed := passed, count := n, kern := k }
    s.modSlot key fun q => { q with ready := some { p with decided := true, mate := m } }

def State.endRun (s : State) (key : Nat) (r : Run) (e : RunEnd) : State :=
  let s := s.dropRun key
  if r.consumer then s.endMate key r e else s.endOwn key r e

/-- Where a run stands after an instruction, by falling through or by a jump. -/
def Run.goto (r : Run) (t : Nat) (jump : Bool) : Run :=
  match r.rep with
  | none => { r with pc := t }
  | some (first, len, passes, pass, qd) =>
    if t < first + len then { r with pc := t }
    else if !jump ∧ pass + 1 < passes then
      ({ r with pc := first, rep := some (first, len, passes, pass + 1, qd) }).setQ (BitVec.ofNat 4 qd) (BitVec.ofNat 64 (pass + 1))
    else { r with pc := t, rep := none }

/-- Runs one instruction of the moving interpreter: the budget (R396), then `k`. -/
def crillStep (s : State) (k : Nat → Run → State → State) : Out :=
  match s.who with
  | .crill job q =>
    match s.run? (qKey job q) with
    | none => .fault .noSuchAgent
    | some r =>
      .next (if 512 ≤ r.used then s.endRun (qKey job q) r (.discard 6)
        else k (qKey job q) { r with used := r.used + 1 } s)
  | _ => .fault .noSuchAgent

/-- A program's length. -/
def State.progLen (s : State) (key : Nat) : Nat := ((((s.slot? key).bind (·.prog)).getD []).length)

/-- The run goes on, or ends where it has passed the last instruction. -/
def State.goOn (s : State) (key : Nat) (r : Run) : State :=
  if s.progLen key ≤ r.pc then s.endRun key r .carry else s.setRun key r

def crillNext (s : State) (f : Run → Run) : Out :=
  crillStep s fun key r s => s.goOn key ((f r).goto (r.pc + 1) false)

/-- Arithmetic into qd. -/
def crillAlu (qd : BitVec 4) (f : Run → Word) (s : State) : Out := crillNext s fun r => r.setQ qd (f r)

def execCrillLi (qd : BitVec 4) (imm : BitVec 16) (s : State) : Out := crillAlu qd (fun _ => imm.signExtend 64) s
def execCrillLhi (qd : BitVec 4) (imm : BitVec 16) (s : State) : Out :=
  crillAlu qd (fun r => (r.q' qd <<< 16) ||| imm.setWidth 64) s
def execCrillAddi (qd qa : BitVec 4) (imm : BitVec 16) (s : State) : Out :=
  crillAlu qd (fun r => r.q' qa + imm.signExtend 64) s
def execCrillAdd (qd qa : BitVec 4) (s : State) : Out := crillAlu qd (fun r => r.q' qd + r.q' qa) s
def execCrillSub (qd qa : BitVec 4) (s : State) : Out := crillAlu qd (fun r => r.q' qd - r.q' qa) s
def execCrillAnd (qd qa : BitVec 4) (s : State) : Out := crillAlu qd (fun r => r.q' qd &&& r.q' qa) s
def execCrillOr (qd qa : BitVec 4) (s : State) : Out := crillAlu qd (fun r => r.q' qd ||| r.q' qa) s
def execCrillXor (qd qa : BitVec 4) (s : State) : Out := crillAlu qd (fun r => r.q' qd ^^^ r.q' qa) s
def execCrillAndi (qd qa : BitVec 4) (imm : BitVec 16) (s : State) : Out :=
  crillAlu qd (fun r => r.q' qa &&& imm.setWidth 64) s
def execCrillShl (qd qa : BitVec 4) (n : BitVec 6) (s : State) : Out := crillAlu qd (fun r => r.q' qa <<< n.toNat) s
def execCrillShr (qd qa : BitVec 4) (n : BitVec 6) (s : State) : Out := crillAlu qd (fun r => r.q' qa >>> n.toNat) s
def execCrillMaxu (qd qa : BitVec 4) (s : State) : Out :=
  crillAlu qd (fun r => if r.q' qd < r.q' qa then r.q' qa else r.q' qd) s
def execCrillMinu (qd qa : BitVec 4) (s : State) : Out :=
  crillAlu qd (fun r => if r.q' qa < r.q' qd then r.q' qa else r.q' qd) s

/-- The low w + 1 bits. -/
def lowMask (wd : BitVec 6) : Word := BitVec.ofNat 64 (2 ^ (wd.toNat + 1) - 1)
def execCrillExt (qd qa : BitVec 4) (lsb wd : BitVec 6) (s : State) : Out :=
  crillAlu qd (fun r => (r.q' qa >>> lsb.toNat) &&& lowMask wd) s
def execCrillIns (qd qa : BitVec 4) (lsb wd : BitVec 6) (s : State) : Out :=
  crillAlu qd (fun r => (r.q' qd &&& ~~~(lowMask wd <<< lsb.toNat)) ||| ((r.q' qa &&& lowMask wd) <<< lsb.toNat)) s

def execCrillLdp (qd : BitVec 4) (imm : BitVec 16) (s : State) : Out := crillAlu qd (fun r => pktWord r.words imm.toNat) s
def execCrillStp (qd : BitVec 4) (imm : BitVec 16) (s : State) : Out :=
  crillNext s fun r => { r with words := r.words.set (imm.toNat / 8) (r.q' qd) }
def execCrillLds (qd : BitVec 4) (imm : BitVec 16) (s : State) : Out := crillAlu qd (fun r => r.scratch.getD (imm.toNat / 8) 0) s
def execCrillSts (qd : BitVec 4) (imm : BitVec 16) (s : State) : Out :=
  crillNext s fun r => { r with scratch := r.scratch.set (imm.toNat / 8) (r.q' qd) }

/-- R400: an index of BOUND or more, or an entry that cannot be read, is a run error. -/
def execCrillLdt (qd qa : BitVec 4) (t : BitVec 2) (s : State) : Out :=
  crillStep s fun key r s =>
    let (addr, bound) := (((s.slot? key).map (·.tables)).getD []).getD t.toNat (0, 0)
    let i := r.q' qa
    if bound ≤ i then s.endRun key r (.discard 7)
    else match s.hubWord (key / 65536) (addr + 8 * i) with
      | (some w, s) => s.goOn key ((r.setQ qd w).goto (r.pc + 1) false)
      | (none, s) => s.endRun key r (.discard 7)

def crillBranch (qd qa : BitVec 4) (imm : BitVec 16) (c : Word → Word → Bool) (s : State) : Out :=
  crillStep s fun key r s =>
    if c (r.q' qd) (r.q' qa) then s.goOn key (r.goto (r.pc + 1 + imm.toNat) true)
    else s.goOn key (r.goto (r.pc + 1) false)

def execCrillBeq (qd qa : BitVec 4) (imm : BitVec 16) (s : State) : Out := crillBranch qd qa imm (fun a b => a == b) s
def execCrillBne (qd qa : BitVec 4) (imm : BitVec 16) (s : State) : Out := crillBranch qd qa imm (fun a b => a != b) s
def execCrillBltu (qd qa : BitVec 4) (imm : BitVec 16) (s : State) : Out := crillBranch qd qa imm (fun a b => a.ult b) s
def execCrillBgeu (qd qa : BitVec 4) (imm : BitVec 16) (s : State) : Out := crillBranch qd qa imm (fun a b => b.ule a) s
def execCrillJ (imm : BitVec 16) (s : State) : Out := crillBranch 0 0 imm (fun _ _ => true) s

/-- The loop's first pass begins with qd 0. -/
def execCrillRep (qd : BitVec 4) (n len : BitVec 8) (s : State) : Out :=
  crillStep s fun key r s =>
    s.goOn key (({ r with pc := r.pc + 1, rep := some (r.pc + 1, len.toNat, n.toNat + 1, 0, qd.toNat) }).setQ qd 0)

/-! Counters and effects. -/

/-- A counter number of 1,024 or more, and 0 where it may not be named, is a run error (R400). -/
def crillCounter (qa : BitVec 4) (zero : Bool) (s : State) (k : Nat → Nat → Run → State → State) : Out :=
  crillStep s fun key r s =>
    let c := (r.q' qa).toNat
    if 1024 ≤ c ∨ (c = 0 ∧ !zero) then s.endRun key r (.discard 7) else k c key r s

def execCrillRdc (qd qa : BitVec 4) (s : State) : Out :=
  crillCounter qa true s fun c key r s => s.goOn key ((r.setQ qd (s.counter (key / 65536) c)).goto (r.pc + 1) false)

/-- Places an effect on the list. -/
def Run.addEffect (r : Run) (e : Effect) : Run := { r with effects := r.effects ++ [e] }

def execCrillSigc (qa : BitVec 4) (imm : BitVec 16) (s : State) : Out :=
  crillCounter qa false s fun c key r s => s.goOn key ((r.addEffect (.sigc c imm.toNat)).goto (r.pc + 1) false)
def execCrillSetc (qd qa : BitVec 4) (s : State) : Out :=
  crillCounter qa false s fun c key r s =>
    s.goOn key ((r.addEffect (.setc c (r.q' qd &&& 0x7FFFFFFFFFFFFFFF))).goto (r.pc + 1) false)

def execCrillWaitc (qd qa : BitVec 4) (s : State) : Out :=
  crillCounter qa true s fun c key r s =>
    let w := s.counter (key / 65536) c
    if counterFailed w then s.endRun key r (.discard 4)
    else if (r.q' qd).toNat ≤ counterValue w then s.goOn key (r.goto (r.pc + 1) false)
    else s.endRun key r (.unmet c w)

def execCrillCancel (qa : BitVec 4) (lvl : BitVec 2) (s : State) : Out :=
  crillNext s fun r => r.addEffect (.cancel lvl.toNat (r.q' qa).toNat)
def execCrillPsnFail (s : State) : Out := crillNext s (·.addEffect (.psn 0 0))
def execCrillPsnSkip (s : State) : Out := crillNext s (·.addEffect (.psn 1 0))
def execCrillPsnPlanes (p : BitVec 4) (s : State) : Out := crillNext s (·.addEffect (.psn 2 p.toNat))
def execCrillWeld (w : BitVec 1) (s : State) : Out := crillNext s (·.addEffect (.weld (w = 1#1)))

def execCrillEnd (s : State) : Out := crillStep s fun key r s => s.endRun key r .carry
def execCrillEndCancel (s : State) : Out := crillStep s fun key r s => s.endRun key r .cancelled

def execCrillTime (qd : BitVec 4) (s : State) : Out :=
  crillStep s fun key r s => s.goOn key ((r.setQ qd s.time).goto (r.pc + 1) false)
def execCrillIdx (qd : BitVec 4) (s : State) : Out := crillAlu qd (fun r => BitVec.ofNat 64 r.index) s

/-! The start of a run (R394). -/

/-- A run of a packet, if one of the eight interpreters is free (R340). -/
def State.startRun (s : State) (key : Nat) (r : Run) : State :=
  if 8 ≤ s.hearth.runs.length then s else s.setRun key r

/-- The packet at the read position runs: at once to its end where the queue names no program. -/
def State.runPacket (s : State) (key : Nat) (q : QSlot) (prog : List (BitVec 32)) : State :=
  let r : Run := { index := q.read, words := sparseGet [] q.journal q.read, scratch := q.scratch }
  if prog.isEmpty then s.endRun key r .carry else s.startRun key r

/-- A waiting packet's program runs again when the counter it waits on has changed, be it back to what it was (R396). -/
def execCrillRerun (job q : Nat) (s : State) : Out :=
  let key := qKey job q
  .next (match s.slot? key with
    | some t =>
      match t.waits, t.prog with
      | some _, some prog =>
        if !t.rerun ∨ 8 ≤ s.hearth.runs.length then s
        else
          let s := s.modSlot key fun q => { q with waits := none, rerun := false }
          s.runPacket key t prog
      | _, _ => s
    | none => s)

end Sys2Proof.Machine
end

