-- ==== Sys2Proof/Machine/Sync.lean ====
section
/-! DEFINITION. SYNC (R302 to R308): fences, `pwait`, `ppt`, `ubar`, flags and `kend`. A pre-emption request
is honoured in each wait (R303, R304, R306). -/

namespace Sys2Proof.Machine
open Sys2Proof

def syncBits (op : BitVec 6) (o : T48) : Word := t48Bits (0x18, op) o

/-- Runs k once the earlier accesses have been performed. -/
def whenPerformed (scope : Nat) (s : State) (k : State → State) : State := if s.drainedFor scope then k s else s.wait

def execFenceRel (o : T48) (s : State) : Out := bothStep s fun s => whenPerformed o.aux.toNat s (·.retire 6)
def execFenceAcq (o : T48) (s : State) : Out := bothStep s (fenceAcq 6 o.aux.toNat)
def execFenceSc (o : T48) (s : State) : Out :=
  bothStep s fun s => whenPerformed o.aux.toNat s fun s => (s.acquire o.aux.toNat).retire 6
def execLsync (_o : T48) (s : State) : Out := bothStep s fun s => whenPerformed 4 s (·.retire 6)

/-- R304, R357: a launch started early waits for its predecessor's completion; then as `fence.acq.mod`. -/
def execPwait (o : T48) (s : State) : Out :=
  ctStep s (syncBits 0x04 o) fun s =>
    let h := s.hart
    let pending : Bool := !(s.ctx h).pwaited && match s.launchOf h with
      | some (_, l) => l.early
      | none => false
    if pending then s.wait
    else ((s.modCtx h fun c => { c with pwaited := true }).acquire 3).retire 6

/-- The point of a spliced unit is C's alone, and P must stand past its loop; inside the bodies it is taken
at the end of the strip (R338). -/
def State.pointNow (s : State) (h : Nat) : Bool :=
  match s.spliceMate h with
  | none => (s.ctx h).loop.mode = .off
  | some _ => s.isConsumer h && (s.splice h).cAt = 2 && s.aligned h

/-- R305: with no request it has no effect; outside a loop the point is taken at once; in a body it is taken
at the end of the strip, and a `.ind` loop takes no further strip. -/
def execPpt (o : T48) (s : State) : Out :=
  ctStep s (syncBits 0x05 o) fun s =>
    let h := s.hart
    let mask := (s.rx o.a).setWidth 32
    let c := s.ctx h
    if !c.preempt then s.retire 6
    else if c.loop.mode ≠ .off then
      if s.spliceMate h ≠ none ∧ !s.isConsumer h then s.retire 6
      else
        let stopStrips (c : Ctx) : Ctx := { c with loop := { c.loop with halt := c.loop.halt || c.loop.mode = .ind } }
        let s := (s.retire 6).modCtx h fun c => { stopStrips c with live := mask, pointDue := true }
        match s.spliceMate h with
        | some m => s.modCtx m stopStrips
        | none => s
    else if s.pointNow h then ((s.retire 6).modCtx h fun c => { c with live := mask }).takeRequest h true
    else s.retire 6

/-- Whether a unit of a launch has reached the k-th barrier (R306). -/
def Ctx.reached (c : Ctx) (k : Nat) : Bool := k < c.ubars || (c.ubars = k && c.ubarAt)

/-- Every unit of the caller's launch has arrived at its barrier, or has retired. -/
def State.allArrived (s : State) (h : Nat) : Bool :=
  let k := (s.ctx h).ubars
  match (s.ctx h).unit with
  | none => true
  | some u =>
    let key := qKey u.job u.queue
    let here := (s.unitsOf key u.index).filter fun t => (s.ctx t).reached k
    here.length == (s.unitsOf key u.index).length &&
    match s.launch? key u.index with
    | some l => pktUnits l.words ≤ here.length + l.retired.length
    | none => true

/-- R306: on arrival as the release, on passing as the acquire of `fence.sc.mod`. -/
def execUbar (o : T48) (s : State) : Out :=
  ctStep s (syncBits 0x06 o) fun s => whenPerformed 3 s fun s =>
    let h := s.hart
    let s := s.modCtx h fun c => { c with ubarAt := true }
    if s.allArrived h then
      ((s.modCtx h fun c => { c with ubars := c.ubars + 1, ubarAt := false }).acquire 3).retire 6
    else s.wait

/-- R307: as `fence.rel.co`, then the flag is set; a flag number above 15 does not decode. -/
def execMsig (o : T48) (s : State) : Out :=
  bothStep s fun s => whenPerformed 1 s fun s =>
    let v := s.rx o.a
    (s.modCtx s.hart fun c => { c with flags := c.flags.setIfInBounds o.aux.toNat v }).retire 6

/-- R307. DESIGN CHOICE (log 111): a pre-emption request is honoured in this wait, which the table of R349 does not name, because
R305 speaks of the waits of its chapter; `ewait`, a full `cpy` and `kend` honour none. -/
def execMwaitv (o : T48) (s : State) : Out :=
  bothStep s fun s =>
    if s.rx o.a ≤ (s.ctx s.hart).flags.toArray.getD o.aux.toNat 0 then fenceAcq 6 1 s else s.wait

/-! `kend` (R31, R308). -/

/-- The first faulted micro-thread of a context, by number. -/
def State.faultedThread (s : State) (h : Nat) : Option Nat :=
  (List.range (128 * (s.order h).length)).find? fun i => (s.thread h i).state = .faulted

/-- The handles granted to the unit at its core, by key. -/
def State.grantKeys (s : State) (h : Nat) : List Nat :=
  (((s.ctx h).unit.map (·.grants)).getD []).map (24 * coreOf h + ·)

/-- What the unit waits for before it can end (R31, R380). -/
def State.unitBusy (s : State) (h : Nat) : Bool :=
  let c := s.ctx h
  let m := s.ms (coreOf h)
  (c.ownsMs && m.owner = some h && (m.run ≠ .idle || !m.queue.isEmpty)) ||
  c.streams.toList.any (fun t => t.bound && t.isWrite && s.toMemory h t && t.kept.isNone && !t.accepted.isEmpty) ||
  !c.cmds.isEmpty ||
  (s.grantKeys h).any fun k => (s.handle k).drains.any (·.hart = h)

/-- R308 step 2: the first cause that applies, with what clears it. -/
def State.endTrap (s : State) (h : Nat) : Option (Nat × Word × State) :=
  let c := s.ctx h
  match s.faultedThread h with
  | some i => some (30, BitVec.ofNat 64 i, s)
  | none =>
    match (List.range 16).find? fun n => (c.stream n).bound && (c.stream n).kept.isSome with
    | some n => some (29, ((c.stream n).kept).getD 0, s)
    | none =>
      match (s.grantKeys h).find? fun k => (s.handle k).fault.isSome with
      | some k =>
        let (cause, i) := ((s.handle k).fault).getD (0, 0)
        some (cause, BitVec.ofNat 64 i, s.setHandle k { s.handle k with fault := none })
      | none => c.engFail.map fun (cause, a) => (cause, a, s.modCtx h fun c => { c with engFail := none })

/-- A context retires: its launch learns of it, and what it holds is released. -/
def State.retireOne (s : State) (h : Nat) : State :=
  match (s.ctx h).unit with
  | none => s
  | some u => ((s.noteCount h).noteRetired u).releaseUnit h

/-- R308 step 3; a spliced unit retires when both contexts have executed `kend` (R331). -/
def State.retireUnit (s : State) (h : Nat) : State :=
  match s.spliceMate h with
  | none => s.retireOne h
  | some m =>
    if !(s.ctx m).ended then s.modCtx h fun c => { c with ended := true }
    else
      let p := s.holder h
      let c := if p = h then m else h
      (s.retireOne c).retireOne p

def endUnit (s : State) : State :=
  let h := s.hart
  match s.runningThread h with
  | some m => s.stallThreads h m
  | none =>
    if s.unitBusy h then s.stall
    else match s.endTrap h with
      | some (cause, tv, s) => s.trap cause tv
      | none =>
        let s := joinStopped s h
        if !s.drained then s.stall
        else
          let s := s.modCtx h fun c => { c with streams := Vector.replicate 16 {} }
          (s.retire 6).retireUnit h

def execKend (_o : T48) (s : State) : Out :=
  match s.who with
  | .ct _ => .next (endUnit s)
  | .ms g => .next ((s.retire 6).modMs g fun m => { m with run := .idle })
  | .ind .. => .next (s.trap 28 0)
  | _ => .fault .noSuchAgent

end Sys2Proof.Machine
end

