-- ==== Sys2Proof/Machine/Engine.lean ====
section
/-! DEFINITION. ENGINE (R309 to R318): engine commands, user-level events and interrupts (R180, R181, R314,
R315), the queue instructions, `bkset` and `hcall`. -/

namespace Sys2Proof.Machine
open Sys2Proof

def engBits (op : BitVec 6) (o : T48) : Word := t48Bits (0x19, op) o

/-! Commands (R310). -/

/-- A command enters the engine queue. -/
def Ctx.addCmd (c : Ctx) (fill : Option (BitVec 32)) (src dst : Word) (len : Nat) (event : Option Event) : Ctx :=
  { c with
    cmdSeq := c.cmdSeq + 1
    cmds := c.cmds ++ [{ id := c.cmdSeq, fill := fill, src := src, dst := dst, len := len, event := event, done := false }] }

/-- A command of LEN 0 takes no entry (R311, R312). -/
def Ctx.cmdRoom (c : Ctx) : Bool := (c.cmds.filter (·.len ≠ 0)).length < 64

/-- A command of LEN 0 completes at once (R311, R312), unless its event finds no room: its whole completion is then held back
(R315). -/
def State.emptyCmd (s : State) (h : Nat) (ev : Option Event) : State :=
  match ev with
  | none => s
  | some e => s.modCtx h fun c =>
    if c.events.length < 16 ∧ c.held.isEmpty then { c with events := c.events ++ [e] }
    else
      let id := c.cmdSeq
      let c := c.addCmd none 0 0 0 ev
      { c with
        cmds := c.cmds.map fun k => if k.id = id then { k with done := true } else k
        held := c.held ++ [Held.cmd id] }

/-- R312. -/
def execCpy (o : T48) (s : State) : Out :=
  ctStep s (engBits 0x01 o) fun s =>
    let h := s.hart
    let b := s.rx o.b
    let tag := (b.extractLsb' 32 24).toNat
    let len := b.toNat % 2 ^ 32
    let ev : Option Event := if b.getLsbD 63 then some { event := 1, tag := tag } else none
    if len = 0 then (s.emptyCmd h ev).retire 6
    else if !(s.ctx h).cmdRoom then s.stall
    else (s.modCtx h fun c => c.addCmd none (s.rx o.a) (s.rx o.d) len ev).retire 6

/-- One group of `ebatch`: whether it is accepted (R311). -/
def batchGroup (h : Nat) (w : List (BitVec 32 × Bool)) (s : State) : Bool × State :=
  let f (k : Nat) : BitVec 32 := (w.getD k (0, false)).1
  let op := (f 0).extractLsb' 0 4
  let tag := (f 0).toNat / 256
  let ev : Option Event := if (f 0).getLsbD 7 then some { event := 3, tag := tag } else none
  if w.any (·.2) || (f 0).extractLsb' 4 3 ≠ 0#3 || f 7 ≠ 0#32 || (op ≠ 1#4 && op ≠ 2#4) ||
      (op = 2#4 && (f 5).toNat % 4 ≠ 0) then (false, s)
  else if f 5 = 0#32 then (true, s.emptyCmd h ev)
  else if !(s.ctx h).cmdRoom then (false, s)
  else
    (true, s.modCtx h fun c => c.addCmd (if op = 2#4 then some (f 6) else none)
      (f 2 ++ f 1) (f 4 ++ f 3) (f 5).toNat ev)

/-- The words of the group at an element; those beyond `vl` as the registers hold them. -/
def groupWords (x : VIn) (reg e : Nat) (s : State) : Except Ef (List (BitVec 32 × Bool)) :=
  (List.range 8).foldr (fun k l =>
    match (if e + k < x.v.vl then x.get s reg (e + k) else .ok (s.elem x.v reg (e + k))), l with
    | .ok y, .ok t => .ok (y :: t)
    | .error b, _ => .error b
    | _, .error b => .error b) (.ok [])

/-- R311. A poisoned governing bit counts as a poisoned word (R188). -/
def batchAll (x : VIn) (gm reg : Nat) (s : State) : List (Nat × Except Ef (Bool × Bool)) × State :=
  let (l, s) := (x.acts.filter (· % 8 = 0)).foldl (fun (l, s) e =>
    match groupWords x reg e s with
    | .error b => ((e, .error b) :: l, s)
    | .ok w =>
      let (ok, s) := if s.governPois x.v gm e then (false, s) else batchGroup x.v.hart w s
      ((e, .ok (ok, false)) :: l, s)) (([] : List (Nat × Except Ef (Bool × Bool))), s)
  (l.reverse, s)

def execEbatch (o : T48) (s : State) : Out :=
  let bits := engBits 0x00 o
  let form : VForm :=
    { len := 6, bits := bits, gm := o.gm.toNat
      uses := [{ reg := o.a.toNat, trap := o.fa, needs := fun vl acts =>
        ((acts.filter (· % 8 = 0)).flatMap fun e => (List.range 8).map (e + ·)).filter (· < vl) }]
      dst := none, noStream := [], load := false, align := [o.a.toNat]
      extra := fun s x => everyBit s x ++ (x.acts.filter (· % 8 = 0)).flatMap fun e => (List.range 8).map (e + ·) }
  ctStep s bits fun s =>
    if s.view.sb ≠ 4 then s.illegal bits
    else vprep form s fun x s =>
      let (res, s) := batchAll x form.gm o.a.toNat s
      let rest := if x.reissue then [] else (List.range x.v.vlmax).filter fun e => !res.any (·.1 = e)
      mcommit form x o.d.toNat (res ++ rest.map fun e => (e, .ok (false, false))) s

/-- R313. A finished command whose event is held back has not completed (R315). -/
def execEwait (o : T48) (s : State) : Out :=
  ctStep s (engBits 0x02 o) fun s =>
    let h := s.hart
    let c := s.ctx h
    if !c.cmds.isEmpty then s.stall
    else match c.engFail with
      | some (cause, a) => (s.modCtx h fun c => { c with engFail := none }).trap cause a
      | none => fenceAcq 6 3 s

/-! The engine (R310). -/

/-- The pieces of a command, each within one 64 B sector at either end: offsets and lengths. -/
def cmdChunks (c : Cmd) : Nat → Nat → List (Nat × Nat)
  | 0, _ => []
  | fuel + 1, o =>
    if c.len ≤ o then []
    else
      let a := 64 - (c.dst.toNat + o) % 64
      let b := if c.fill.isSome then 64 else 64 - (c.src.toNat + o) % 64
      let n := Nat.min (c.len - o) (Nat.min a b)
      (o, n) :: cmdChunks c fuel (o + n)

/-- Resolves the pieces up to the first that fails; beyond SIZE even a PARAM window fails. -/
def resolveChunks (base : Word) (acc : Access) : List (Nat × Nat) → State → List (Nat × Nat × Place) × Option Bad × State
  | [], s => ([], none, s)
  | (o, n) :: t, s =>
    let va := base + BitVec.ofNat 64 o
    match s.resolve va n acc with
    | (.error b, s) => ([], some b, s)
    | (.ok .zero, _) => ([], some (25, (s.ctx s.hart).under va), s)
    | (.ok p, s) =>
      let (l, e, s) := resolveChunks base acc t s
      ((o, n, p) :: l, e, s)

/-- The bytes of a piece at their home slices, each with its poison. -/
def State.chunkBytes (s : State) : Nat × Nat × Place → List (Byte × Bool)
  | (_, n, .mem x _) => (List.range n).map fun i => (s.memByte (x.pa + i), x.pois || s.wordPois (x.pa + i))
  | (_, n, _) => List.replicate n (0, false)

/-- The read of a piece counts for a checkpoint region (R417). -/
def State.creditChunk (s : State) : Nat × Nat × Place → State
  | (_, n, .mem x _) => s.credit x.pa n
  | _ => s

/-- The bytes of a fill from an offset on. -/
def fillBytes (f : BitVec 32) (o n : Nat) : List (Byte × Bool) :=
  (List.range n).map fun i => (f.extractLsb' (8 * ((o + i) % 4)) 8, false)

/-- Writes a piece at its home slices, with its poison. -/
def State.putChunk (s : State) (p : Nat × Nat × Place) (bs : List (Byte × Bool)) : State :=
  match p with
  | (_, _, .mem x _) =>
    let s := s.homeWrite .other x.pa (fullBytes (bs.map (·.1)))
    ((List.range bs.length).zip bs).foldl (fun s (i, b) => if b.2 then s.setPois (x.pa + i) 1 true else s) s
  | _ => s

/-- How a page failure of a command ends: it waits for the pager, or the page is unmapped. -/
def pageOf (e : Option Bad) : Option Word :=
  match e with
  | some (13, va) => some va
  | some (15, va) => some va
  | _ => none

/-- Resolves the source and destination pieces of a command: those of the source up to a failure, those of the
destination among them, and the failure that comes first. -/
def resolveCmd (c : Cmd) (s : State) :
    List (Nat × Nat × Place) × List (Nat × Nat × Place) × Option Bad × State :=
  let ch := cmdChunks c c.len 0
  let (srcs, e1, s) : List (Nat × Nat × Place) × Option Bad × State := match c.fill with
    | some _ => (ch.map fun p => (p.1, p.2, Place.zero), none, s)
    | none => resolveChunks c.src .load ch s
  let (dsts, e2, s) := resolveChunks c.dst .store (ch.take srcs.length) s
  (srcs, dsts, e2.or e1, s)

def finishCmd (id : Nat) (e : Option Bad) (x : Ctx) : Ctx :=
  { x with
    cmds := x.cmds.map fun k => if k.id = id then { k with done := true } else k
    engFail := x.engFail.or e }

/-- Whether pieces of the source and of the destination meet. -/
def piecesMeet (srcs dsts : List (Nat × Nat × Place)) : Bool :=
  srcs.any fun a => dsts.any fun b => match a, b with
    | (_, n, .mem x _), (_, m, .mem y _) => x.pa < y.pa + m && y.pa < x.pa + n
    | _, _ => false

/-- Runs the next n pieces of a command of a context, or all that are left. A copy whose ranges overlap goes through a
buffer. -/
def State.runPieces (s : State) (h id : Nat) (n : Option Nat) : State :=
  match (s.ctx h).cmds.find? (·.id = id) with
  | none => s
  | some c =>
    if c.done then s
    else
      let (srcs, dsts, e, t) := resolveCmd c (s.asBellows h)
      match pageOf e with
      | some va => if t.pagerWorks va then s else s.fatal h 24 va
      | none =>
        let stop := match n with
          | some n => Nat.min dsts.length (c.sofar + n)
          | none => dsts.length
        let srcs := srcs.take dsts.length
        let read (p : Nat × Nat × Place) : List (Byte × Bool) := match c.fill with
          | some f => fillBytes f p.1 p.2.1
          | none => t.chunkBytes p
        let keep : Bool := piecesMeet srcs dsts
        let data := if c.buf.isEmpty then srcs.map read else c.buf
        let mine {α : Type} (l : List α) : List α := (l.take stop).drop c.sofar
        let t := if c.fill.isSome then t else (mine srcs).foldl State.creditChunk t
        let t := (mine (dsts.zip data)).foldl (fun (t : State) (p, bs) => t.putChunk p bs) t
        State.modCtx { t with who := s.who } h (if stop = dsts.length then finishCmd id e else fun x => { x with
          cmds := x.cmds.map fun k => if k.id = id then { k with sofar := stop, buf := if keep then data else [] } else k })

/-- Runs a command of a context to its end. -/
def State.runCommand (s : State) (h id : Nat) : State := s.runPieces h id none

def execEngineCommandRun (hart k : Nat) (s : State) : Out := .next (s.runCommand hart k)

/-- A finished command completes, with its event where it has one (R315). -/
def execEngineCommandComplete (hart k : Nat) (s : State) : Out :=
  .next (match (s.ctx hart).cmds.find? (·.id = k) with
    | some c =>
      if c.done then s.completing hart (.cmd k) c.event fun s =>
        s.modCtx hart fun x => { x with cmds := x.cmds.filter (·.id ≠ k) }
      else s
    | none => s)

/-! User-level events (R314, R315). -/

def execUiset (o : T48) (s : State) : Out :=
  ctStep s (engBits 0x03 o) fun s =>
    let tag := (s.rx o.a).toNat % 2 ^ 24
    (s.modCtx s.hart fun c => { c with watches := c.watches ++ [{ ids := c.cmds.map (·.id), tag := tag }] }).retire 6

/-- A watch none of whose commands is left raises its event. -/
def execUisetWatchFire (hart : Nat) (s : State) : Out :=
  .next (
    let c := s.ctx hart
    let gone (w : Watch) : Bool := !w.ids.any fun i => c.cmds.any (·.id = i)
    match c.watches.find? gone with
    | some w => s.completing hart (.watch w.tag) (some { event := 3, tag := w.tag }) fun s =>
        s.modCtx hart fun c => { c with watches := c.watches.erase w }
    | none => s)

def execUimask (o : T48) (s : State) : Out :=
  ctStep s (engBits 0x05 o) fun s =>
    let h := s.hart
    let old := (s.ctx h).uimask.setWidth 64
    let new := (s.rx o.a &&& 0x3E).setWidth 6
    ((s.modCtx h fun c => { c with uimask := new }).wx o.d old).retire 6

/-- R181. -/
def execUiret (o : T48) (s : State) : Out :=
  ctStep s (engBits 0x04 o) fun s =>
    let h := s.hart
    let c := s.ctx h
    if !c.handler then s.illegal (engBits 0x04 o)
    else (s.modCtx h fun c => { c with handler := false, vty := c.hVty, ldst := c.hLdst }).jump c.uiepc

/-- The oldest event that its enable bit lets through. -/
def Ctx.readyEvent (c : Ctx) : Option Event := c.events.find? fun e => c.uimask.getLsbD e.event

/-- Where a user-level interrupt may be taken (R180). -/
def Ctx.atEventPoint (c : Ctx) : Bool :=
  c.mode = .user && c.uivec ≠ 0 && !c.handler && (!c.inBody || (c.loop.mode = .seq && c.loop.gap))

/-- The entry of R180. -/
def enterHandler (c : Ctx) (e : Event) : Ctx :=
  let c := { c with
    events := c.events.erase e
    uiepc := c.pc
    uicause := (c.uicause &&& 0x100000000) ||| BitVec.ofNat 64 (e.tag % 2 ^ 24 * 256 + e.event)
    hVty := c.vty, hLdst := c.ldst
    shadow := Vector.ofFn fun i : Fin 8 => c.x.toArray.getD (10 + i.val) 0
    handler := true, atWait := false
    pc := c.uivec &&& 0xFFFFFFFFFFFFFFFE }
  c.unhold

/-- The completion interrupt of a command, a drain, a group or a watch acts as `fence.acq.mod` (R83). -/
def execUserInterruptEntry (hart : Nat) (s : State) : Out :=
  .next (
    let c := s.ctx hart
    match c.readyEvent with
    | some e =>
      if c.unit.isSome && c.atEventPoint then
        let s := s.setCtx hart (enterHandler c e)
        if 1 ≤ e.event ∧ e.event ≤ 3 then s.dropWays (coreOf hart) else s
      else s
    | none => s)

/-! Queue instructions (R316). -/

/-- The queue that xB names, for a mapped one; else cause 7. -/
def withQueue (b : Word) (s : State) (k : Nat → Word → State → State) : State :=
  let job := ((s.ctx s.hart).unit.map (·.job)).getD 0
  let q := b.toNat % 65536
  match s.queueOn (qKey job q) with
  | (some w, s) => k (qKey job q) w s
  | (none, s) => s.trap 7 (BitVec.ofNat 64 q)

def putPacket (o : T48) (ws : List Word) (key : Nat) (w : Word) (s : State) : State :=
  let j := key / 65536
  let r := s.qRecord key
  match s.hubWords j r 7 with
  | (none, s) => s.trap 5 r
  | (some l, s) =>
    let i := l.getD 0 0
    if w48Cap w ≤ (i - l.getD 1 0).toNat then (s.wx o.d allOnes).retire 6
    else
      let at' := l.getD 6 0 + BitVec.ofNat 64 (128 * (i.toNat % w48Cap w))
      let s := (s.hubPut j r (i + 1)).hubPuts j (at' + 8) (ws.drop 1)
      let s := s.hubPut j at' (i + 1)
      let s := s.announce key (i.toNat + 1)
      (s.wx o.d i).retire 6

def execQput (o : T48) (s : State) : Out :=
  ctStep s (engBits 0x06 o) fun s =>
    let a := s.rx o.a
    if a.toNat % 128 ≠ 0 then s.trap 4 a
    else withQueue (s.rx o.b) s fun key w s =>
      match readWords a 16 s with
      | (.error (cause, tv), s) => s.trap cause tv
      | (.ok ws, s) => afterDrain s (putPacket o ws key w)

def execQtail (o : T48) (s : State) : Out :=
  ctStep s (engBits 0x07 o) fun s => withQueue (s.rx o.b) s fun key _ s =>
    afterDrain s fun s => (s.announce key (s.rx o.a).toNat).retire 6

def execQwait (o : T48) (s : State) : Out :=
  ctStep s (engBits 0x08 o) fun s => withQueue (s.rx o.b) s fun key w s =>
    match s.hubWord (key / 65536) (s.qRecord key + 0x08) with
    | (some r, s) => if (s.rx o.a).toNat < r.toNat + w48Cap w then fenceAcq 6 3 s else s.wait
    | (none, s) => s.trap 5 (s.qRecord key + 0x08)

/-! `bkset` (R317, R22, R23) and `hcall` (R318). -/

/-- Requests a mode for a bank (16·cluster + bank). -/
def State.askBank (s : State) (k mode : Nat) : State :=
  let s : State := { s with bankReq := s.bankReq.filter (·.1 ≠ k) }
  if s.bankHeld k ∧ s.bankModeOf (k / 16) (k % 16) ≠ mode then { s with bankReq := sparsePut s.bankReq k mode }
  else s.setBank (k / 16) (k % 16) mode

def execBkset (o : T48) (s : State) : Out :=
  ctStep s (engBits 0x09 o) fun s =>
    let mode := (s.rx o.b).toNat % 4
    let ord := s.order s.hart
    let banks := (List.range 16).filter (s.rx o.a).getLsbD
    if mode = 3 ∨ ord.isEmpty then (s.wx o.d 0).retire 6
    else
      let s := (ord.flatMap fun q => banks.map (16 * q + ·)).foldl (fun s k => s.askBank k mode) s
      let got := banks.filter fun b => ord.all fun q => s.bankModeOf q b = mode
      (s.wx o.d (BitVec.ofNat 64 ((got.map (2 ^ ·)).sum))).retire 6

/-- A pre-emption request for both contexts of a spliced unit (R338, R349). -/
def State.requestUnit (s : State) (h : Nat) : State :=
  match s.spliceMate h with
  | some m => (s.request h).request m
  | none => s.request h

/-- Function 0: it does not return (R318). -/
def execHcallCancel (o : T48) (s : State) : Out :=
  ctStep s (engBits 0x0A o) fun s =>
    match (s.ctx s.hart).unit with
    | some u => s.cancelOne (qKey u.job u.queue) u.index ((s.rx o.b).toNat % 65536)
    | none => s.stall

def execHcallPreempt (o : T48) (s : State) : Out :=
  ctStep s (engBits 0x0A o) fun s => ((s.requestUnit s.hart).wx o.d 0).retire 6

def execHcallOther (o : T48) (s : State) : Out :=
  ctStep s (engBits 0x0A o) fun s => (s.wx o.d allOnes).retire 6

end Sys2Proof.Machine
end

