-- ==== Sys2Proof/Machine/Place.lean ====
section
/-! DEFINITION. Cancels of graphs and phases (R390), residency of queues (R382), what a core must offer and the start of units (R32, R284,
R331, R332, R341, R355), and the pre-emption requests of R345. -/

namespace Sys2Proof.Machine
open Sys2Proof

/-! Cancels (R390). -/

/-- Whether a packet ends its graph (level 1) or its phase (level 2). -/
def pktEnds (level : Nat) (w : List Word) : Bool :=
  if level = 1 then pktType w ≠ 2 && pktLast w else pktType w = 2

/-- The packet of an index as the Hearth can see it before it is taken: its journal copy, or its ring slot. -/
def State.seenPacket (s : State) (key index : Nat) : Option (List Word) × State :=
  match (s.slot? key).bind fun q => (q.journal.find? (·.1 = index)).map (·.2) with
  | some w => (some w, s)
  | none => s.published key index

/-- Whether packets up to an index are all seen and none of them ends the graph or phase. -/
def State.sameAhead (s : State) (key level : Nat) : Nat → Nat → Bool × State
  | 0, _ => (true, s)
  | n + 1, i =>
    match s.seenPacket key i with
    | (some w, s) => if pktEnds level w then (false, s) else s.sameAhead key level n (i + 1)
    | (none, s) => (false, s)

/-- Where the graph or phase of the next completion began. -/
def QSlot.runFrom (q : QSlot) (level : Nat) : Nat := if level = 1 then q.graphFrom else q.phaseFrom

/-- Whether a cancel at a level covers a packet of its graph or phase: that of a graph no phase barrier (R390). -/
def covers (level : Nat) (x : Launch) : Bool := level ≠ 1 || pktType x.words ≠ 2

/-- The taken launches of the graph or phase that goes on at the read position. -/
def openRun (level : Nat) (l : List Launch) : List Nat :=
  let from' := (l.filter fun x => pktEnds level x.words).foldl (fun m x => Nat.max m (x.index + 1)) 0
  (l.filter fun x => covers level x && from' ≤ x.index).map (·.index)

/-- The splice that is decided at the head is abandoned where a cancel's graph or phase has reached its consumer (R395). -/
def State.reachMate (s : State) (key : Nat) : State :=
  match s.slot? key with
  | none => s
  | some q =>
    match q.ready with
    | none => s
    | some r =>
      let c := r.index + 1
      if r.mate.isSome ∧ q.later.any (fun (level, t) => c ≤ t && (s.sameAhead key level (t - c) c).1) then
        s.modSlot key (·.unmate c)
      else s

/-- Cancels whose graph or phase has reached the read position take hold. -/
def State.reachCuts (s : State) (key : Nat) : State :=
  match s.slot? key with
  | none => s
  | some q =>
    q.later.foldl (fun s (level, t) =>
      let drop (s : State) : State := s.modSlot key fun q => { q with later := q.later.filter (· ≠ (level, t)) }
      if t < q.read then drop s
      else
        let (here, s) := s.sameAhead key level (t - q.read) q.read
        if !here then s
        else
          let s := (drop s).modSlot key fun q => { q with cut := Nat.max q.cut level }
          (openRun level q.taken).foldl (fun s i => s.cancelOne key i 0) s) s

/-- The taken packets of the graph or phase of a taken index: none where it has ended and all of it is delivered. -/
def sameRun (level : Nat) (q : QSlot) (index : Nat) : List Nat :=
  let l := q.taken
  let ends (x : Launch) : Bool := pktEnds level x.words
  let before := (l.filter fun x => ends x && x.index < index).foldl (fun m x => Nat.max m (x.index + 1)) 0
  let last := (l.find? fun x => ends x && index ≤ x.index).map (·.index)
  if index < q.runFrom level then []
  else (l.filter fun x => covers level x && before ≤ x.index && match last with
    | some e => x.index ≤ e
    | none => true).map (·.index)

/-- A cancel at a level: 0 launch, 1 graph, 2 phase, 3 job. -/
def State.cancel (s : State) (key index level : Nat) : State :=
  match level with
  | 3 => s.cancelJob (key / 65536)
  | 0 =>
    if (s.slot? key).isSome then s.cancelOne key index 0
    else { s with hearth := { s.hearth with pending := s.hearth.pending ++ [(key, 0, index)] } }
  | _ =>
    match s.slot? key with
    | none => { s with hearth := { s.hearth with pending := s.hearth.pending ++ [(key, level, index)] } }
    | some q =>
      if q.read ≤ index then
        ((s.modSlot key fun q => { q with later := q.later ++ [(level, index)] }).reachCuts key).reachMate key
      else
        let s := (sameRun level q index).foldl (fun s i => s.cancelOne key i 0) s
        if index < q.runFrom level ∨ q.taken.any (fun x => pktEnds level x.words && index ≤ x.index) then s
        else s.modSlot key fun q => { q with cut := Nat.max q.cut level }

/-! Residency (R382). -/

def QSlot.idle (q : QSlot) : Bool :=
  q.acc == q.tail && q.read == q.acc && q.cdone == q.read && q.taken.isEmpty && q.ready.isNone

/-- An idle queue gives up its slot. -/
def State.unmap (s : State) (key : Nat) (q : QSlot) : State :=
  let s := (((s.recPut key 0x08 q.read).recPut key 0x10 q.tail).recPut key 0x18 q.acc).recPut key 0x20 q.cdone
  let s := s.hubPuts (key / 65536) (s.qRecord key + 0x90) q.scratch
  let keep := (q.cancels.map fun i => (key, 0, i)) ++ (q.later.map fun c => (key, c))
  { s with hearth := { s.hearth with
      slots := s.hearth.slots.filter (·.1 ≠ key), pending := s.hearth.pending ++ keep
      marks := sparsePut s.hearth.marks key
        { anyFail := q.anyFail, graphFail := q.graphFail, cut := q.cut, graphFrom := q.graphFrom, phaseFrom := q.phaseFrom } } }

/-- A queue takes a free slot: its record is read and its program verified, and cancels that came meanwhile act (R390). -/
def State.mapQueue (s : State) (key : Nat) : State :=
  match s.queueOn key with
  | (none, s) => s
  | (some w, s) =>
    match s.hubWords (key / 65536) (s.qRecord key) 26 with
    | (none, s) => s
    | (some l, s) =>
      let f (k : Nat) : Word := l.getD k 0
      let tables := (List.range 4).map fun t => (f (10 + 2 * t), f (11 + 2 * t))
      let (prog, s) := s.loadProgram key (f 8) tables
      let m := sparseGet { anyFail := false, graphFail := false, cut := 0, graphFrom := (f 4).toNat, phaseFrom := (f 4).toNat }
        s.hearth.marks key
      let q : QSlot :=
        { ring := f 6, cring := f 7, w48 := w, tables := tables, scratch := (List.range 8).map fun k => f (18 + k)
          read := (f 1).toNat, tail := (f 2).toNat, acc := (f 3).toNat, cdone := (f 4).toNat
          prog := prog, enable := true, weldoff := w.getLsbD 2
          anyFail := m.anyFail, graphFail := m.graphFail, cut := m.cut, graphFrom := m.graphFrom, phaseFrom := m.phaseFrom }
      let asked := (s.hearth.pending.filter (·.1 = key)).map (·.2)
      let s : State := { s with hearth := { s.hearth with pending := s.hearth.pending.filter (·.1 ≠ key), marks := s.hearth.marks.filter (·.1 ≠ key) } }
      asked.foldl (fun (s : State) (level, i) => s.cancel key i level) (((s.setSlot key q).touch key).acceptAll key)

/-- Requests are granted in arrival order; a full Hearth frees the least recently active idle queue. -/
def execQueueSlotGrant (s : State) : Out :=
  .next (match s.hearth.waiting with
    | [] => s
    | key :: rest =>
      if !s.running then s
      else
        let s' : State := { s with hearth := { s.hearth with waiting := rest } }
        if s.hearth.slots.length < 64 then s'.mapQueue key
        else
          let idle := s.hearth.slots.filter (·.2.idle)
          match idle.find? fun p => idle.all (p.2.lastAct ≤ ·.2.lastAct) with
          | some (k, q) => (s'.unmap k q).mapQueue key
          | none => s)

/-! What a core offers (R341). -/

/-- What placing the next units of a launch asks for. -/
structure Need where
  job : Nat
  prio : Nat
  unit : Nat
  /-- Units placed together, and the contexts they need. -/
  gang : Nat
  ctxs : Nat
  ms : Bool
  handles : List Nat
  dies : Nat
  passed : Nat
  hint : Option Nat

/-- Where units go: the cores, one a die, the context numbers, and the clusters of each core. -/
structure Site where
  cores : List Nat
  ctxs : List Nat
  clus : List (List Nat)

/-- A FIFO bank of a cluster for each of n passed tensors, and whether it is a cache way (R332). DESIGN CHOICE (log 24): of
the banks in FIFO mode the lowest. -/
def State.fifoBanks (s : State) (q n : Nat) : Option (List (Nat × Bool)) :=
  let fifo := ((List.range 16).filter fun b => s.bankModeOf q b = 2 && !s.bankHeld (16 * q + b)).take n
  let cache := (List.range 16).reverse.filter fun b => s.bankModeOf q b = 0
  let more := cache.take (n - fifo.length)
  if fifo.length + more.length = n ∧ (more.isEmpty ∨ more.length + 4 ≤ cache.length) then
    some (fifo.map (16 * q + ·, false) ++ more.map (16 * q + ·, true))
  else none

/-- PRIORITY of the launch of a saved unit. -/
def State.savedPrio (s : State) (r : Saved) : Nat :=
  ((s.launch? (qKey r.job r.queue) r.index).map fun l => pktPrio l.words).getD 0

/-- The pre-empted units of the level of a launch or a higher one: what they left is kept for them (R345). -/
def State.keepers (s : State) (n : Need) : List Saved := s.hearth.saved.filter fun r => !r.journal && n.prio ≤ s.savedPrio r

/-- The contexts, clusters and MS of a core that a launch may take. -/
def State.openCtx (s : State) (n : Need) (h : Nat) : Bool :=
  !s.ctxBusy h && !(s.keepers n).any fun r =>
    ctxNo r.left = ctxNo h && (coreOf r.left = coreOf h || r.order.any (· / 4 = coreOf h))
def State.openClus (s : State) (n : Need) (g : Nat) : List Nat :=
  (s.freeClus g).filter fun q => !(s.keepers n).any (·.order.contains q)
def State.openMs (s : State) (n : Need) (g : Nat) : Bool :=
  s.msFree g && !(s.keepers n).any fun r => r.ms && coreOf r.left = g

/-- Whether the granted handles allow a core (R284): `known` says that it is the unit's home. -/
def State.handlesFit (s : State) (n : Need) (g : Nat) (known : Bool) : Bool :=
  n.handles.all fun h => match (s.handle (24 * g + h)).job with
    | none => true
    | some j => known && j = n.job

/-- The ways to take n of a list, in its order, the lowest first. -/
def choose {α : Type} : Nat → List α → List (List α)
  | 0, _ => [[]]
  | _, [] => []
  | n + 1, x :: t => (choose n t).map (x :: ·) ++ choose (n + 1) t

/-- What one core offers. -/
def State.coreOffers (s : State) (n : Need) (g : Nat) : Bool :=
  !s.coreFenced g && n.ctxs ≤ (((List.range 4).map (4 * g + ·)).filter (s.openCtx n)).length && n.gang ≤ (s.openClus n g).length &&
  (s.openClus n g).all fun q => n.passed = 0 || (s.fifoBanks q n.passed).isSome

/-- The site of units on given cores, the first of them their home: the contexts that all of them have free. -/
def State.siteOn (s : State) (n : Need) (known : Bool) (cores : List Nat) : Option Site :=
  let home := cores.headD 0
  let ctxs := ((List.range 4).filter fun c => cores.all fun k => s.openCtx n (4 * k + c)).take n.ctxs
  if ctxs.length ≠ n.ctxs ∨ (n.ms ∧ !s.openMs n home) ∨ !s.handlesFit n home known then none
  else some { cores := cores, ctxs := ctxs, clus := cores.map (s.openClus n) }

/-- The site whose home is core g: on that core, or for a span launch on the first dies, ascending, whose cores of that number
can take the unit together (R355); with a known home on the first that have it as theirs. -/
def State.siteAt (s : State) (n : Need) (g : Nat) (known : Bool) : Option Site :=
  if n.dies = 0 then (if s.coreOffers n g then s.siteOn n known [g] else none)
  else
    let sets := choose n.dies (((List.range 4).map fun d => 32 * d + g % 32).filter (s.coreOffers n))
    ((sets.filter fun l => !known || l.headD 0 = g).findSome? (s.siteOn n known)).filter fun x => x.cores.headD 0 = g

/-- The homes of the units to be placed that exist already. -/
def State.homesOf (s : State) (n : Need) : List Nat :=
  (List.range n.gang).filterMap fun k => (s.job n.job).homes[n.unit + k]?

/-- The order of preference: the hinted die, then the most free clusters, then the lowest core. -/
def better (n : Need) (a b : Site) : Bool :=
  let off (x : Site) : Nat := match n.hint with
    | some d => if x.cores.any fun g => dieOfCore g = d then 0 else 1
    | none => 0
  let free (x : Site) : Nat := (x.clus.map (·.length)).sum
  if !n.handles.isEmpty then a.cores.headD 0 < b.cores.headD 0
  else off a < off b || (off a == off b && (free b < free a || (free a == free b && a.cores.headD 0 < b.cores.headD 0)))

/-- Where the next units of a launch can go (R284, R341). -/
def State.findSite (s : State) (n : Need) : Option Site :=
  let homes := if n.handles.isEmpty then [] else (s.homesOf n).eraseDups
  match homes with
  | [g] => s.siteAt n g true
  | [] => ((List.range 128).filterMap fun g => s.siteAt n g false).foldl (fun b x => match b with
      | none => some x
      | some y => if better n x y then some x else some y) none
  | _ => none

/-! Handle homes move away from a core that is fenced or has failed (R451). -/

/-- Moves a job's home, once no unit of the job with handles runs there and no drain is in flight; the contents
of a failed core are lost. -/
def State.moveHome (s : State) (j g : Nat) : State :=
  let held := (List.range 24).filter fun h => (s.handle (24 * g + h)).job = some j
  let busy : Bool := s.ctxs.any (fun p => coreOf p.1 = g && p.2.unit.any fun u => u.job = j && !u.grants.isEmpty) ||
    held.any fun h => !(s.handle (24 * g + h)).drains.isEmpty
  let lost := s.plat.failed.getLsbD g
  if busy then s
  else match (List.range 128).find? fun k => !s.coreFenced k && held.all fun h => (s.handle (24 * k + h)).job.isNone with
    | none => s
    | some k =>
      let s := held.foldl (fun (s : State) h =>
        let a := 24 * g + h
        let b := 24 * k + h
        let hd := s.handle a
        let s : State := { s with
          cruc := if lost then sparseClear (sparseClear s.cruc (a * 32768) ((a + 1) * 32768)) (b * 32768) ((b + 1) * 32768)
            else moveBlock false 32768 a b s.cruc
          crucPois := if lost then sparseClear (sparseClear s.crucPois (a * 32768) ((a + 1) * 32768)) (b * 32768) ((b + 1) * 32768)
            else moveBlock false 32768 a b s.crucPois
          handles := s.handles.filter (·.1 ≠ a) }
        s.setHandle b (if lost then { job := some j } else hd)) s
      s.modJob j fun v => { v with homes := v.homes.map fun x => if x = g then k else x }

def State.moveHomes (s : State) (j : Nat) : State :=
  (((s.job j).homes.eraseDups).filter s.coreFenced).foldl (fun (s : State) g => s.moveHome j g) s

/-! The start of a unit (R32). -/

/-- Claims granted handles at a home (R284). -/
def State.claimHandles (s : State) (job g : Nat) (hs : List Nat) : State :=
  hs.foldl (fun s h =>
    let k := 24 * g + h
    if (s.handle k).job = some job then s
    else
      let s := { s with
        cruc := sparseClear s.cruc (k * 32768) ((k + 1) * 32768)
        crucPois := sparseClear s.crucPois (k * 32768) ((k + 1) * 32768) }
      s.setHandle k { job := some job }) s

/-- The MS and its billets at unit start. -/
def State.startMs (s : State) (g h : Nat) (u : UnitRef) (pc args num : Word) : State :=
  let s := s.giveMs true g h u
  let s := s.modMs g fun m => { m with
    run := .running, atWait := false, pc := pc, x := ((Vector.replicate 32 (0 : Word)).set 10 args).set 11 num
    ta := 0x3F800000, tb := 0x3F800000, faultWord := 0, faultAddr := 0, queue := [], ibuf := [] }
  { s with
    billets := sparseClear s.billets (8 * g) (8 * g + 8)
    brow := sparseClear s.brow (8 * g * 16384) ((8 * g + 8) * 16384)
    bpois := sparseClear s.bpois (8 * g * 16384) ((8 * g + 8) * 16384)
    bscale := sparseClear s.bscale (8 * g * 1024) ((8 * g + 8) * 1024) }

/-- Binds the windows of a launch in a context (R240). DESIGN CHOICE (log 95): their level arrays are those that were read
and checked with the descriptors at the take. -/
def State.bindWins (s : State) (h : Nat) (k : Kernel) : State :=
  k.wins.foldl (fun s (n, d) => s.setWindow h n d (((k.levels.find? (·.1 = n)).map (·.2)).getD [])) s

/-- A unit of a launch begins in a context. -/
def State.startUnit (s : State) (key : Nat) (l : Launch) (u : UnitRef) (h : Nat) : State :=
  let args := pktArgs l.words
  let num := BitVec.ofNat 64 u.num
  let c := blankCtx (s.ctx h)
  let s := s.setCtx h { c with
    pc := l.kern.ct, ccap := pktCcap l.words, unit := some u, fresh := true
    x := (c.x.set 10 args).set 11 num }
  let s := s.bindWins h l.kern
  let s := match u.ownsMs, l.kern.ms with
    | true, some pc => s.startMs (coreOf h) h u pc args num
    | _, _ => s
  let s := s.claimHandles u.job (coreOf h) u.grants
  s.modLaunch key l.index fun l => { l with placed := l.placed + 1 }

def unitRef (key : Nat) (l : Launch) (num base gang : Nat) (dies : List Nat) (ms : Bool) (splice : Option Nat) : UnitRef :=
  { job := key / 65536, queue := key % 65536, index := l.index, num := num, gangBase := base, gang := gang
    dies := dies, ownsMs := ms && l.kern.ms.isSome, grants := pktHandles l.words, splice := splice
    psn := l.psn, planes := l.planes, code := pktCode l.words
    blkBase := l.kern.blkBase, blkSize := l.kern.blkSize }

/-- Gives a context its clusters, cleared (R10, R32). -/
def State.giveClusters (s : State) (job h : Nat) (qs : List Nat) : State :=
  qs.foldl (fun s q => (s.giveCluster job h q).clearSlice h q) s

/-- The clusters of the k-th of g contexts, from a core's free ones ascending (R341). -/
def gangClusters (free : List Nat) (g k : Nat) : List Nat :=
  if k = 0 then free.take (free.length - (g - 1)) else (free.drop (free.length - g + k)).take 1

/-- Records a home for each unit that has none (R284). -/
def State.makeHomes (s : State) (n : Need) (g : Nat) : State :=
  if n.handles.isEmpty then s
  else (List.range n.gang).foldl (fun s k => s.modJob n.job fun v =>
    if v.homes.length ≤ n.unit + k then { v with homes := v.homes ++ [g] } else v) s

/-- Starts a gang of units. -/
def State.startGang (s : State) (key : Nat) (l : Launch) (n : Need) (x : Site) : State :=
  let g := x.cores.headD 0
  let base := 4 * g + x.ctxs.headD 0
  let dies := x.cores.map dieOfCore
  let s := ((List.range n.gang).zip x.ctxs).foldl (fun s (k, c) =>
    let h := 4 * g + c
    let s := s.giveClusters n.job h (x.clus.flatMap fun f => gangClusters f n.gang k)
    let s := s.startUnit key l (unitRef key l (n.unit + k) base n.gang dies (k = 0) none) h
    x.cores.foldl (fun s i =>
      let core := s.core i
      s.setCore i { core with heirs := core.heirs.setIfInBounds c (if k = 0 then none else some base) }) s) s
  s.makeHomes n g

/-- The FIFOs of a spliced unit, one bank for each tensor in each cluster; the banks start empty (R332). -/
def State.makeFifos (s : State) (passed : List Passed) (qs : List Nat) : List Fifo × State :=
  let banks := qs.map fun q => (s.fifoBanks q passed.length).getD []
  let s := (banks.flatMap id).foldl (fun s (b, _) => (s.setBank (b / 16) (b % 16) 0).setBank (b / 16) (b % 16) 2) s
  (((List.range passed.length).zip passed).map fun (k, p) =>
    { pSc := p.pSc, cSc := p.cSc, fmt := p.fmt, teed := p.teed, banks := banks.filterMap (·[k]?), slots := [] }, s)

/-- Starts a spliced unit: P in the lower context, C in the other (R331). -/
def State.startSpliced (s : State) (key : Nat) (p c : Launch) (n : Need) (x : Site) : State :=
  let g := x.cores.headD 0
  let hp := 4 * g + x.ctxs.headD 0
  let hc := 4 * g + x.ctxs.getD 1 0
  let qs := x.clus.headD []
  let (fifos, s) := (s.giveClusters n.job hp qs).makeFifos p.passed qs
  let s := qs.foldl (fun s q => s.clearSlice hc q) s
  let s : State := { s with splices := sparsePut s.splices hp { c := hc, count := p.count, fifos := fifos, pAt := 0, cAt := 0 } }
  let s := s.startUnit key p (unitRef key p n.unit hp 1 [dieOfCore g] true (some hp)) hp
  let s := s.startUnit key c (unitRef key c n.unit hc 1 [dieOfCore g] true (some hp)) hc
  s.makeHomes n g

/-! Placing the units of a launch (R341, R343). -/

/-- The consumer's launch of a spliced pair. -/
def State.mateOf (s : State) (key : Nat) (l : Launch) : Option Launch :=
  if l.consumer then none else l.partner.bind (s.launch? key)

def needOf (key : Nat) (l : Launch) (mate : Option Launch) : Need :=
  let left := pktUnits l.words - l.placed
  let g := if mate.isSome then 1 else Nat.min (pktGang l.words) left
  { job := key / 65536, prio := pktPrio l.words, unit := l.placed, gang := g
    ctxs := if mate.isSome then 2 else g
    ms := l.kern.ms.isSome || (mate.any fun m => m.kern.ms.isSome)
    handles := (pktHandles l.words ++ (mate.map fun m => pktHandles m.words).getD []).eraseDups
    dies := pktDies l.words, passed := if mate.isSome then l.passed.length else 0, hint := l.kern.hint }

/-- Places the next units of a launch. -/
def State.placeNext (s : State) (key : Nat) (l : Launch) : Option State :=
  let mate := s.mateOf key l
  let n := needOf key l mate
  (s.findSite n).map fun x => match mate with
    | some m => s.startSpliced key l m n x
    | none => s.startGang key l n x

/-- Places every unit that is left, or none (R306). -/
def placeEvery (key index : Nat) : Nat → State → Option State
  | 0, s => some s
  | n + 1, s =>
    match s.launch? key index with
    | none => none
    | some l => if pktUnits l.words ≤ l.placed then some s else (s.placeNext key l).bind (placeEvery key index n)

/-- Places units of a taken launch: all at once where its kernel, or its consumer's, holds `ubar`. -/
def State.placeUnits (s : State) (key index : Nat) : Option State :=
  match s.launch? key index with
  | none => none
  | some l =>
    if l.kern.ubar ∨ ((s.mateOf key l).any fun m => m.kern.ubar) then placeEvery key index (pktUnits l.words) s
    else s.placeNext key l

/-! Pre-emption for a launch that cannot be placed (R345). -/

/-- A running unit of a lower level: its hart, level and the order of its launch's take. -/
def State.victims (s : State) (prio : Nat) : List (Nat × Nat × Nat) :=
  let l := s.ctxs.filterMap fun p =>
    if 512 ≤ p.1 then none
    else match s.launchOf p.1 with
      | some (_, l) => if pktPrio l.words < prio then some (p.1, pktPrio l.words, l.seq) else none
      | none => none
  l.mergeSort fun a b => a.2.1 < b.2.1 || (a.2.1 == b.2.1 && b.2.2 ≤ a.2.2)

def State.without (s : State) (l : List Nat) : State :=
  l.foldl (fun s h => if (s.ctx h).unit.isSome then s.fullLeave h else s) s

/-- The first of the victims, in order, without which the launch could be placed. -/
def victimsFor (fits : State → Bool) (s : State) : List Nat → List Nat → Option (List Nat)
  | [], _ => none
  | h :: t, got => if fits (s.without (got ++ [h])) then some (got ++ [h]) else victimsFor fits s t (got ++ [h])

/-- Those of them whose resources the launch needs: the ones that come later in the order are spared first. -/
def neededOf (fits : State → Bool) (s : State) : List Nat → List Nat → List Nat
  | [], keep => keep
  | h :: t, keep => if fits (s.without (keep ++ t)) then neededOf fits s t keep else neededOf fits s t (keep ++ [h])

def State.askVictims (s : State) (prio : Nat) (fits : State → Bool) : State :=
  match victimsFor fits s ((s.victims prio).map (·.1)) [] with
  | some l => (neededOf fits s l.reverse []).foldl State.requestUnit s
  | none => s

end Sys2Proof.Machine
end

