-- ==== Sys2Proof/Machine/Take.lean ====
section
/-! DEFINITION. From the head of a queue to a taken launch (R340, R346, R387, R395 to R397, R402), and the units'
placement and resumption (R341, R345, R351). -/

namespace Sys2Proof.Machine
open Sys2Proof

/-! The packet at the read position. -/

def Launch.unplaced (l : Launch) : Bool :=
  l.status.isNone && pktType l.words = 1 && decide (l.placed < pktUnits l.words)

/-- Saved units of a queue that wait to resume (R345). -/
def State.waitingUnits (s : State) (key : Nat) : Bool :=
  s.hearth.saved.any fun r => !r.journal && qKey r.job r.queue = key

/-- Whether a queue's next packet may be handled (R340 step 5, R345, R381, R428). -/
def State.atHead (s : State) (key : Nat) (q : QSlot) : Bool :=
  let j := s.job (key / 65536)
  s.plat.mode = 1 && q.enable && j.state = 1 && !j.disabled && decide (q.read < q.acc) &&
  !q.taken.any Launch.unplaced && !s.waitingUnits key && (s.run? key).isNone

/-- Whether a cancel covers the packet at the head: one of a graph leaves a phase barrier alone (R390). -/
def QSlot.cancelled (q : QSlot) (w : List Word) : Bool :=
  q.cancels.contains q.read || q.cut = 2 || (q.cut = 1 && pktType w ≠ 2)

/-- The packet at the read position, ended with a status without a run. -/
def QSlot.headEnding (q : QSlot) (status : Nat) : Ready :=
  { index := q.read, words := sparseGet [] q.journal q.read, scratch := q.scratch, effects := [], ending := some status }

/-- Cancels of graphs and phases take hold of what has been published meanwhile. -/
def State.refreshHead (s : State) (key : Nat) : State := (s.reachCuts key).reachMate key

/-- How a packet that has run stands (R340 step 2, R346, R387, R388). -/
inductive Verdict where
  | blocked
  | ends (status : Nat)
  | goes (kern : Kernel) (early : Bool)

/-- Whether the packet may start early (R346). -/
def State.earlyOk (s : State) (key : Nat) (q : QSlot) (rd : Ready) : Bool :=
  rd.index ≠ 0 && match q.launch? (rd.index - 1) with
    | some p =>
      pktType p.words = 1 && pktSms p.words && p.status.isNone && !p.early && !p.unplaced &&
      (pktDeps rd.words).all fun d =>
        let w := s.counter (key / 65536) d.1
        !counterFailed w && (depMet w d.2 || s.onCompletion (key / 65536) { words := p.words, kern := p.kern, maps := [] } d)
    | none => false

/-- The dependences first, then, at the take, a cancel (R390) and the checks of R387: DESIGN CHOICE (log 97), in this order. -/
def State.judge (s : State) (key : Nat) (q : QSlot) (rd : Ready) : Verdict × State :=
  let j := key / 65536
  match rd.ending with
  | some st => (.ends st, s)
  | none =>
    let deps := pktDeps rd.words
    if ownCancel rd.index rd.effects then (.ends 2, s)
    else if deps.any fun d => counterFailed (s.counter j d.1) then (.ends 4, s)
    else
      let met := deps.all fun d => depMet (s.counter j d.1) d.2
      if !met ∧ !(pktType rd.words = 1 && s.earlyOk key q rd) then (.blocked, s)
      else if q.cancelled rd.words then (.ends 2, s)
      else if pktReserved rd.words then (.ends 7, s)
      else if pktType rd.words ≠ 1 then (.goes {} !met, s)
      else match s.loadLaunch j rd.words with
        | (some r, s) => (.goes r.kern !met, s)
        | (none, s) => (.ends 7, s)

/-! The take (R340 step 4, R396). -/

def launchOf' (index : Nat) (words : List Word) (effects : List Effect) (kern : Kernel) (seq : Nat) : Launch :=
  { index := index, words := words, psn := (policyOf effects).1, planes := (policyOf effects).2, kern := kern, seq := seq }

/-- The launches of a take: the packet's, and its consumer's where it splices. -/
def takenLaunches (rd : Ready) (kern : Kernel) (early : Bool) (seq : Nat) (status : Option Nat) (now : Word) : List Launch :=
  let l := launchOf' rd.index rd.words rd.effects kern seq
  match rd.mate with
  | some m =>
    [{ l with early := early, partner := some (rd.index + 1), passed := m.passed, count := m.count, status := status, tend := now },
     { launchOf' (rd.index + 1) m.words m.effects m.kern seq with
       partner := some rd.index, consumer := true, passed := m.passed, count := m.count, status := status, tend := now }]
  | none => [{ l with early := early, status := status, tend := now }]

/-- Adds the launches of a take, without its effects. -/
def State.addTaken (s : State) (key : Nat) (rd : Ready) (kern : Kernel) (early : Bool) (status : Option Nat) : State :=
  let seq := s.hearth.seq + 1
  let ls := takenLaunches rd kern early seq status (if status.isSome then s.time else 0)
  let s : State := { s with hearth := { s.hearth with
    seq := seq, rotation := sparsePut s.hearth.rotation (pktPrio rd.words) key } }
  s.modSlot key fun q => { q with
    read := rd.index + ls.length, ready := none, taken := q.taken ++ ls, lastAct := seq
    cancels := q.cancels.filter (· ≠ rd.index)
    cut := if q.cut ≠ 0 ∧ pktEnds q.cut rd.words then 0 else q.cut }

/-- Applies an effect of a run at a packet's index (R402). -/
def State.applyEffect (s : State) (key index : Nat) : Effect → State
  | .sigc c k => s.bumpCounter (key / 65536) c k
  | .setc c v => s.setCounter (key / 65536) c v
  | .cancel level i => if level = 0 ∧ i = index then s else s.cancel key i level
  | _ => s

/-- The packets of a take that nothing has ended meanwhile are carried out. -/
def State.carryOut (s : State) (key index n : Nat) : State :=
  (List.range n).foldl (fun (s : State) k => s.modLaunch key (index + k) fun l =>
    if l.status.isNone then { l with status := some 0, tend := s.time } else l) s

/-- The take with its effects, in list order; a packet that is carried out at once (status 0) is so after them (R397). -/
def State.takePacket (s : State) (key : Nat) (rd : Ready) (kern : Kernel) (early : Bool) (status : Option Nat) : State :=
  let j := key / 65536
  let s := s.addTaken key rd kern early (status.filter (· ≠ 0))
  let n := rd.index + (if rd.mate.isSome then 2 else 1)
  let s := s.recPut key 0x08 n
  let s := rd.effects.foldl (fun (s : State) e => s.applyEffect key rd.index e) s
  let s := match rd.mate with
    | some m => m.effects.foldl (fun (s : State) e => s.applyEffect key (rd.index + 1) e) s
    | none => s
  let scratch := (rd.mate.map (·.scratch)).getD rd.scratch
  let s := (s.modSlot key fun q => { q with scratch := scratch }).reachCuts key
  let s := if status = some 0 then s.carryOut key rd.index (n - rd.index) else s
  (List.range (n - rd.index)).foldl (fun (s : State) k => s.traceLaunch j (key % 65536) (rd.index + k) 0 0 none) s

/-! The choice of a queue (R340 step 1). -/

/-- The LAUNCH records of a take, one a packet, do not fit yet (R456). -/
def State.takeHolds (s : State) (job : Nat) (rd : Ready) : Bool := s.traceHolds 3 job (if rd.mate.isSome then 64 else 32)

/-- The packet as it is taken: one that starts early goes alone (R346). -/
def Ready.heads (rd : Ready) (early : Bool) : Ready := if early then { rd with mate := none } else rd

/-- Whether the packet at the head can be taken now; a launch only where its first unit can be placed. -/
def State.takeable (s : State) (key : Nat) (q : QSlot) : Bool :=
  s.atHead key q && match q.ready with
    | none => false
    | some rd =>
      match s.judge key q rd with
      | (.blocked, _) => false
      | (.ends _, _) => true
      | (.goes k early, s) =>
        if pktType rd.words ≠ 1 then true
        else (rd.decided || early) && (pktUnits rd.words = 0 ||
          ((s.addTaken key (rd.heads early) k early none).placeUnits key rd.index).isSome)

/-- The packet at the head is neither blocked nor ready to be taken yet: its program has not ended, or the Weld has
not decided. -/
def State.unjudged (s : State) (key : Nat) (q : QSlot) : Bool :=
  let idle : State := { s with hearth := { s.hearth with runs := [] } }
  idle.atHead key q && match q.ready with
    | none => q.waits.isNone
    | some rd =>
      match s.judge key q rd with
      | (.goes _ early, _) => pktType rd.words = 1 && !rd.decided && !early
      | _ => false

def QSlot.headPrio (q : QSlot) : Nat := pktPrio ((q.ready.map (·.words)).getD (sparseGet [] q.journal q.read))

/-- The queue that the Hearth takes from next: the highest PRIORITY, round robin by key within a level (R340). One
that is not judged yet holds its place. -/
def State.chosenQueue (s : State) : Option Nat :=
  let l := (s.hearth.slots.filter fun p => s.takeable p.1 p.2 || s.unjudged p.1 p.2).map fun p => (p.1, p.2.headPrio)
  let top := l.foldl (fun m p => Nat.max m p.2) 0
  let keys := (l.filter (·.2 = top)).map (·.1)
  match s.hearth.rotation.find? (·.1 = top) with
  | some (_, last) => (keys.find? (last < ·)).or keys.head?
  | none => keys.head?

/-! The events. -/

/-- The packet at the head begins: a run, or at once an ending (R395, R399). -/
def State.beginPacket (s : State) (key : Nat) (q : QSlot) : State :=
  match q.prog with
  | some prog => s.runPacket key q prog
  | none => s.modSlot key fun q => { q with ready := some (q.headEnding 7) }

/-- The Weld decides (R328, R339, R395): the consumer's program runs where the pair passes the first test. -/
def State.decideWeld (s : State) (key : Nat) (q : QSlot) (rd : Ready) : State :=
  let c := rd.index + 1
  let alone (s : State) : State := s.modSlot key fun q => { q with ready := some { rd with decided := true } }
  let words := sparseGet [] q.journal c
  if q.weldoff ∨ weldOffOf rd.effects ∨ q.acc ≤ c ∨ q.cancels.contains c ∨ pktType words ≠ 1 ∨
      q.later.any (fun (level, t) => c ≤ t && (s.sameAhead key level (t - c) c).1) then alone s
  else
    match s.weldTest key rd.index rd.words words with
    | (none, s) => alone s
    | (some _, s) =>
      let r : Run := { index := c, words := words, scratch := rd.scratch, consumer := true }
      match q.prog with
      | some [] => s.endRun key r .carry
      | some _ => s.startRun key r
      | none => alone s

/-- A packet at the read position moves on: its run begins, the Weld decides, or it is taken where it places
no unit (R340, R343, R397). -/
def execPacketTake (job q : Nat) (s : State) : Out :=
  let key := qKey job q
  .next (
    let s := s.refreshHead key
    match s.slot? key with
    | none => s
    | some t =>
      if !s.atHead key t then s
      else match t.ready with
        | none => if t.waits.isSome then s else s.beginPacket key t
        | some rd =>
          let mine : Bool := s.chosenQueue = some key && !s.takeHolds job rd
          match s.judge key t rd with
          | (.blocked, s) => s
          | (.ends st, s) => if mine then s.takePacket key { rd with mate := none } {} false (some st) else s
          | (.goes k early, s) =>
            if pktType rd.words = 2 then (if mine then s.takePacket key rd k false none else s)
            else if pktType rd.words ≠ 1 then (if mine then s.takePacket key rd k false (some 0) else s)
            else if !rd.decided then (if early then s else s.decideWeld key t rd)
            else if pktUnits rd.words = 0 ∧ !early ∧ mine then s.takePacket key rd k false (some 0)
            else s)

/-- Takes a launch and places its first units. -/
def State.takeLaunch (s : State) (key : Nat) (rd : Ready) (k : Kernel) (early : Bool) : State :=
  if pktUnits rd.words = 0 then s.takePacket key rd k early (some 0)
  else
    let s := s.takePacket key rd k early none
    match s.launch? key rd.index with
    | some l => if l.status.isSome then s else (s.placeUnits key rd.index).getD s
    | none => s

/-- R346. -/
def execEarlyStart (job q : Nat) (s : State) : Out :=
  let key := qKey job q
  let s := s.refreshHead key
  .next (match s.slot? key with
    | none => s
    | some t =>
      match t.ready with
      | none => s
      | some rd =>
        match s.judge key t rd with
        | (.goes k true, s') =>
          if s.chosenQueue = some key ∧ !s.takeHolds job (rd.heads true) then s'.takeLaunch key (rd.heads true) k true else s
        | _ => s)

/-- Places the next units of a taken launch, or takes the launch at the head and places its first. A launch that
finds no room asks for pre-emption (R345). -/
def execUnitPlace (job q : Nat) (s : State) : Out :=
  let key := qKey job q
  let s := (s.moveHomes job).refreshHead key
  .next (match s.slot? key with
    | none => s
    | some t =>
      match t.taken.find? fun l => l.unplaced && !l.consumer with
      | some l =>
        match s.placeUnits key l.index with
        | some s => s
        | none => if l.early then s else s.askVictims (pktPrio l.words) fun s => (s.placeUnits key l.index).isSome
      | none =>
        match t.ready with
        | none => s
        | some rd =>
          if !s.atHead key t ∨ !rd.decided ∨ pktType rd.words ≠ 1 ∨ pktUnits rd.words = 0 then s
          else match s.judge key t rd with
            | (.goes k false, s') =>
              let fits (s : State) : Bool := ((s.addTaken key rd k false none).placeUnits key rd.index).isSome
              if !fits s' then s'.askVictims (pktPrio rd.words) fits
              else if s.chosenQueue = some key ∧ !s.takeHolds job rd then s'.takeLaunch key rd k false
              else s
            | _ => s)

/-! Resumption (R345, R351). -/

/-- The cores that a saved unit may resume on, in order: its home where its launch, or that of its C-context, grants handles, the core of the
rest of its gang, else the core it left and then any. -/
def State.resumeCores (s : State) (r : Saved) : List Nat :=
  let c := s.ctx (virtHart r.id)
  let base := coreOf r.left
  match c.unit with
  | none => []
  | some u =>
    let mate := ((r.mate.bind s.savedById).bind fun m => (s.ctx (virtHart m.id)).unit).any (!·.grants.isEmpty)
    if !u.grants.isEmpty ∨ mate then ((s.job r.job).homes[r.num]?).toList
    else
      let gang := (s.unitsOf (qKey r.job r.queue) r.index).filter fun h => h < 512 && match (s.ctx h).unit with
        | some v => v.gang ≠ 1 && v.gangBase = u.gangBase
        | none => false
      match gang with
      | h :: _ => [coreOf h]
      | [] => base :: (List.range 128).filter (· ≠ base)

def execUnitResume (k : Nat) (s : State) : Out :=
  .next (match s.savedById k with
    | none => s
    | some r =>
      if r.journal ∨ r.isMate ∨ s.plat.mode ≠ 1 then s
      else
        let s := s.moveHomes r.job
        match (s.resumeCores r).find? fun g => (s.canResume r g).isSome with
        | none => s
        | some g =>
          match s.canResume r g with
          | some (harts, order) => s.comeBack r harts order
          | none => s)

end Sys2Proof.Machine
end

