-- ==== Sys2Proof/Machine/Deliver.lean ====
section
/-! DEFINITION. The delivery of completions (R334, R346, R388, R389), phase barriers (R388), and a job's control
block, doorbell and cancel register (R428, R429). -/

namespace Sys2Proof.Machine
open Sys2Proof

/-! Completion records (R389). -/

/-- EMASK: the windows of P whose tensors were elided. -/
def Launch.elided (l : Launch) : Nat :=
  if l.consumer ∨ l.partner.isNone then 0
  else (l.passed.filter (!·.teed)).foldl (fun m p => m ||| 2 ^ p.win) 0

def recordWords (l : Launch) : List Word :=
  [BitVec.ofNat 64 l.index,
   BitVec.ofNat 64 (l.status.getD 0 * 2 ^ 56 + l.cause * 2 ^ 48 + l.ustat % 65536 * 2 ^ 32 + l.funit * 2 ^ 16 + l.elided),
   l.stval,
   BitVec.ofNat 64 (l.pcount * 2 ^ 32 + if l.partner.isSome then 1 else 0),
   l.tstart, l.tend, 0, 0]

/-- SIG, and GSIG at the end of a graph; a phase barrier also fails its SIG after an earlier failure (R388), and with LAST its
GSIG where it ends without being carried out (R396). -/
def State.countEnd (s : State) (key : Nat) (q : QSlot) (l : Launch) : State :=
  let j := key / 65536
  let bad := l.status ≠ some 0
  let sig := pktSig l.words
  let s := if pktType l.words = 1 ∧ !bad then s.bumpCounter j 0 1 else s
  let s := s.signal j sig bad
  if pktType l.words = 2 then
    let s := if q.anyFail ∧ !bad then s.signal j sig true else s
    if bad ∧ pktLast l.words then s.signal j (pktGsig l.words) true else s
  else if pktLast l.words then s.signal j (pktGsig l.words) (bad || q.graphFail) else s

/-- Delivers one packet's completion. -/
def State.deliverOne (s : State) (key : Nat) (q : QSlot) (l : Launch) : State :=
  let j := key / 65536
  let bad : Bool := l.status ≠ some 0
  let s := s.hubPuts j (q.cring + BitVec.ofNat 64 (64 * (l.index % w48Ccap q.w48))) (recordWords l)
  let s := s.countEnd key q l
  let s := s.recPut key 0x20 (l.index + 1)
  let s := s.modSlot key fun q => { q with
    cdone := l.index + 1
    taken := (q.taken.filter (·.index ≠ l.index)).map fun x => if x.index = l.index + 1 then { x with early := false } else x
    journal := q.journal.filter (·.1 ≠ l.index), copies := q.copies.filter (·.1 ≠ l.index)
    anyFail := q.anyFail || bad
    graphFrom := if pktEnds 1 l.words then l.index + 1 else q.graphFrom
    phaseFrom := if pktEnds 2 l.words then l.index + 1 else q.phaseFrom
    graphFail := if pktType l.words = 2 then q.graphFail else if pktLast l.words then false else q.graphFail || bad }
  (s.touch key).traceLaunch j (key % 65536) l.index 2 (l.status.getD 0) none

/-- Whether a completion may be delivered: it is the next, every write of its launch is performed (R391), and
the ring has room for it. -/
def State.mayDeliver (s : State) (key : Nat) (q : QSlot) (index : Nat) : Bool :=
  ((q.launch? index).any (·.status.isSome)) &&
  !(s.ctxs.any fun p => p.2.leftOf = some (key, index) && !p.2.queue.isEmpty) && !s.drainsLeft key index &&
  match (s.hubWord (key / 65536) (s.qRecord key + 0x28)).1 with
  | some ack => index < ack.toNat + w48Ccap q.w48
  | none => false

/-! The end of a job (R428). -/

/-- An ENDING job whose launches have all ended gives up what it holds, and is FREE. -/
def State.settleJob (s : State) (j : Nat) : State :=
  let busy := s.hearth.slots.any fun p => p.1 / 65536 = j && !p.2.taken.isEmpty
  if (s.job j).state ≠ 2 ∨ busy ∨ s.hearth.saved.any (fun r => r.job = j) ∨
      s.ctxs.any (fun p => p.2.unit.any (·.job = j)) then s
  else
    let s := (s.zeroHandles j).forgetJob j
    let s := s.shootAll j none
    let s := s.modJob j fun v => if v.flr then {} else { v with state := 0, homes := [], disabled := false }
    let s : State := { s with plat := { s.plat with debug := (s.plat.debug).filter (·.1 ≠ j) } }
    { s with hearth := { s.hearth with
        slots := s.hearth.slots.filter (·.1 / 65536 ≠ j), runs := s.hearth.runs.filter (·.1 / 65536 ≠ j)
        waiting := s.hearth.waiting.filter (· / 65536 ≠ j), pending := s.hearth.pending.filter (·.1 / 65536 ≠ j),
        marks := s.hearth.marks.filter (·.1 / 65536 ≠ j)
        unmapped := s.hearth.unmapped.filter (·.1 ≠ j) } }

/-- Delivery of the next completion of a queue. P's and C's of a splice come with nothing between them (R334). -/
def execLaunchComplete (job q : Nat) (s : State) : Out :=
  let key := qKey job q
  .next (match s.slot? key with
    | none => s
    | some t =>
      match t.launch? t.cdone with
      | none => s
      | some l =>
        let pair : Bool := l.partner.isSome && !l.consumer
        if !s.running ∨ !s.mayDeliver key t l.index ∨ (pair ∧ !s.mayDeliver key t (l.index + 1)) ∨
            s.traceHolds 3 job (if pair then 64 else 32) then s
        else
          let s := s.deliverOne key t l
          let s := if pair then
              match s.slot? key with
              | some t => match t.launch? (l.index + 1) with
                | some c => s.deliverOne key t c
                | none => s
              | none => s
            else s
          s.settleJob job)

/-- A phase barrier completes once every earlier packet of its queue has ended. -/
def execPhaseBarrierComplete (job q : Nat) (s : State) : Out :=
  let key := qKey job q
  .next (match s.slot? key with
    | none => s
    | some t =>
      match t.taken.find? fun l => pktType l.words = 2 && l.status.isNone with
      | some l =>
        if s.running && t.taken.all fun x => l.index ≤ x.index || x.status.isSome then
          s.modLaunch key l.index fun l => { l with status := some 0, tend := s.time }
        else s
      | none => s)

/-! The job control block (R428). -/

def execJobCreate (job : Nat) (s : State) : Out :=
  let j := s.job job
  .next (
    if 256 ≤ job ∨ !s.running ∨ (j.state ≠ 0 ∧ j.state ≠ 3) then s
    else if j.root % 1024 ≠ 0 ∨ j.qtab.toNat % 256 ≠ 0 ∨ j.cmir.toNat % 8192 ≠ 0 then s.setJob job { j with state := 3 }
    else
      let s := s.setJob job { j with state := 1, counters := [], homes := [], disabled := false }
      s.hubPuts job j.cmir (List.replicate 1024 0))

def execJobEnd (job : Nat) (s : State) : Out :=
  .next (if s.running ∧ (s.job job).state = 1 then (s.modJob job fun v => { v with state := 2 }).settleJob job else s)

def execJobCancel (job : Nat) (s : State) : Out :=
  .next (if s.running ∧ ((s.job job).state = 1 ∨ (s.job job).state = 2) then
      ((s.cancelJob job).modJob job fun v => { v with state := 2 }).settleJob job
    else s)

/-! The doorbell and the cancel register (R429). -/

def execHostDoorbell (job : Nat) (v : BitVec 64) (s : State) : Out :=
  let q := (v.extractLsb' 48 16).toNat
  .next (if !s.running ∨ (s.job job).nq < q then s
    else s.announce (qKey job q) (v.extractLsb' 0 48).toNat)

def execHostCancel (job : Nat) (w0 w1 : BitVec 64) (s : State) : Out :=
  .next (if !s.running then s
    else
      let s := s.modJob job fun v => { v with cancelWord := w0 }
      if (s.job job).state ≠ 1 ∧ (s.job job).state ≠ 2 then s
      else s.cancel (qKey job (w1.extractLsb' 16 16).toNat) w0.toNat (w1.extractLsb' 0 2).toNat)

end Sys2Proof.Machine
end

