-- ==== Sys2Proof/Machine/Errors.lean ====
section
/-! DEFINITION. Errors: the error log ring (R420, R421), the table of corrected errors (R422), the counters
(R423, R458), what an error does (R373, R419), and the patrol (R416 to R418). -/

namespace Sys2Proof.Machine
open Sys2Proof

/-! Physical accesses of the hub. -/

def State.physWord (s : State) (pa : Nat) : Word := BitVec.ofNat 64 (s.memNat pa 8)
def State.physPut (s : State) (pa : Nat) (v : Word) : State := s.homeWrite .other pa (fullBytes (natLe 8 v.toNat))

/-! The log ring. -/

/-- Writes a record at TAIL, or counts it in DROPS where the ring is full. A header out of form takes none. -/
def State.logRecord (s : State) (ws : List Word) : State :=
  let at' := s.plat.elog.toNat
  let tail := s.physWord at'
  let head := s.physWord (at' + 8)
  let ring := s.physWord (at' + 0x10)
  let w := (s.physWord (at' + 0x18)).toNat
  let log := w % 32
  if at' % 32 ≠ 0 ∨ log < 6 ∨ 20 < log ∨ w % 2 ^ 32 ≠ log ∨ ring.toNat % 32 ≠ 0 then s
  else if (tail - head).toNat = 2 ^ log then
    s.physPut (at' + 0x18) (BitVec.ofNat 64 (Nat.min (w / 2 ^ 32 + 1) 0xFFFFFFFF * 2 ^ 32 + log))
  else
    let slot := ring.toNat + 32 * (tail.toNat % 2 ^ log)
    let s := ((List.range 4).zip ws).foldl (fun (s : State) (k, v) => s.physPut (slot + 8 * k) v) s
    s.physPut at' (tail + 1)

def errorWords (pa kind src mem count sector : Nat) (first last : Word) : List Word :=
  [BitVec.ofNat 64 (pa / 65536 * 65536 + kind * 4096 + src * 256 + mem), first,
   BitVec.ofNat 64 (count * 2 ^ 32 + sector), last]

/-- A record of one uncorrectable error (KIND 2) or lost page (KIND 3). -/
def State.logError (s : State) (pa kind src mem : Nat) : State :=
  s.logRecord (errorWords pa kind src mem 1 (pa / 64 % 1024) s.time s.time)

/-! Counters. -/

def saturate (n k : Nat) : Nat := Nat.min (n + k) 0xFFFFFFFF
def bumpHigh (w : Word) (k : Nat) : Word := BitVec.ofNat 64 (saturate (w.toNat / 2 ^ 32) k * 2 ^ 32 + w.toNat % 2 ^ 32)
def bumpLow (w : Word) (k : Nat) : Word := BitVec.ofNat 64 (w.toNat / 2 ^ 32 * 2 ^ 32 + saturate (w.toNat % 2 ^ 32) k)

/-- ECNT of a stack or tier counts an error; MEM 9 has no counter. -/
def State.countError (s : State) (mem : Nat) (fatal : Bool) (k : Nat) : State :=
  if 8 < mem then s
  else
    let w := sparseGet 0#64 s.plat.ecnt mem
    { s with plat := { s.plat with ecnt := sparseSet 0#64 s.plat.ecnt mem (if fatal then bumpHigh w k else bumpLow w k) } }

def State.countSram (s : State) (die : Nat) (fatal : Bool) : State :=
  let w := sparseGet 0#64 s.plat.sramErr die
  { s with plat := { s.plat with sramErr := sparseSet 0#64 s.plat.sramErr die (if fatal then bumpHigh w 1 else bumpLow w 1) } }

/-! Corrected errors. -/

def State.writeCe (s : State) (e : CeEnt) : State :=
  s.logRecord (errorWords (e.page * 65536) 1 e.src e.mem e.count e.sector e.first e.last)

def State.setCe (s : State) (l : List CeEnt) : State := { s with plat := { s.plat with ceTab := l } }

/-- A corrected error joins the entry of its page, or takes one from the least recently used. -/
def State.noteCe (s : State) (pa src mem : Nat) : State :=
  let page := pa / 65536
  let t := s.plat.ceTab
  match t.find? (·.page = page) with
  | some e =>
    let e' : CeEnt := { e with count := e.count + 1, last := s.time }
    let rest := t.filter (·.page ≠ page)
    if e'.count = 0xFFFFFFFF then (s.setCe rest).writeCe e' else s.setCe (rest ++ [e'])
  | none =>
    let e : CeEnt := { page := page, src := src, mem := mem, sector := pa / 64 % 1024, count := 1, first := s.time, last := s.time }
    match t with
    | old :: rest => if t.length < 1024 then s.setCe (t ++ [e]) else (s.setCe (rest ++ [e])).writeCe old
    | [] => s.setCe [e]

/-- An entry is written out 10 s after its first error; eviction and saturation write theirs at once. -/
def execCeRecordFlush (k : Nat) (s : State) : Out :=
  .next (match s.plat.ceTab[k]? with
    | some e =>
      if e.first.toNat + 1000000000 ≤ s.time.toNat then (s.setCe (s.plat.ceTab.eraseIdx k)).writeCe e else s
    | none => s)

/-! What an error does. -/

def State.correctedAt (s : State) (pa src : Nat) (l2 : Bool) : State :=
  let mem := if l2 then 9 else memOf pa
  (s.countError mem false 1).noteCe pa src mem

def State.poisonAt (s : State) (pa src : Nat) (l2 : Bool) : State :=
  let mem := if l2 then 9 else memOf pa
  ((s.setPois (pa / 4 * 4) 4 true).countError mem true 1).logError pa 2 src mem

/-- The die of a key of the stores that an error strikes. -/
def strikeDie (store key : Nat) : Nat :=
  let g := match store with
    | 0 => key / 128 / 32 / 4 / 4
    | 1 => key / 16384 / 8
    | 2 => key / 256 / 16384
    | 3 => key / 256 / 128 / 24
    | 4 => key / 16384 / 16 / 4
    | 5 => key / 16 / 2 ^ 46 / 4
    | _ => coreOf (key / 2 ^ 44)
  dieOfCore g

/-- An element that a FIFO bank holds is named by 2⁴⁴ times its hart, 2⁴⁰ times its passed tensor (store 6) or its stream (7
and 8), and its position. -/
def State.strikeFifo (s : State) (store key : Nat) : State :=
  let h := key / 2 ^ 44
  let n := key / 2 ^ 40 % 16
  let pos := key % 2 ^ 40
  if (s.ctx h).unit.isNone then s
  else match store with
  | 6 => if !s.splices.any (·.1 = s.holder h) then s
    else s.modFifo h n fun f => { f with slots := f.slots.map fun p => if p.1 = pos then (p.1, (p.2.1, true, p.2.2.2)) else p }
  | 7 => s.modStream h n fun t => { t with fetched := t.fetched.map fun e => if e.pos = pos then { e with pois := true } else e }
  | _ => s.modStream h n fun t => { t with accepted := t.accepted.map fun a => if a.pos = pos then { a with pois := true } else a }

/-- An error in a store of a core (R373): it is counted, and an uncorrectable one poisons what it struck. A corrected error in
a cache-way copy, or an uncorrectable one where nothing is held, changes nothing else. -/
def State.strike (s : State) (store key : Nat) (fatal : Bool) : State :=
  let s := s.countSram (strikeDie store key % 4) fatal
  if !fatal then s
  else match store with
    | 0 => { s with vpois := sparseSet false s.vpois key true }
    | 1 => { s with bpois := sparseSet false s.bpois key true }
    | 2 => { s with platePois := sparseSet false s.platePois key true }
    | 3 => { s with crucPois := sparseSet false s.crucPois key true }
    | 4 => { s with scratchPois := sparseSet false s.scratchPois key true }
    | 5 => { s with ways := s.ways.map fun p =>
        if p.1 = key / 16 then (p.1, { p.2 with pois := p.2.pois ||| (1#16 <<< (key % 16)) }) else p }
    | _ => s.strikeFifo store key

/-! The patrol. -/

/-- A valid entry of the checkpoint set table (R416). -/
def State.ckEntry (s : State) (k : Nat) : Option (Nat × Nat) :=
  let at' := s.plat.ckset.toNat + 32 * k
  let base := (s.physWord at').toNat
  let len := (s.physWord (at' + 8)).toNat
  let inside : Bool := base + len ≤ 0x8000000000 || (0x20000000000 ≤ base && base + len ≤ 0x40000000000)
  if base % 64 = 0 ∧ len % 64 = 0 ∧ len ≠ 0 ∧ inside then some (base, len) else none

def ckCount (w : Word) : Nat := Nat.min 64 (w.extractLsb' 16 7).toNat

/-- Takes up the table: an entry that has been written starts with LAST 0 and CURSOR at its base. One that NREG has taken back
into use goes on from the CURSOR that its entry holds, with no sector beyond it marked. -/
def State.reloadCk (s : State) : State :=
  let old := s.plat.ckRegs
  let new := s.ckNew
  let n := ckCount s.plat.scrubctl
  let s : State := { s with ckNew := new.filter (n ≤ ·), plat := { s.plat with ckRegs := [] } }
  (List.range n).foldl (fun (s : State) k =>
    let add (s : State) (r : CkReg) : State := { s with plat := { s.plat with ckRegs := s.plat.ckRegs ++ [r] } }
    match s.ckEntry k with
    | none => s
    | some (base, len) =>
      let at' := s.plat.ckset.toNat + 32 * k
      if new.contains k then
        add ((s.physPut (at' + 0x10) 0).physPut (at' + 0x18) (BitVec.ofNat 64 base))
          { entry := k, base := base, len := len, cursor := base, marks := [] }
      else match old.find? fun r => r.entry = k && r.base = base && r.len = len with
        | some r => add s r
        | none =>
          let c := (s.physWord (at' + 0x18)).toNat
          add s { entry := k, base := base, len := len, cursor := if base ≤ c ∧ c < base + len ∧ c % 64 = 0 then c else base, marks := [] }) s

/-- Whether the patrol stands at a boundary of a region: of one in use or in the table, or at the start. -/
def State.atBoundary (s : State) (a : Nat) : Bool :=
  a = 0 || s.plat.ckRegs.any (fun r => a = r.base || a = r.base + r.len) ||
  (List.range (ckCount s.plat.scrubctl)).any fun k => match s.ckEntry k with
    | some (b, n) => a = b || a = b + n
    | none => false

/-- Whether a sector lies in a region whose LAST is within PERIOD (R418). -/
def State.ckFresh (s : State) (a : Nat) : Bool :=
  s.plat.ckRegs.any fun r =>
    let last := (s.physWord (s.plat.ckset.toNat + 32 * r.entry + 0x10)).toNat
    r.base ≤ a && a < r.base + r.len && last ≠ 0 &&
    decide (s.time.toNat ≤ last + (s.plat.scrubctl.extractLsb' 32 32).toNat * 100000000)

/-- The sector after one, over HBM and then the LPDDR tier. -/
def patrolAfter (a : Nat) : Nat :=
  if a + 64 = 0x8000000000 then 0x20000000000 else if a + 64 = 0x40000000000 then 0 else a + 64

/-- The next patrol read: 0 finds no error, 1 a corrected one, 2 or 3 an uncorrectable one, in a word that the
hardware names. A recent checkpoint region is skipped. -/
def execPatrolRead (err : BitVec 2) (s : State) : Out :=
  .next (
    if !s.plat.scrubctl.getLsbD 0 then s
    else
      let a := s.plat.patrol * 64
      let s := if s.atBoundary a then s.reloadCk else s
      let go (s : State) : State := { s with plat := { s.plat with patrol := patrolAfter a / 64 } }
      if s.ckFresh a then go s
      else if err = 0#2 then go s
      else if err = 1#2 then go (s.correctedAt a 2 false)
      else
        let (r, s) := s.drawNat
        go (s.poisonAt (a + 4 * (r % 16)) 2 false))

/-- R416: a period below an hour stores an hour; NREG is held to 64. -/
def execScrubctlWrite (v : BitVec 64) (s : State) : Out :=
  let period := Nat.max 3600 (v.extractLsb' 32 32).toNat
  .next { s with plat := { s.plat with
    scrubctl := BitVec.ofNat 64 (period * 2 ^ 32 + ckCount v * 65536 + if v.getLsbD 0 then 1 else 0) } }

end Sys2Proof.Machine
end

