-- ==== Sys2Proof/Machine/VectorMem.lean ====
section
/-! DEFINITION. VMEM (R211 to R222): loads, stores, gathers with links, conditional scatters and `vcappend`. -/

namespace Sys2Proof.Machine
open Sys2Proof

/-! The elements of an access. -/

/-- Runs an element action for each element in the order given. -/
def eachElem {α : Type} (f : Nat → State → Except Ef α × State) :
    List Nat → State → List (Nat × Except Ef α) × State
  | [], s => ([], s)
  | e :: t, s =>
    let (r, s) := f e s
    let (l, s) := eachElem f t s
    ((e, r) :: l, s)

/-- An element of a vector load of the moving agent that has been read ahead of the rest (R68, R358). -/
def State.readAhead? (s : State) (e : Nat) : Option (BitVec 32 × Bool) :=
  ((s.ctx s.hart).sampled.find? fun a => a.slot = s.stripSlot && a.elem = e).map fun a => (a.lane, a.pois)

/-- The loads of an instruction's elements (R68): each is read in its own time, so that a load may take some of them ahead of
the rest and wait, and then the rest with those. `k` gets all of them. -/
def readEach (x : VIn) (f : Nat → State → Elem × State) (s : State) (k : List (Nat × Elem) → State → State) : State :=
  let one (e : Nat) (s : State) : Elem × State := match s.readAhead? e with
    | some y => (.ok y, s)
    | none => f e s
  let want := (s.ctx x.v.hart).ahead
  let (l, s) := eachElem one (if want.isEmpty then x.acts else x.acts.filter want.contains) s
  if want.isEmpty then k l s
  else s.stall.modCtx x.v.hart fun c => { c with
    ahead := []
    sampled := l.foldl (fun m (e, r) => match r with
      | .ok (y, p) => { slot := s.stripSlot, elem := e, lane := y, pois := p } :: m.filter fun a => !(a.slot = s.stripSlot && a.elem = e)
      | .error _ => m) c.sampled }

/-- How an access forms its addresses (R212). -/
inductive Mode3 where
  | unit | strided | indexed
  deriving DecidableEq, Repr

/-- The byte offset of element e of an indexed access. -/
def indexOf (o : T48) (x : VIn) (s : State) (e : Nat) : Elem := x.get s o.b.toNat e

/-- sfdesc's KIND, WIDTH and the address words of an access (R366). -/
def accessInfo (m : Mode3) (o : T48) (wr : Bool) (x : VIn) (s : State) : FaultInfo :=
  let w := if planeFmt o.fmt then 1 else fmtWidth o.fmt
  let a := s.rx o.a
  match m with
  | .unit => { count := 0, kind := if planeFmt o.fmt then 7 else 0, wr := wr, width := w, base := a
               stride := BitVec.ofNat 64 (w / 8) }
  | .strided => { count := 0, kind := 1, wr := wr, width := w, base := a, stride := s.rx o.b }
  | .indexed =>
    let off := match indexOf o x s 0 with | .ok (i, _) => i.toNat | .error _ => 0
    { count := 0, kind := 2, wr := wr, width := w, base := a + BitVec.ofNat 64 off, stride := 0 }

/-- The bit address of element e (R212), and whether its index is poisoned. -/
def bitAddrOf (m : Mode3) (o : T48) (x : VIn) (s : State) (e : Nat) : Except Ef (Nat × Bool) :=
  let a := s.rx o.a
  match m with
  | .unit => .ok ((8 * a.toNat + e * (if planeFmt o.fmt then 1 else fmtWidth o.fmt)) % 2 ^ 67, false)
  | .strided => .ok (8 * (a + BitVec.ofNat 64 e * s.rx o.b).toNat, false)
  | .indexed => (indexOf o x s e).map fun (i, p) => (8 * (a + i.zeroExtend 64).toNat, p)

/-- The report of element e of an access: it names the element's page (R367). -/
def elemInfo (m : Mode3) (o : T48) (info : FaultInfo) (x : VIn) (s : State) (e : Nat) : FaultInfo :=
  { info with pages := match bitAddrOf m o x s e with
      | .ok (ba, _) => s.elemPage ba
      | .error _ => [] }

/-- The bit address of element e (R212); a poisoned index is cause 26 (R374). -/
def elemAddr (m : Mode3) (o : T48) (info : FaultInfo) (x : VIn) (s : State) (e : Nat) : Except Ef Nat :=
  match bitAddrOf m o x s e with
  | .error b => .error b
  | .ok (ba, p) => if p then .error (s.ef (elemInfo m o info x s e) (26, BitVec.ofNat 64 e)) else .ok ba

/-- Turns an access's cause and address into its element fault. -/
def badElem {α : Type} (info : FaultInfo) (r : Except Bad α × State) : Except Ef α × State :=
  match r with
  | (.ok y, s) => (.ok y, s)
  | (.error b, s) => (.error (s.ef info b), s)

def memUses (m : Mode3) (o : T48) : List Use :=
  match m with | .indexed => [useEach o.b.toNat o.fb id] | _ => []

/-- Illegal where the SEW in effect cannot take the format (R40). -/
def takesFormat (bits : Word) (o : T48) (s : State) (k : State → State) : State :=
  if laneTakes o.fmt (vtySb (s.ctx s.hart).vty) then k s else s.illegal bits

/-! Loads (R213). -/

def loadElem (m : Mode3) (o : T48) (info : FaultInfo) (x : VIn) (e : Nat) (s : State) : Elem × State :=
  match elemAddr m o info x s e with
  | .error b => (.error b, s)
  | .ok ba =>
    let c := s.ctx x.v.hart
    badElem info (s.readElem c.cap o.fmt x.v.sb ba (x.v.loc e).1 (o.aux.getLsbD 7))

def vloadOp (m : Mode3) (op : BitVec 6) (o : T48) (s : State) : Out :=
  let bits := t48Bits (0x0C, op) o
  let form : VForm := { vform (0x0C, op) o (memUses m o) false with load := true }
  ctStep s bits fun s => takesFormat bits o s fun s => vprep form s fun x s =>
    let info := accessInfo m o false x s
    readEach x (loadElem m o info x) s fun l s =>
      loadCommit form x (l.map fun (e, r) => (e, x.taint s form.gm e r)) s

def execVld (o : T48) (s : State) : Out := vloadOp .unit 0x00 o s
def execVlds (o : T48) (s : State) : Out := vloadOp .strided 0x02 o s
def execVldx (o : T48) (s : State) : Out := vloadOp .indexed 0x04 o s

/-! Stores (R214). -/

/-- The form of an instruction that stores its register d. -/
def storeForm (op : BitVec 6) (o : T48) (uses : List Use) : VForm :=
  { len := 6, bits := t48Bits (0x0C, op) o, gm := o.gm.toNat, uses := useD o :: uses, dst := none
    noStream := [], load := false, align := o.d.toNat :: uses.map (·.reg), extra := noExtra }

/-- The data of element e; poison, its governing bit's included, is cause 26 (R188, R214). -/
def storeData (o : T48) (info : FaultInfo) (x : VIn) (s : State) (e : Nat) : Except Ef (BitVec 32) :=
  match x.get s o.d.toNat e with
  | .error b => .error b
  | .ok (y, p) => if p || s.governPois x.v o.gm.toNat e then .error (s.ef info (26, BitVec.ofNat 64 e)) else .ok y

def storeElem (m : Mode3) (o : T48) (info : FaultInfo) (x : VIn) (e : Nat) (s : State) :
    Except Ef Unit × State :=
  let info := elemInfo m o info x s e
  match storeData o info x s e with
  | .error b => (.error b, s)
  | .ok y =>
    match elemAddr m o info x s e with
    | .error b => (.error b, s)
    | .ok ba =>
      let c := s.ctx x.v.hart
      match badElem info (s.writeElem c.cap o.fmt x.v.sb ba (x.v.loc e).1 e y) with
      | (.error b, s) => (.error b, s)
      | (.ok (), s) => (.ok (), s.modCtx x.v.hart fun c => noteAmax c o.fmt x.v.sb y)

/-- Ends a store: its elements by ascending index. -/
def storeCommit (form : VForm) (x : VIn) (l : List (Nat × Except Ef Unit)) (s : State) : State :=
  let find (e : Nat) : Elem := match l.find? (·.1 = e) with
    | some (_, .error b) => .error b
    | _ => .ok (0, false)
  vcommit form x false (x.acts.map fun e => (e, find e)) s

/-- A store whose elements are stored in an order that `pick` makes of the active ones. -/
def vstoreOp (m : Mode3) (op : BitVec 6) (o : T48) (pick : VIn → State → List Nat × State) (s : State) : Out :=
  let bits := t48Bits (0x0C, op) o
  let form := storeForm op o (memUses m o)
  ctStep s bits fun s => takesFormat bits o s fun s => vprep form s fun x s =>
    let info := accessInfo m o true x s
    let (es, s) := pick x s
    let (l, s) := eachElem (storeElem m o info x) es s
    storeCommit form x l s

def inOrder (x : VIn) (s : State) : List Nat × State := (x.acts, s)

def execVst (o : T48) (s : State) : Out := vstoreOp .unit 0x01 o inOrder s
def execVsts (o : T48) (s : State) : Out := vstoreOp .strided 0x03 o inOrder s

/-- The address of an indexed element, none where its index cannot be used. -/
def keyOf (o : T48) (x : VIn) (s : State) (e : Nat) : Option (BitVec 32) :=
  match indexOf o x s e with
  | .ok (i, false) => some i
  | _ => none

/-- Whether an active element is the highest-indexed of its address. -/
def isWinner (o : T48) (x : VIn) (s : State) (e : Nat) : Bool :=
  match keyOf o x s e with
  | some k => !x.acts.any fun j => e < j && keyOf o x s j = some k
  | none => true

/-- `vstx.o` stores the highest-indexed active element of each address (R76, R218). -/
def winners (o : T48) (x : VIn) (s : State) : List Nat × State := (x.acts.filter (isWinner o x s), s)

/-- `vstx.u` stores every element, duplicates of an address in any order: one of them, freely chosen, last
(R76, R218). -/
def shuffled (o : T48) (x : VIn) (s : State) : List Nat × State :=
  let (l, moved, s) := x.acts.foldl (fun (l, moved, s) e =>
    if isWinner o x s e then
      let group := x.acts.filter fun j => keyOf o x s j = keyOf o x s e && (keyOf o x s e).isSome
      if group.length ≤ 1 then (l ++ [(e, e)], moved, s)
      else
        let (r, s) := s.drawNat
        let w := group.getD (r % group.length) e
        (l ++ [(e, w)], w :: moved, s)
    else (l ++ [(e, e)], moved, s)) (([] : List (Nat × Nat)), ([] : List Nat), s)
  (l.flatMap fun (e, w) =>
    if e ≠ w then (if moved.contains e then [w] else [e, w])
    else if moved.contains e && !isWinner o x s e then []
    else [e], s)

def execVstxO (o : T48) (s : State) : Out := vstoreOp .indexed 0x05 o (winners o) s
def execVstxU (o : T48) (s : State) : Out := vstoreOp .indexed 0x05 o (shuffled o) s

/-! `vgl` and `vsc` (R77, R219). -/

/-- The formats whose width is the SEW, with no conversion. -/
def exactLane (f : BitVec 6) (sb : Nat) : Bool :=
  if sb = 2 then f == 0x01#6 || f == 0x0A#6 || f == 0x0B#6
  else f == 0x00#6 || f == 0x08#6 || f == 0x09#6

def exactFormat (bits : Word) (o : T48) (s : State) (k : State → State) : State :=
  if exactLane o.fmt (vtySb (s.ctx s.hart).vty) then k s else s.illegal bits

/-- An aligned element at its home slice, or its fault: the cluster-local space has no home (R24), and memory of the host or a
peer none on this device, so that nothing there is linked (R425); an atomic is performed there (R433). `probe` only tests the
access of a conditional store (R363). -/
def homeElem (o : T48) (info : FaultInfo) (x : VIn) (acc : Access) (e : Nat) (s : State) :
    Except Ef (Xl × Option Nat) × State :=
  match elemAddr .indexed o info x s e with
  | .error b => (.error b, s)
  | .ok ba =>
    let va := bitVa ba
    if va.toNat % x.v.sb ≠ 0 then (.error (s.ef info (if acc.writes then 6 else 4, va)), s)
    else
      match badElem info (s.place va x.v.sb (x.v.loc e).1 acc) with
      | (.error b, s) => (.error b, s)
      | (.ok (.mem xl param), s) =>
        if onDevice xl.pa || acc == .amo then (.ok (xl, param), s)
        else (.error (s.ef info (if acc.writes then 7 else 5, (s.ctx x.v.hart).under va)), s)
      | (.ok (.sram _), s) => (.error (s.ef info (if acc.writes then 7 else 5, va)), s)
      | (.ok .zero, s) => (.ok ({ pa := 2 ^ 64, pois := false }, none), s)

/-- One element of `vgl`: it is read and its line linked at the home slice in one step (R84). DESIGN CHOICE (log 103): through a
PARAM window the value comes on the read-only path, any version since the binding (R27, R80), and the line is linked with it.
A PARAM element beyond its window reads zero and links nothing. -/
def linkElem (o : T48) (info : FaultInfo) (x : VIn) (e : Nat) (s : State) : Elem × State :=
  match homeElem o info x .load e s with
  | (.error b, s) => (.error b, s)
  | (.ok (xl, param), s) =>
    if xl.pa = 2 ^ 64 then (.ok (0, false), s)
    else
      let ((bs, p), s) := match param with
        | some since => s.readParam xl.pa x.v.sb since
        | none => s.readBypass xl x.v.sb
      let s := s.modCtx x.v.hart fun c => { c with links := if c.links.contains (xl.pa / 512) then c.links else xl.pa / 512 :: c.links }
      (.ok (BitVec.ofNat 32 (leNat bs), p || xl.pois), s)

def execVgl (o : T48) (s : State) : Out :=
  let bits := t48Bits (0x0C, 0x06) o
  let form : VForm := { vform (0x0C, 0x06) o (memUses .indexed o) false with load := true }
  ctStep s bits fun s => exactFormat bits o s fun s => vprep form s fun x s =>
    let info := accessInfo .indexed o false x s
    let (l, s) := eachElem (linkElem o info x) x.acts s
    loadCommit form x (l.map fun (e, r) => (e, x.taint s form.gm e r)) s

/-- The lines of some elements, ascending, each once. -/
def linesOf (l : List (Nat × Nat)) : List Nat := ((l.map (·.2 / 512)).eraseDups).mergeSort (· ≤ ·)

/-- One line of `vsc`, over the elements that remain when duplicates have merged: they succeed or fail together. A
reservation of the context on the line ends with its link (R151). -/
def scLine (o : T48) (x : VIn) (info : FaultInfo) (l : List (Nat × Nat)) (line : Nat)
    (r : List (Nat × Except Ef Bool) × State) : List (Nat × Except Ef Bool) × State :=
  let (out, s) := r
  let ok := (s.ctx x.v.hart).links.contains line
  let mine := l.filter (·.2 / 512 = line)
  let (out, s) := mine.foldl (fun (out, s) (e, _) =>
    match storeData o (elemInfo .indexed o info x s e) x s e with
    | .error b => ((e, .error b) :: out, s)
    | .ok y =>
      if !ok then ((e, .ok false) :: out, s)
      else match homeElem o info x .store e s with
        | (.error b, s) => ((e, .error b) :: out, s)
        | (.ok (xl, _), s) => ((e, .ok true) :: out, s.homeWrite s.writer xl.pa (fullBytes (natLe x.v.sb y.toNat)))) (out, s)
  (out, s.modCtx x.v.hart fun c => { c with
    links := c.links.filter (· ≠ line), resv := c.resv.filter fun r => r / 8 ≠ line })

/-- The element that stores for an active element: the highest-indexed of its address (R76, R219). -/
def winnerOf (o : T48) (x : VIn) (s : State) (e : Nat) : Nat :=
  match keyOf o x s e with
  | some k => ((x.acts.filter fun j => keyOf o x s j = some k).getLast?).getD e
  | none => e

/-- Duplicates merge as in `vstx.o`: one that merges into another is no access of its own, and reports with it. Addresses are
tested first: only an element that is written sets D (R363). -/
def execVsc (o : T48) (s : State) : Out :=
  let bits := t48Bits (0x0C, 0x07) o
  let form := { storeForm 0x07 o (memUses .indexed o) with extra := everyBit }
  ctStep s bits fun s => exactFormat bits o s fun s => vprep form s fun x s =>
    let info := accessInfo .indexed o true x s
    let win := x.acts.map fun e => (e, winnerOf o x s e)
    let (l, s) := eachElem (homeElem o info x .probe) (x.acts.filter (isWinner o x s)) s
    let good := l.filterMap fun (e, r) => match r with | .ok (xl, _) => some (e, xl.pa) | .error _ => none
    if good.any fun (_, pa) => !s.classEmpty pa then s.stall
    else
      let (out, s) := (linesOf good).foldl (fun r line => scLine o x info good line r) ([], s)
      let result (e : Nat) : Except Ef Bool :=
        match l.find? (·.1 = e) with
        | some (_, .error b) => .error b
        | _ => ((out.find? (·.1 = e)).map (·.2)).getD (.ok false)
      let wrote (e : Nat) : Bool := match win.find? (·.1 = e) with
        | some (_, w) => (match result w with | .ok b => b | .error _ => false)
        | none => false
      let bitsOf := if x.reissue then x.acts else List.range x.v.vlmax
      let s := bitsOf.foldl (fun s e => s.setMaskBit x.v 0 e (wrote e) false) s
      vcommit form x false (x.acts.map fun e =>
        (e, if (win.find? (·.1 = e)).any (·.2 = e) then (result e).map fun _ => (0, false) else .ok (0, false))) s

/-! `vcappend` (R220, R221). -/

/-- A precise access at n aligned bytes: the translation, or cause and trap value. -/
def State.precise (s : State) (va : Word) (n : Nat) (acc : Access) : Except (Nat × Word) Xl × State :=
  match reach (s.ctx s.hart) va n acc with
  | .sram => (.error (7, va), s)
  | .bad tv => (.error (25, tv), s)
  | .zero => (.error (25, va), s)
  | .va a _ =>
    match s.translate a acc with
    | (.error e, s) => (.error (scalarCause acc e, errVa a e), s)
    | (.ok x, s) => (.ok x, s)

/-- DEDUCED (log 104): `vcappend` tests the pages of its header and of its entries first, so that D is set on them only once
nothing can fail any more. -/
def preciseAll (acc : Access) (n : Nat) : List Word → State → Except (Nat × Word) (List Xl) × State
  | [], s => (.ok [], s)
  | a :: t, s => after (s.precise a n acc) fun x s => after (preciseAll acc n t s) fun l s => (.ok (x :: l), s)

/-- The effect of `vcappend` once its header is translated. DESIGN CHOICE (log 105): where HEAD is ahead of TAIL, t − h is taken
mod 2^64, and the queue is full. -/
def appendTo (o : T48) (x : VIn) (hx : Xl) (s : State) : State :=
  let va := s.rx o.a
  let word (k : Nat) : Word := BitVec.ofNat 64 (s.memNat (hx.pa + 8 * k) 8)
  let h := x.v.hart
  if s.memPoisoned hx.pa 32 || hx.pois then s.trap 26 va
  else
    let log := ((word 3).extractLsb' 0 5).toNat
    let base := word 2
    if (word 3).extractLsb' 5 59 ≠ 0#59 ∨ log < 4 ∨ 28 < log ∨ base.toNat % 4 ≠ 0 then s.trap 29 0
    else
      let t := word 0
      let count := (t - word 1).toNat
      let c := x.acts.length
      if 0 < c ∧ 2 ^ log < c + count then ((s.clearMf x.v).wx o.d allOnes').retire 6
      else
        let slots := (List.range c).map fun k => base + BitVec.ofNat 64 (4 * ((t.toNat + k) % 2 ^ log))
        match preciseAll .probe 4 slots s with
        | (.error (cause, tv), s) => s.trap cause tv
        | (.ok xs, s) =>
          if xs.any fun y => !s.classEmpty y.pa then s.stall
          else
          match after (s.precise va 32 .amo) fun _ s => preciseAll .store 4 slots s with
          | (.error (cause, tv), s) => s.trap cause tv
          | (.ok xs, s) =>
            let s := (xs.zip x.acts).foldl (fun s (y, e) =>
              s.homeWrite s.writer y.pa (fullBytes (natLe 4 ((x.v.base + e) % 2 ^ 32)))) s
            let s := s.homeWrite s.writer hx.pa (fullBytes (natLe 8 (t.toNat + c)))
            let s := if count < x.v.vlmax ∧ x.v.vlmax ≤ count + c then s.postEvent h 4 ((s.rx o.b).toNat % 2 ^ 24) else s
            ((s.clearMf x.v).wx o.d t).retire 6
where allOnes' : Word := 0xFFFFFFFFFFFFFFFF

/-- xD is a scalar, so a poisoned governing bit traps (R188). -/
def execVcappend (o : T48) (s : State) : Out :=
  let form : VForm :=
    { len := 6, bits := t48Bits (0x0C, 0x08) o, gm := o.gm.toNat, uses := [], dst := none, noStream := []
      load := false, align := [], extra := noExtra }
  vectorStep form s fun x s =>
    let va := s.rx o.a
    match x.acts.find? (s.governPois x.v o.gm.toNat) with
    | some e => s.trap 26 (BitVec.ofNat 64 e)
    | none =>
    if va.toNat % 32 ≠ 0 then s.trap 6 va
    else
      match s.precise va 32 .amoProbe with
      | (.error (cause, tv), s) => s.trap cause tv
      | (.ok hx, s) => if s.classEmpty hx.pa then appendTo o x hx s else s.stall

end Sys2Proof.Machine
end

