-- ==== Sys2Proof/Machine/Region.lean ====
section
/-! DEFINITION. REGION (R291 to R301): grid gathers and scatters, KV block pools. -/

namespace Sys2Proof.Machine
open Sys2Proof

/-! Accesses of a region instruction at the home slices (R84, R365). -/

/-- n bytes at a virtual address outside every aperture, each part translated. -/
def regionSpan (cause : Access → TErr → Nat) (acc : Access) (va : Word) :
    List (Nat × Nat) → State → Except Bad (List (Nat × Nat × Xl)) × State
  | [], s => (.ok [], s)
  | (o, k) :: t, s =>
    let a := va + BitVec.ofNat 64 o
    match s.translate a acc with
    | (.error e, s) => (.error (cause acc e, errVa a e), s)
    | (.ok x, s) => after (regionSpan cause acc va t s) fun l s => (.ok ((o, k, x) :: l), s)

abbrev Parts := List (Nat × Nat × Xl)

/-- Reads parts at their home slices for an update: each byte with its poison. -/
def State.updateParts (s : State) : Parts → List (Byte × Bool) × State
  | [] => ([], s)
  | (_, k, x) :: t =>
    let ((bs, p), s) := s.readUpdate x k
    let (l, s) := s.updateParts t
    (bs.map (·, p) ++ l, s)

/-- Loads parts at their home slices: each byte with its poison, checkpoints credited (R417). -/
def State.readParts (s : State) (ps : Parts) : List (Byte × Bool) × State :=
  let (l, s) := s.updateParts ps
  (l, ps.foldl (fun s (_, k, x) => s.credit x.pa k) s)

def State.writeParts (s : State) (p : Parts) (bs : List Byte) : State :=
  p.foldl (fun s (o, k, x) => s.homeWrite s.writer x.pa (fullBytes ((bs.drop o).take k))) s

def partsNat (l : List (Byte × Bool)) : Nat := leNat (l.map (·.1))
def partsPois (l : List (Byte × Bool)) : Bool := l.any (·.2)

/-! GRID (R292 to R295). -/

/-- A level of a bound GRID window: BASE plus OFFSET, and the shapes that a gather uses. -/
structure GridLevel where
  addr : Word
  n : Nat
  log : Nat
  dense : Bool
  dim : Nat
  feat : Nat
  bf : Bool

def GridLevel.e (g : GridLevel) : Nat := if g.bf then 2 else 4

/-- Whether two ranges of registers meet. -/
def regsMeet (a n b m : Nat) : Bool := a < b + m && b < a + n

/-- The level that xA selects, none in any of the cases that R292 lists. -/
def gridOf (c : Ctx) (xa : Word) (d b lmul : Nat) : Option GridLevel :=
  let w := c.win (xa.extractLsb' 40 4).toNat
  let l := (xa.extractLsb' 0 4).toNat
  let fe := gridFeat w.desc
  let di := gridDim w.desc
  if !isAperture xa ∨ !w.bound ∨ w.cls ≠ 2 ∨ xa.extractLsb' 4 36 ≠ 0#36 ∨ gridLevels w.desc ≤ l ∨
      32 < d + fe * lmul ∨ 32 < b + di * lmul ∨ regsMeet d (fe * lmul) b (di * lmul) then none
  else
    let v := w.levels.getD l (0, 0)
    some { addr := w.base + v.2, n := levelN v, log := levelLog v, dense := levelDense v, dim := di
           feat := fe, bf := gridBf16 w.desc }

def hashP : List Nat := [0x00000001, 0x8DA6B343, 0xD8163841, 0xCB1AB31F, 0x9E80C9C7, 0xE5B2C0D3, 0xA3F1B6E9, 0xF4A7C1B5]

/-- Index(ℓ, corner) (R292, R293). -/
def gridIndex (g : GridLevel) (corner : List Nat) : Nat :=
  if g.dense then corner.reverse.foldl (fun a c => c + g.n * a) 0
  else (corner.zip hashP).foldl (fun a (c, p) => a ^^^ (c * p % 2 ^ 32)) 0 % 2 ^ g.log

def xf32 (x : Xv) : Xv := fp32.decode (fp32.lane 1#3 x)

/-- A coordinate clamped to [0, 1]; NaN stays NaN (R292). -/
def clampCoord (x : BitVec 32) : Xv :=
  match fp32.decode x.toNat with
  | .nan => .nan
  | .inf neg => .fin false (if neg then 0 else 1) 1
  | .fin neg n d => if neg then .fin false 0 1 else if d < n then .fin false 1 1 else .fin false n d

/-- c_k and fr_k of a coordinate (R63 step 1). -/
def cellOf (g : GridLevel) (x : Xv) : Nat × Xv :=
  match xf32 (xmul x (.fin false (g.n - 1) 1)) with
  | .fin _ n d =>
    let c := Nat.min (n / d) (g.n - 2)
    (c, .fin false (n - c * d) d)
  | _ => (0, .fin false 0 1)

/-- A corner of a point: its table index and weight (R63 step 2). -/
def cornerOf (g : GridLevel) (cells : List (Nat × Xv)) (q : Nat) : Nat × Xv :=
  let ks := (List.range cells.length).zip cells
  (gridIndex g (ks.map fun (k, c, _) => c + q / 2 ^ k % 2),
   ks.foldl (fun w (k, _, f) =>
     xf32 (xmul w (if q / 2 ^ k % 2 = 1 then f else xf32 (xadd 1#3 (.fin false 1 1) (xneg f))))) (.fin false 1 1))

def GridLevel.entry (g : GridLevel) (idx : Nat) : Word := g.addr + BitVec.ofNat 64 (idx * g.feat * g.e)

/-- The value of a table element. -/
def GridLevel.value (g : GridLevel) (bits : Nat) : Xv := (if g.bf then bf16 else fp32).decode bits

/-- What a point's coordinates give: a fault of the element, NaN, or its corners. -/
inductive Point where
  | poisoned
  | nan
  | corners (l : List (Nat × Xv))

def pointOf (g : GridLevel) (coords : List (BitVec 32 × Bool)) : Point :=
  let xs := coords.map fun (x, _) => clampCoord x
  if coords.any (·.2) then .poisoned
  else if xs.contains .nan then .nan
  else .corners ((List.range (2 ^ g.dim)).map (cornerOf g (xs.map (cellOf g))))

/-- A failing entry reports the address of the entry, whichever part of it failed (R462). -/
def atEntry {α : Type} (va : Word) (r : Except Bad α × State) : Except Bad α × State :=
  match r with
  | (.error (cause, _), s) => (.error (cause, va), s)
  | r => r

/-- Reads the entries of every corner, the first failure ending the element. -/
def readEntries (g : GridLevel) : List (Nat × Xv) → State → Except Bad (List (Xv × List (Byte × Bool))) × State
  | [], s => (.ok [], s)
  | (idx, w) :: t, s =>
    let va := g.entry idx
    after (atEntry va (regionSpan elementCause .load va (wordsOf va (g.feat * g.e)) s)) fun ps s =>
      let (bs, s) := s.readParts ps
      after (readEntries g t s) fun l s => (.ok ((w, bs) :: l), s)

/-- Feature f of a point (R63 step 3), with the poison of the entries it uses. -/
def featureOf (g : GridLevel) (es : List (Xv × List (Byte × Bool))) (f : Nat) : BitVec 32 × Bool :=
  let part (bs : List (Byte × Bool)) : List (Byte × Bool) := (bs.drop (f * g.e)).take g.e
  let v := es.foldl (fun (acc : Nat) (w, bs) =>
    fp32.lane 1#3 (xadd 1#3 (fp32.decode acc) (xmul w (g.value (partsNat (part bs)))))) 0
  (BitVec.ofNat 32 v, es.any fun (_, bs) => partsPois (part bs))

/-- A grid access as a fault reports it (R366, R462): WIDTH is that of a table element where the window is a grid. -/
def gridInfo (c : Ctx) (wr : Bool) (xa : Word) : FaultInfo :=
  let w := c.win (xa.extractLsb' 40 4).toNat
  let narrow : Bool := isAperture xa && w.bound && w.cls = 2 && gridBf16 w.desc
  { count := 0, kind := 4, wr := wr, width := if narrow then 16 else 32, base := xa, stride := 0 }

/-- The register groups of an instruction: `n` groups from a first one, within the register file. -/
def groups (first n lmul : Nat) : List Nat := ((List.range n).map fun f => first + f * lmul).filter (· < 32)

/-- The form of gld and gsc: every group of coordinates and features. -/
def gridForm (op : BitVec 6) (o : T48) (s : State) : VForm :=
  let c := s.ctx s.hart
  let lmul := vtyLmul c.vty
  let w := c.win ((s.rx o.a).extractLsb' 40 4).toNat
  let known : Bool := isAperture (s.rx o.a) && w.bound && w.cls = 2
  let fs := groups o.d.toNat (if known then gridFeat w.desc else 1) lmul
  let ks := groups o.b.toNat (if known then gridDim w.desc else 1) lmul
  { len := 6, bits := t48Bits (0x14, op) o, gm := o.gm.toNat, uses := ks.map fun r => useEach r o.fb id, dst := none, noStream := fs ++ ks
    load := false, align := [o.d.toNat, o.b.toNat], extra := noExtra }

/-- Runs a grid instruction at SEW 32; k computes one element. -/
def gridStep (op : BitVec 6) (o : T48) (s : State)
    (k : VForm → VIn → Option GridLevel → FaultInfo → State → State) : Out :=
  ctStep s (t48Bits (0x14, op) o) fun s =>
    if vtySb (s.ctx s.hart).vty ≠ 4 then s.illegal (t48Bits (0x14, op) o)
    else
      let form := gridForm op o s
      vprep form s fun x s =>
        let g := gridOf (s.ctx x.v.hart) (s.rx o.a) o.d.toNat o.b.toNat x.v.lmul
        k form x g (gridInfo (s.ctx x.v.hart) (op = 0x01#6) (s.rx o.a)) s

def State.coords (s : State) (o : T48) (x : VIn) (g : GridLevel) (e : Nat) : List (BitVec 32 × Bool) :=
  (List.range g.dim).map fun k => s.elem x.v (o.b.toNat + k * x.v.lmul) e

def weighs : Xv → Bool
  | .fin _ 0 _ => false
  | _ => true

/-- The report of a grid element: the pages of its corners' entries, which it has whatever is poisoned; of gsc those of
nonzero weight (R462). -/
def gridElemInfo (g : GridLevel) (info : FaultInfo) (coords : List (BitVec 32 × Bool)) : FaultInfo :=
  { info with pages := match pointOf g (coords.map fun (x, _) => (x, false)) with
      | .corners cs => (cs.filter fun (_, w) => !info.wr || weighs w).map fun (idx, _) => (g.entry idx).toNat / 65536
      | _ => [] }

def gldElem (o : T48) (x : VIn) (g : Option GridLevel) (info : FaultInfo) (e : Nat) (s : State) :
    Except Ef (List (BitVec 32 × Bool)) × State :=
  match g with
  | none => (.error (s.ef info (25, (s.ctx s.hart).under (s.rx o.a))), s)
  | some g =>
    let info := gridElemInfo g info (s.coords o x g e)
    match pointOf g (s.coords o x g e) with
    | .poisoned => (.error (s.ef info (26, BitVec.ofNat 64 e)), s)
    | .nan => (.ok (List.replicate g.feat (0x7FC00000#32, false)), s)
    | .corners cs =>
      match readEntries g cs s with
      | (.error b, s) => (.error (s.ef info b), s)
      | (.ok es, s) => (.ok ((List.range g.feat).map (featureOf g es)), s)

def execGld (o : T48) (s : State) : Out :=
  gridStep 0x00 o s fun form x g info s =>
    let (l, s) := eachElem (gldElem o x g info) x.acts s
    let ok := l.filterMap fun (e, r) => match r with | .ok fs => some (e, fs) | .error _ => none
    let feat := (g.map (·.feat)).getD 0
    let s := (List.range feat).foldl (fun s f =>
      s.putElems x.v (o.d.toNat + f * x.v.lmul) ((ok.map fun (e, fs) =>
        let (y, p) := fs.getD f (0, false)
        (e, y, p || s.governPois x.v form.gm e)) ++ x.zeroed.map fun e => (e, 0, false))) s
    let skips := (s.ctx x.v.hart).skips
    let failed := l.any fun (_, r) => match r with | .ok _ => false | .error b => !(skips && b.cause = 26)
    let s := if !ok.isEmpty || !failed then s.modCtx x.v.hart fun c => { c with ldst := o.d } else s
    let s := if failed then s
      else (List.range feat).foldl (fun s f => s.issueLoad x.v.hart x.v.lmul (o.d.toNat + f * x.v.lmul) s.pc) s
    vcommit form x false (l.map fun (e, r) => (e, r.map fun _ => (0, false))) s

/-- The targets of an element of gsc: its corners of nonzero weight with their translated entries. -/
def gscTargets (g : GridLevel) (acc : Access) : List (Nat × Xv) → State → Except Bad (List (Xv × Parts)) × State
  | [], s => (.ok [], s)
  | (idx, w) :: t, s =>
    let va := g.entry idx
    after (atEntry va (regionSpan elementCause acc va (wordsOf va (g.feat * g.e)) s)) fun ps s =>
      after (gscTargets g acc t s) fun l s => (.ok ((w, ps) :: l), s)

/-- The corners that an element of gsc updates. -/
def cornersHit (g : GridLevel) (coords : List (BitVec 32 × Bool)) : List (Nat × Xv) :=
  match pointOf g coords with
  | .corners cs => cs.filter fun (_, w) => weighs w
  | _ => []

def gradients (o : T48) (x : VIn) (g : GridLevel) (e : Nat) (s : State) : List (BitVec 32 × Bool) :=
  (List.range g.feat).map fun f => s.elem x.v (o.d.toNat + f * x.v.lmul) e

/-- An element of gsc up to its translations, which set no D yet (R363). -/
def gscElem (o : T48) (x : VIn) (g : Option GridLevel) (info : FaultInfo) (e : Nat) (s : State) :
    Except Ef (List (Xv × Parts)) × State :=
  match g with
  | none => (.error (s.ef info (25, (s.ctx s.hart).under (s.rx o.a))), s)
  | some g =>
    let info := gridElemInfo g info (s.coords o x g e)
    match pointOf g (s.coords o x g e) with
    | .poisoned => (.error (s.ef info (26, BitVec.ofNat 64 e)), s)
    | .nan => (.ok [], s)
    | .corners cs =>
      if (gradients o x g e s).any (·.2) || s.governPois x.v o.gm.toNat e then
        (.error (s.ef info (26, BitVec.ofNat 64 e)), s)
      else
        badElem info (gscTargets g .amoProbe (cs.filter fun (_, w) => weighs w) s)

/-- Applies the updates of one element, corner by corner, or none where an old value is poisoned. -/
def gscApply (o : T48) (x : VIn) (g : GridLevel) (info : FaultInfo) (e : Nat) (ts : List (Xv × Parts)) (s : State) :
    Except Ef Unit × State :=
  if ts.any fun (_, ps) => ps.any fun (_, k, xl) => xl.pois || s.memPoisoned xl.pa k then
    (.error (s.ef (gridElemInfo g info (s.coords o x g e)) (26, BitVec.ofNat 64 e)), s)
  else
    let gs := gradients o x g e s
    match badElem info (gscTargets g .amo (cornersHit g (s.coords o x g e)) s) with
    | (.error b, s) => (.error b, s)
    | (.ok ts, s) => (.ok (), ts.foldl (fun s (w, ps) =>
      let (old, s) := s.updateParts ps
      let new := (List.range g.feat).flatMap fun f =>
        let t := g.value (partsNat ((old.drop (f * g.e)).take g.e))
        let p := xmul w (fp32.decode (gs.getD f (0, false)).1.toNat)
        natLe g.e ((if g.bf then bf16 else fp32).lane 1#3 (xadd 1#3 t p))
      s.writeParts ps new) s)

def execGsc (o : T48) (s : State) : Out :=
  gridStep 0x01 o s fun form x g info s =>
    let (l, s) := eachElem (gscElem o x g info) x.acts s
    let good := l.filterMap fun (e, r) => match r with | .ok ts => some (e, ts) | .error _ => none
    if good.any fun (_, ts) => ts.any fun (_, ps) => ps.any fun (_, _, xl) => !s.classEmpty xl.pa then s.stall
    else
      let (done, s) := match g with
        | some g => good.foldl (fun (out, s) (e, ts) =>
            let (r, s) := gscApply o x g info e ts s
            ((e, r) :: out, s)) (([] : List (Nat × Except Ef Unit)), s)
        | none => ([], s)
      let result (e : Nat) : Except Ef Unit :=
        match l.find? (·.1 = e) with
        | some (_, .error b) => .error b
        | _ => ((done.find? (·.1 = e)).map (·.2)).getD (.ok ())
      vcommit form x false (x.acts.map fun e => (e, (result e).map fun _ => (0, false))) s

/-! KV block pools (R296 to R301). -/

structure Kv where
  base : Word
  size : Nat
  log : Nat
  btab : Word
  btn : Nat
  rcnt : Word
  free : Word

/-- The pool of a bound KVB window, and the offset in it that xA gives. -/
def kvOf (c : Ctx) (xa : Word) : Option (Kv × Nat) :=
  let w := c.win (xa.extractLsb' 40 4).toNat
  let d (k : Nat) : Word := w.desc.getD k 0
  if !isAperture xa ∨ !w.bound ∨ w.cls ≠ 3 then none
  else some ({ base := d 0, size := w.size, log := ((d 2).extractLsb' 0 5).toNat, btab := d 3
               btn := ((d 4).extractLsb' 0 32).toNat, rcnt := d 5, free := d 6 }, (xa.extractLsb' 0 40).toNat)

def noBlock : Nat := 0xFFFFFF
def Kv.entry (k : Kv) (e : Nat) : Word := k.btab + BitVec.ofNat 64 (4 * e)
def Kv.count (k : Kv) (b : Nat) : Word := k.rcnt + BitVec.ofNat 64 (2 * b)
def Kv.block (k : Kv) (b : Nat) : Word := k.base + BitVec.ofNat 64 (b * 2 ^ k.log)
def Kv.fits (k : Kv) (b : Nat) : Bool := (b + 1) * 2 ^ k.log ≤ k.size

def descBlk (d : Nat) : Nat := d % 2 ^ 24
def descTier (d : Nat) : Nat := d / 2 ^ 24 % 2
def descLock (d : Nat) : Bool := d / 2 ^ 25 % 2 = 1
/-- A descriptor changed by hardware: VER + 1, MLOCK clear (R296). -/
def descNext (old tier blk : Nat) : Nat := (old / 2 ^ 26 + 1) % 64 * 2 ^ 26 + tier * 2 ^ 24 + blk

/-- n bytes of a pool structure, read alone or for an update; a poisoned word is cause 26. -/
def kvRead (cause : Access → TErr → Nat) (acc : Access) (va : Word) (n : Nat) (s : State) : Except Bad (Nat × Parts) × State :=
  after (regionSpan cause acc va [(0, n)] s) fun ps s =>
    let (bs, s) := s.updateParts ps
    if partsPois bs then (.error (26, va), s) else (.ok (partsNat bs, ps), s)

def kvWrite (n v : Nat) (ps : Parts) (s : State) : State := s.writeParts ps (natLe n v)

/-- The free ring's header (R296). -/
structure Ring where
  head : Nat
  tail : Nat
  ring : Word
  w3 : Nat
  at' : Parts
def Ring.cap (r : Ring) : Nat := 2 ^ (r.w3 % 32)

def kvRing (cause : Access → TErr → Nat) (k : Kv) (s : State) : Except Bad Ring × State :=
  after (kvRead cause .amo k.free 32 s) fun (v, ps) s =>
    (.ok { head := v % 2 ^ 64, tail := v / 2 ^ 64 % 2 ^ 64, ring := BitVec.ofNat 64 (v / 2 ^ 128), w3 := v / 2 ^ 192, at' := ps }, s)

def Ring.write (r : Ring) (s : State) : State :=
  kvWrite 32 (r.head + 2 ^ 64 * r.tail + 2 ^ 128 * r.ring.toNat + 2 ^ 192 * r.w3) r.at' s

/-- Pops a block, none where the ring is empty. -/
def kvPop (cause : Access → TErr → Nat) (k : Kv) (s : State) : Except Bad (Option Nat) × State :=
  after (kvRing cause k s) fun r s =>
    if r.head = r.tail then (.ok none, s)
    else
      after (kvRead cause .load (r.ring + BitVec.ofNat 64 (4 * (r.head % r.cap))) 4 s) fun (v, _) s =>
        (.ok (some (v % 2 ^ 24)), { r with head := (r.head + 1) % 2 ^ 64 }.write s)

/-- Pushes a block; a full ring sets OVF instead. -/
def kvPush (cause : Access → TErr → Nat) (k : Kv) (b : Nat) (s : State) : Except Bad Unit × State :=
  after (kvRing cause k s) fun r s =>
    if r.cap ≤ (r.tail + 2 ^ 64 - r.head) % 2 ^ 64 then
      (.ok (), { r with w3 := if r.w3 / 2 ^ 63 % 2 = 1 then r.w3 else r.w3 + 2 ^ 63 }.write s)
    else
      after (regionSpan cause .store (r.ring + BitVec.ofNat 64 (4 * (r.tail % r.cap))) [(0, 4)] s) fun ps s =>
        (.ok (), { r with tail := (r.tail + 1) % 2 ^ 64 }.write (kvWrite 4 b ps s))

/-- Takes one reference off a block, pushing it at zero. -/
def kvDrop (cause : Access → TErr → Nat) (k : Kv) (b : Nat) (s : State) : Except Bad Unit × State :=
  after (kvRead cause .amo (k.count b) 2 s) fun (n, ps) s =>
    let m := (n + 65535) % 65536
    let s := kvWrite 2 m ps s
    if m = 0 then kvPush cause k b s else (.ok (), s)

/-- Copies parts with their poison, one 4-byte word at a time. -/
def copyParts (src dst : Parts) (s : State) : State :=
  (src.zip dst).foldl (fun s ((_, n, a), (_, _, b)) =>
    let bad := a.pois || s.memPoisoned a.pa n
    let s := s.homeWrite s.writer b.pa (fullBytes (s.memBytes a.pa n))
    if bad then s.setPois b.pa n true else s) s

/-- The words of a block, which is 64 B aligned. -/
def Kv.words (k : Kv) (b : Nat) : List (Nat × Nat) := wordsOf (k.block b) (2 ^ k.log)

/-- Where the LPDDR tier lies (R406, R408). -/
def tierOf (pa : Nat) : Nat := if 0x20000000000 ≤ pa ∧ pa < 0x40000000000 then 1 else 0

/-- The block that entry e's elements go to: copied or allocated first where that is needed (R299). -/
def kvTarget (k : Kv) (e : Nat) (s : State) : Except Bad Nat × State :=
  after (kvRead elementCause .load (k.entry e) 4 s) fun (d, _) s =>
    let old := descBlk d
    let take (s : State) : Except Bad Nat × State :=
      after (kvPop elementCause k s) fun r s =>
        match r with
        | none => (.error (32, k.entry e), s)
        | some n =>
          if !k.fits n then (.error (25, k.block n), s)
          else
            after (regionSpan elementCause .store (k.block n) (k.words n) s) fun dst s =>
              after (if old = noBlock then (.ok [], s)
                  else regionSpan elementCause .load (k.block old) (k.words old) s) fun src s =>
                after (regionSpan elementCause .store (k.count n) [(0, 2)] s) fun cps s =>
                after (kvRead elementCause .amo (k.entry e) 4 s) fun (_, dps) s =>
                  let s := kvWrite 2 1 cps (copyParts src dst s)
                  let tier := tierOf ((dst.head?.map (·.2.2.pa)).getD 0)
                  let s := kvWrite 4 (descNext d tier n) dps s
                  after (if old = noBlock then (.ok (), s) else kvDrop elementCause k old s) fun _ s => (.ok n, s)
    if old = noBlock then take s
    else if !k.fits old then (.error (25, k.block old), s)
    else after (kvRead elementCause .load (k.count old) 2 s) fun (r, _) s => if r ≤ 1 then (.ok old, s) else take s

def kvInfo (x : VIn) (wr : Bool) (xa : Word) : FaultInfo :=
  { count := 0, kind := 5, wr := wr, width := x.v.bits, base := xa, stride := 0 }

/-- The entry and the byte within its block of an element (R297). -/
def kvLocate (o : T48) (x : VIn) (info : FaultInfo) (wr : Bool) (s : State) (e : Nat) : Except Ef (Kv × Nat × Nat) :=
  let xa := s.rx o.a
  match kvOf (s.ctx x.v.hart) xa with
  | none => .error (s.ef info (25, (s.ctx x.v.hart).under xa))
  | some (k, off) =>
    let (i, p) := s.elem x.v o.b.toNat e
    let l := off + i.toNat
    let va := k.base + BitVec.ofNat 64 l
    if p then .error (s.ef info (26, BitVec.ofNat 64 e))
    else if k.btn ≤ l / 2 ^ k.log then .error (s.ef info (25, va))
    else if l % x.v.sb ≠ 0 then .error (s.ef info (if wr then 6 else 4, va))
    else .ok (k, l / 2 ^ k.log, l % 2 ^ k.log)

def kvForm (op : BitVec 6) (o : T48) (dst : Bool) : VForm :=
  { len := 6, bits := t48Bits (0x14, op) o, gm := o.gm.toNat, uses := useEach o.b.toNat o.fb id :: (if dst then [] else [useD o])
    dst := if dst then some o.d.toNat else none, noStream := [o.d.toNat, o.b.toNat], load := false
    align := [o.d.toNat, o.b.toNat], extra := noExtra }

def kvldElem (o : T48) (x : VIn) (info : FaultInfo) (e : Nat) (s : State) : Elem × State :=
  match kvLocate o x info false s e with
  | .error b => (.error b, s)
  | .ok (k, en, off) =>
    badElem info (after (regionSpan elementCause .load (k.entry en) [(0, 4)] s) fun ps s =>
      let (d, s) := s.readParts ps
      let blk := descBlk (partsNat d)
      if partsPois d then (.ok (0, true), s)
      else if blk = noBlock then (.ok (0, false), s)
      else if !k.fits blk then (.error (25, k.block blk), s)
      else
        let va := k.block blk + BitVec.ofNat 64 off
        after (regionSpan elementCause .load va (chunks x.v.sb va x.v.sb x.v.sb 0) s) fun ps s =>
          let (bs, s) := s.readParts ps
          (.ok (BitVec.ofNat 32 (partsNat bs), partsPois bs), s))

def execKvld (o : T48) (s : State) : Out :=
  let form := kvForm 0x02 o true
  vectorStep form s fun x s =>
    let info := kvInfo x false (s.rx o.a)
    let (l, s) := eachElem (kvldElem o x info) x.acts s
    loadCommit form x (l.map fun (e, r) => (e, x.taint s form.gm e r)) s

/-- An element of kvst that is ready to be stored: its index, entry, byte and data. -/
structure KvElem where
  e : Nat
  entry : Nat
  off : Nat
  data : BitVec 32

/-- The element's place and data; poisoned data is removed first (R299). -/
def kvstElem (o : T48) (x : VIn) (info : FaultInfo) (e : Nat) (s : State) : Except Ef KvElem × State :=
  match kvLocate o x info true s e with
  | .error b => (.error b, s)
  | .ok (_, en, off) =>
    let (y, p) := s.elem x.v o.d.toNat e
    if p || s.governPois x.v o.gm.toNat e then (.error (s.ef info (26, BitVec.ofNat 64 e)), s)
    else (.ok { e := e, entry := en, off := off, data := y }, s)

/-- Translates the stores of an entry's elements. -/
def kvPlaces (k : Kv) (blk n : Nat) : List KvElem → State → Except Bad (List Parts) × State
  | [], s => (.ok [], s)
  | t :: l, s =>
    let va := k.block blk + BitVec.ofNat 64 t.off
    after (regionSpan elementCause .store va (chunks n va n n 0) s) fun ps s =>
      after (kvPlaces k blk n l s) fun r s => (.ok (ps :: r), s)

/-- One entry of kvst; a failure leaves everything as it was. -/
def kvEntry (k : Kv) (n en : Nat) (els : List KvElem) (s : State) : Except Bad Unit × State :=
  match after (kvTarget k en s) fun blk s => kvPlaces k blk n els s with
  | (.error b, _) => (.error b, s)
  | (.ok ps, s) =>
    (.ok (), (els.zip ps).foldl (fun s (t, p) =>
      if els.any fun u => t.e < u.e && u.off = t.off then s
      else p.foldl (fun s (i, m, x) => s.enqueue x.pa (fullBytes (((natLe n t.data.toNat).drop i).take m))) s) s)

/-- Whether the migration engine holds an entry's descriptor (R299). -/
def kvLocked (k : Kv) (en : Nat) (s : State) : Bool :=
  match (regionSpan elementCause .load (k.entry en) [(0, 4)] s).1 with
  | .ok ps => descLock (partsNat ((s.updateParts ps).1))
  | .error _ => false

def execKvst (o : T48) (s : State) : Out :=
  let form := kvForm 0x03 o false
  vectorStep form s fun x s =>
    if !s.drained then s.stall
    else
      let info := kvInfo x true (s.rx o.a)
      let (l, s) := eachElem (kvstElem o x info) x.acts s
      let els := l.filterMap fun (_, r) => match r with | .ok t => some t | .error _ => none
      let ens := ((els.map (·.entry)).eraseDups).mergeSort (· ≤ ·)
      match kvOf (s.ctx x.v.hart) (s.rx o.a) with
      | none => vcommit form x false (l.map fun (e, r) => (e, r.map fun _ => (0, false))) s
      | some (k, _) =>
        if ens.any fun en => kvLocked k en s then s.stall
        else
          let (out, s) : List (Nat × Except Bad Unit) × State := ens.foldl (fun (out, s) en =>
            let (r, s) := kvEntry k x.v.sb en (els.filter (·.entry = en)) s
            ((en, r) :: out, s)) ([], s)
          let result (e : Nat) (r : Except Ef KvElem) : Elem :=
            match r with
            | .error b => .error b
            | .ok t =>
              match out.find? (·.1 = t.entry) with
              | some (_, .error b) => .error (s.ef info (if b.1 = 26 then (26, BitVec.ofNat 64 e) else b))
              | _ => .ok (0, false)
          vcommit form x false (l.map fun (e, r) => (e, result e r)) s

/-- One copied entry of kvfork: the source's descriptor is only read (R300: cause 13), the rest is updated (15). -/
def forkEntry (k : Kv) (src dst j : Nat) (s : State) : Except Bad Unit × State :=
  after (kvRead scalarCause .load (k.entry (src + j)) 4 s) fun (d, _) s =>
    after (if descBlk d = noBlock then (.ok (), s)
      else
        after (kvRead scalarCause .amo (k.count (descBlk d)) 2 s) fun (n, ps) s =>
          if n = 0xFFFF then (.error (32, BitVec.ofNat 64 j), s) else (.ok (), kvWrite 2 (n + 1) ps s)) fun _ s =>
      after (kvRead scalarCause .amo (k.entry (dst + j)) 4 s) fun (o, ps) s =>
        let s := kvWrite 4 (descNext o (descTier d) (descBlk d)) ps s
        if descBlk o = noBlock then (.ok (), s) else kvDrop scalarCause k (descBlk o) s

def forkAll (k : Kv) (src dst : Nat) : List Nat → State → Except Bad Unit × State
  | [], s => (.ok (), s)
  | j :: t, s => after (forkEntry k src dst j s) fun _ s => forkAll k src dst t s

def execKvfork (o : T48) (s : State) : Out :=
  ctStep s (t48Bits (0x14, 0x04) o) fun s =>
    if vtyVill (s.ctx s.hart).vty then s.illegal (t48Bits (0x14, 0x04) o)
    else
    let c := (s.rx o.d).toNat
    let xa := s.rx o.a
    let src := ((s.rx o.b).extractLsb' 0 32).toNat
    let dst := ((s.rx o.b).extractLsb' 32 32).toNat
    match kvOf (s.ctx s.hart) xa with
    | none => s.trap 25 ((s.ctx s.hart).under xa)
    | some (k, off) =>
      if off ≠ 0 ∨ c = 0 ∨ 64 < c ∨ regsMeet src c dst c ∨ k.btn < src + c ∨ k.btn < dst + c then
        s.trap 25 ((s.ctx s.hart).under xa)
      else if !s.drained ∨ (List.range c).any (fun j => kvLocked k (src + j) s) then s.stall
      else
        match forkAll k src dst (List.range c) s with
        | (.error (cause, tv), _) => s.trap cause tv
        | (.ok (), s) => s.retire 6

end Sys2Proof.Machine
end

