-- ==== Sys2Proof/Machine/Migrate.lean ====
section
/-! DEFINITION. The migration engine (R410 to R415). A command in hand goes on in stages (log 72): it arms the filter and copies,
it recopies what the filter holds, a KV command locks its entries, and it swaps. -/

namespace Sys2Proof.Machine
open Sys2Proof

structure MigRing where
  at' : Nat
  tail : Nat
  head : Nat
  ring : Nat
  cap : Nat

/-- The ring, where its header is in form (R410). -/
def State.migHeader (s : State) : Option MigRing :=
  let at' := s.plat.migring.toNat
  let w := (s.physWord (at' + 0x18)).toNat
  let ring := (s.physWord (at' + 0x10)).toNat
  if at' % 32 ≠ 0 ∨ w < 3 ∨ 12 < w ∨ ring % 64 ≠ 0 then none
  else some { at' := at', tail := (s.physWord at').toNat, head := (s.physWord (at' + 8)).toNat, ring := ring, cap := 2 ^ w }

/-- A doorbell submits the records from HEAD to TAIL that are not in hand. -/
def execMigrationDoorbell (v : BitVec 64) (s : State) : Out :=
  let _ := v
  .next (match s.migHeader with
    | some r =>
      if !s.running then s
      else
        let l := ((List.range (Nat.min r.cap (r.tail - r.head))).map (r.head + ·)).filter fun i =>
          !s.plat.migJobs.contains i && !s.plat.migDone.contains i
        { s with plat := { s.plat with migJobs := s.plat.migJobs ++ l } }
    | none => s)

/-- A command record (R411). -/
structure MigRec where
  at' : Nat
  kind : Nat
  job : Nat
  src : Word
  dest : Word
  list : Word
  count : Nat
  ok : Bool

def State.migRecord (s : State) (r : MigRing) (i : Nat) : MigRec :=
  let at' := r.ring + 64 * (i % r.cap)
  let w (k : Nat) : Word := s.physWord (at' + 8 * k)
  let kind := ((w 0).extractLsb' 56 8).toNat
  let count := (w 4).toNat
  let form : Bool := if kind = 1 then
      (w 1).toNat % 65536 = 0 && (w 2) &&& 0xFFF000000000FFFF = 0 && w 3 = 0 && count = 0
    else kind = 2 && (w 1).toNat % 64 = 0 && (w 2).extractLsb' 48 16 = 0#16 && (w 3).toNat % 4 = 0 && 1 ≤ count && count ≤ 64
  { at' := at', kind := kind, job := ((w 0).extractLsb' 0 16).toNat, src := w 1, dest := w 2, list := w 3, count := count
    ok := form && (w 0).extractLsb' 48 8 = 0xFF#8 && (w 0).extractLsb' 16 24 = 0#24 && w 6 = 0 && w 7 = 0 &&
      (s.job ((w 0).extractLsb' 0 16).toNat).state = 1 }

/-- HEAD passes the finished records. -/
def migHeadGo (at' : Nat) : Nat → State → State
  | 0, s => s
  | n + 1, s =>
    let head := (s.physWord (at' + 8)).toNat
    if s.plat.migDone.contains head then
      migHeadGo at' n ({ s with plat := { s.plat with migDone := s.plat.migDone.filter (· ≠ head) } }.physPut (at' + 8)
        (BitVec.ofNat 64 (head + 1)))
    else s

/-- A command finishes with a status (R415). -/
def State.migFinish (s : State) (r : MigRing) (i : Nat) (m : MigRec) (status rounds : Nat) (bad : Option Word) : State :=
  let w := (s.physWord m.at').toNat
  let s := match bad with
    | some va => s.physPut (m.at' + 0x30) va
    | none => s
  let s := s.physPut (m.at' + 0x28) s.time
  let s := s.physPut m.at' (BitVec.ofNat 64 (w / 2 ^ 56 * 2 ^ 56 + status * 2 ^ 48 + rounds * 2 ^ 40 + w % 2 ^ 40))
  let s := { s with
    migs := s.migs.filter (·.index ≠ i)
    plat := { s.plat with migJobs := s.plat.migJobs.filter (· ≠ i), migDone := s.plat.migDone ++ [i] } }
  migHeadGo r.at' s.plat.migDone.length s

/-- How a command ends: at a status, with the failing address of a FAULT. -/
abbrev MigEnd := Nat × Option Word

/-! What both kinds use. -/

/-- Whether the part that holds an address has failed. -/
def State.deadAt (s : State) (pa : Nat) : Bool := pa < 0x40000000000 && s.plat.deadStacks.contains (memOf pa)

/-- Whether an address cannot be read: its part has failed, or its extent was released (R431). -/
def State.unreadable (s : State) (pa : Nat) : Bool := s.deadAt pa || !s.installed pa

/-- Copies a sector with its poison, crediting its read (R417). One that cannot be read is poisoned at the destination and
logged (R415); a destination that has gone takes nothing. -/
def State.copySector (s : State) (src dst : Nat) : State :=
  let gone := s.unreadable src
  let s := s.credit src 64
  let pois := (List.range 16).map fun k => gone || s.memPoisoned (src + 4 * k) 4
  let s := if pois.any id ∧ s.installed src then s.countError (memOf src) true 1 else s
  let s := if gone then s.logError src 2 4 (memOf src) else s
  if !s.installed dst then s
  else
    let s := s.homeWrite .other dst (fullBytes (s.memBytes src 64))
    ((List.range 16).zip pois).foldl (fun (s : State) (k, p) => if p then s.setPois (dst + 4 * k) 4 true else s) s

/-- Whether a store to n bytes at pa waits in a class queue. -/
def State.queuedIn (s : State) (pa n : Nat) : Bool :=
  let hit (q : List Pending) : Bool := q.any fun p => p.pa < pa + n && pa < p.pa + p.bytes.length
  s.ctxs.any (fun p => hit p.2.queue) || s.mss.any (fun p => hit p.2.queue) || s.mts.any fun p => hit p.2.queue

/-- Copies in every cache-way bank of the n bytes at pa go. -/
def State.dropRange (s : State) (pa n : Nat) : State :=
  { s with ways := s.ways.filter fun e =>
      let a := e.1 % 2 ^ 46 * 64
      !(a < pa + n && pa < a + 64) }

/-! Commands under way. -/

def State.mig? (s : State) (i : Nat) : Option MigRun := s.migs.find? (·.index = i)
def State.setMig (s : State) (r : MigRun) : State := { s with migs := r :: s.migs.filter (·.index ≠ r.index) }

/-- Where a byte of the source goes. -/
def MigRun.dest (r : MigRun) (a : Nat) : Nat :=
  match r.spans.find? fun (x, _, n) => x ≤ a && a < x + n with
  | some (x, y, _) => y + (a - x)
  | none => a

/-- Copies source sectors, given by address / 64. -/
def State.copySectors (s : State) (r : MigRun) (l : List Nat) : State :=
  l.foldl (fun (s : State) k => s.copySector (64 * k) (r.dest (64 * k))) s

/-- A part that holds some of the source or of the destination has failed. -/
def State.lostSpan (s : State) (r : MigRun) : Bool :=
  r.spans.any fun (x, y, n) => (List.range (n / 64)).any fun k => s.deadAt (x + 64 * k) || s.deadAt (y + 64 * k)

/-- Arms the filter and copies every sector. -/
def State.startMig (s : State) (r : MigRun) : Option MigEnd × State :=
  if s.lostSpan r then (some (5, none), s)
  else (none, (s.setMig r).copySectors r (r.spans.flatMap fun (x, _, n) => (List.range (n / 64)).map (x / 64 + ·)))

/-- One recopy round; after three the command is abandoned. -/
def State.recopy (s : State) (r : MigRun) : Option MigEnd × State :=
  if r.rounds = 3 then (some (1, none), s)
  else (none, (s.setMig { r with dirty := [], rounds := r.rounds + 1 }).copySectors r r.dirty)

/-- Stores to the source that wait in a class queue: the shootdown of a page and the wait of a KV command are for them. -/
def State.sourceWaits (s : State) (r : MigRun) : Bool := r.spans.any fun (x, _, n) => s.queuedIn x n

/-! A page command (R412). -/

/-- TIER of a leaf for its page: 1 HBM, 2 the LPDDR tier, 0 an extent (R408, R430). -/
def leafTier (pa : Nat) : Nat := if pa < 0x8000000000 then 1 else if 0x100000000000 ≤ pa then 0 else 2

/-- The next stage of a page command: how it ends, if it ends. -/
def State.migratePage (s : State) (m : MigRec) (i : Nat) : Option MigEnd × State :=
  match s.mig? i with
  | none =>
    let sp := s.hubSpace m.job
    let dst := m.dest.toNat
    if !canonicalVa m.src then (some (4, some m.src), s)
    else match walk s sp m.src false with
    | (.error _, s) => (some (4, some m.src), s)
    | (.ok l, s) =>
      let src := leafPa l m.src
      if l.level ≠ 3 ∨ l.pte.getLsbD 5 ∨ l.pte.getLsbD 63 ∨ !s.installed dst ∨ !onDevice dst ∨ dst = src then (some (3, none), s)
      else if !permits l.pte true .load ∨ !s.installed src ∨ !onDevice src then (some (4, some m.src), s)
      else s.startMig { index := i, spans := [(src, dst, 65536)], leaf := (l.addr, l.pte) }
  | some r =>
    let src := (r.spans.headD (0, 0, 0)).1
    let dst := m.dest.toNat
    let now := s.physWord r.leaf.1
    if s.lostSpan r then (some (5, none), s)
    else if !r.dirty.isEmpty then s.recopy r
    else if (now ^^^ r.leaf.2) &&& ~~~0xC0#64 ≠ 0 then (some (2, none), s)
    else if s.sourceWaits r then (none, s)
    else
      let pte := (now &&& 0xF3F000000000FFFF) ||| BitVec.ofNat 64 (leafTier dst * 2 ^ 58 + dst)
      let s := (s.physPut r.leaf.1 pte).shootAll m.job (some m.src)
      let s := (s.dropRange src 65536).dropRange dst 65536
      (some (0, none), { s with ctxs := clearLinks s.ctxs none src 65536 })

/-! A KV command (R413). -/

/-- A word of n bytes of the pool's structures: its value and physical address, or the failing address. -/
def State.migRead (s : State) (j : Nat) (acc : Access) (va : Word) (n : Nat) : Except Word (Nat × Nat) × State :=
  match s.translateIn (s.hubSpace j) va acc with
  | (.error _, s) => (.error va, s)
  | (.ok x, s) => (if s.memPoisoned x.pa n then .error va else .ok (s.memNat x.pa n, x.pa), s)

def State.migReads (s : State) (j : Nat) (acc : Access) (n : Nat) : List Word → Except Word (List (Nat × Nat)) × State
  | [] => (.ok [], s)
  | va :: t => after (s.migRead j acc va n) fun x s => after (s.migReads j acc n t) fun l s => (.ok (x :: l), s)

/-- The physical addresses of virtual ones. -/
def State.migPlaces (s : State) (j : Nat) (acc : Access) : List Word → Except Word (List Nat) × State
  | [] => (.ok [], s)
  | va :: t =>
    match s.translateIn (s.hubSpace j) va acc with
    | (.error _, s) => (.error va, s)
    | (.ok x, s) => after (s.migPlaces j acc t) fun l s => (.ok (x.pa :: l), s)

def kvOfDesc (d : List Word) : Kv :=
  { base := d.getD 0 0, size := ((d.getD 1 0).extractLsb' 0 40).toNat, log := ((d.getD 2 0).extractLsb' 0 5).toNat
    btab := d.getD 3 0, btn := ((d.getD 4 0).extractLsb' 0 32).toNat, rcnt := d.getD 5 0, free := d.getD 6 0 }

/-- Where two blocks are cut so that each piece of either lies in one page: BASE is aligned to 64 B alone (R235). -/
def Kv.cuts (k : Kv) (a b : Nat) : List Nat :=
  let cut (x o : Nat) : Bool := ((k.block x).toNat + o) % 65536 = 0
  ((List.range (2 ^ k.log / 64)).map (64 * ·)).filter fun o => o = 0 || cut a o || cut b o

/-- Each cut with the bytes up to the next. -/
def Kv.pieces (k : Kv) (a b : Nat) : List (Nat × Nat) :=
  let l := k.cuts a b
  (l.zip (l.drop 1 ++ [2 ^ k.log])).map fun (o, e) => (o, e - o)

/-- The virtual address of each piece of a block. -/
def Kv.pieceVas (k : Kv) (b : Nat) (l : List (Nat × Nat)) : List Word := l.map fun p => k.block b + BitVec.ofNat 64 p.1

def MigRec.sblk (m : MigRec) : Nat := m.dest.toNat % 2 ^ 24
def MigRec.dblk (m : MigRec) : Nat := m.dest.toNat / 2 ^ 24

/-- The descriptor and the entry numbers of a KV command. -/
def State.migPool (s : State) (m : MigRec) : Except Word (List Word × List Nat) × State :=
  after (s.migReads m.job .load 8 ((List.range 8).map fun k => m.src + BitVec.ofNat 64 (8 * k))) fun d s =>
  after (s.migReads m.job .load 4 ((List.range m.count).map fun i => m.list + BitVec.ofNat 64 (4 * i))) fun l s =>
    (.ok (d.map fun x => BitVec.ofNat 64 x.1, l.map (·.1)), s)

/-- How a KV command begins: its checks, then the copy. -/
def State.startKv (s : State) (m : MigRec) (i : Nat) : Option MigEnd × State :=
  let fault (va : Word) (s : State) : Option MigEnd × State := (some (4, some va), s)
  let bad (s : State) : Option MigEnd × State := (some (3, none), s)
  match s.migPool m with
  | (.error va, s) => fault va s
  | (.ok (d, ns), s) =>
    let k := kvOfDesc d
    if ((d.getD 1 0).extractLsb' 48 3).toNat ≠ 3 ∨ !windowOk {} 0 d [] ∨ !k.fits m.sblk ∨ !k.fits m.dblk ∨ m.sblk = m.dblk then bad s
    else if !ns.all (· < k.btn) ∨ ns.eraseDups.length ≠ ns.length then bad s
    else match s.migRead m.job .load (k.count m.dblk) 2 with
    | (.error va, s) => fault va s
    | (.ok c, s) =>
      if c.1 ≠ 0 then bad s
      else
      let l := k.pieces m.sblk m.dblk
      match s.migPlaces m.job .load (k.pieceVas m.sblk l) with
      | (.error va, s) => fault va s
      | (.ok src, s) =>
        match s.migPlaces m.job .store (k.pieceVas m.dblk l) with
        | (.error va, s) => fault va s
        | (.ok dst, s) => s.startMig
            { index := i, spans := (src.zip (dst.zip l)).map fun (a, b, p) => (a, b, p.2)
              words := k.count m.sblk :: k.count m.dblk :: ns.map k.entry }

/-- A word of a structure written at its home slice, if its memory is still there. -/
def State.migPut (s : State) (n pa v : Nat) : State := if s.installed pa then s.homeWrite .other pa (fullBytes (natLe n v)) else s

/-- Locks the listed entries, if they and RCNT of the source are as the command says. -/
def State.lockKv (s : State) (m : MigRec) (r : MigRun) : Option MigEnd × State :=
  match s.migReads m.job .amo 2 (r.words.take 2) with
  | (.error va, s) => (some (4, some va), s)
  | (.ok rc, s) =>
    match s.migReads m.job .amo 4 (r.words.drop 2) with
    | (.error va, s) => (some (4, some va), s)
    | (.ok es, s) =>
      if (rc.headD (0, 0)).1 ≠ m.count ∨ es.any (fun e => descBlk e.1 ≠ m.sblk || descLock e.1) then (some (2, none), s)
      else
        let s := es.foldl (fun (s : State) e => s.migPut 4 e.2 ((e.1 / 2 ^ 26 + 1) % 64 * 2 ^ 26 + 2 ^ 25 + e.1 % 2 ^ 25)) s
        (none, s.setMig { r with locked := true, places := (rc ++ es).map (·.2) })

/-- The swap of a locked KV command. -/
def State.swapKv (s : State) (m : MigRec) (r : MigRun) : Option MigEnd × State :=
  let s := s.copySectors r r.dirty
  let s := (s.migPut 2 (r.places.getD 1 0) m.count).migPut 2 (r.places.getD 0 0) 0
  let tier := tierOf ((r.spans.headD (0, 0, 0)).2.1)
  (some (0, none), (r.places.drop 2).foldl (fun (s : State) pa => s.migPut 4 pa (descNext (s.memNat pa 4) tier m.dblk)) s)

/-- The next stage of a KV command. -/
def State.migrateKv (s : State) (m : MigRec) (i : Nat) : Option MigEnd × State :=
  match s.mig? i with
  | none => s.startKv m i
  | some r =>
    -- What fails after MLOCK was set stops nothing (R415).
    if r.locked then (if s.sourceWaits r then (none, s) else s.swapKv m r)
    else if s.lostSpan r then (some (5, none), s)
    else if !r.dirty.isEmpty then s.recopy r
    else s.lockKv m r

/-! Commands that run one after another (R410). -/

/-- The memory that a command names: pages or blocks, and listed entries, as ranges. -/
def State.migHolds (s : State) (m : MigRec) (i : Nat) : List (Nat × Nat) :=
  let place (va : Word) : List Nat := match s.translateIn (s.hubSpace m.job) va .load with
    | (.ok x, _) => [x.pa]
    | _ => []
  let spans : List (Nat × Nat) := ((s.mig? i).map fun r => r.spans.flatMap fun (x, y, n) => [(x, n), (y, n)]).getD []
  if m.kind = 1 then (m.dest.toNat, 65536) :: (((place m.src).map fun a => (a / 65536 * 65536, 65536)) ++ spans)
  else match (s.migPool m).1 with
    | .error _ => spans
    | .ok (d, ns) =>
      let k := kvOfDesc d
      let l := if 18 < k.log then [] else k.pieces m.sblk m.dblk
      let at' (b : Nat) : List (Nat × Nat) := ((k.pieceVas b l).zip l).flatMap fun (va, p) => (place va).map (·, p.2)
      spans ++ at' m.sblk ++ at' m.dblk ++ ((ns.map k.entry).flatMap place).map (·, 4)

def rangesMeet (a b : List (Nat × Nat)) : Bool := a.any fun x => b.any fun y => x.1 < y.1 + y.2 && y.1 < x.1 + x.2

def State.migMeets (s : State) (m n : MigRec) (i j : Nat) : Bool :=
  (m.kind = 1 && n.kind = 1 && m.job = n.job && m.src = n.src) || rangesMeet (s.migHolds m i) (s.migHolds n j)

/-! The events. -/

/-- The k-th command in hand goes on by one stage, if it may run beside the ones before it. -/
def State.migrate (s : State) (k kind : Nat) : State :=
  match s.migHeader, s.plat.migJobs[k]? with
  | some r, some i =>
    let m := s.migRecord r i
    if 8 ≤ k ∨ (s.plat.migJobs.take k).any (fun j => s.migMeets (s.migRecord r j) m j i) then s
    else if !m.ok ∧ (s.mig? i).isNone then s.migFinish r i m 3 0 none
    else if m.kind ≠ kind then s
    else
      match (if kind = 1 then s.migratePage m i else s.migrateKv m i) with
      | (some (st, bad), t) => t.migFinish r i m st (((t.mig? i).map (·.rounds)).getD 0) bad
      | (none, t) => t
  | _, _ => s

/-- The rows name a command by its place among those in hand. Their second operand has no part in what happens: how many recopy
rounds a command takes follows from the stores to its source. -/
def execMigratePage (k rounds : Nat) (s : State) : Out := let _ := rounds; .next (s.migrate k 1)
def execMigrateKvBlock (k rounds : Nat) (s : State) : Out := let _ := rounds; .next (s.migrate k 2)

end Sys2Proof.Machine
end

