-- ==== Sys2Proof/Machine/VectorAmo.lean ====
section
/-! DEFINITION. VAMO (R74, R75, R223 to R225). -/

namespace Sys2Proof.Machine
open Sys2Proof

/-- One element of a vector atomic at its home slice: old and operand to the new value. -/
def amoElem (o : T48) (f : View → Nat → Nat → Nat) (x : VIn) (info : FaultInfo) (xl : Xl) (e : Nat) (s : State) :
    Elem × State :=
  match x.get s o.d.toNat e with
  | .error b => (.error b, s)
  | .ok (y, p) =>
    let ((bs, q), s) := s.readUpdate xl x.v.sb
    if p || q || s.governPois x.v o.gm.toNat e then (.error (s.ef (elemInfo .indexed o info x s e) (26, BitVec.ofNat 64 e)), s)
    else
      let old := leNat bs
      let s := s.homeWrite s.writer xl.pa (fullBytes (natLe x.v.sb (f x.v old (x.v.scalar (y.zeroExtend 64)).toNat)))
      (.ok (BitVec.ofNat 32 old, false), s)

/-- The elements whose address is usable, sorted by address, equal addresses by index (R75, R224). -/
def sortedByAddr (l : List (Nat × Xl)) : List (Nat × Xl) :=
  l.mergeSort fun p q => p.2.pa < q.2.pa || (p.2.pa == q.2.pa && p.1 ≤ q.1)

/-- A vector atomic (R224, R225): `.cm` returns nothing; `.o` waits for every earlier access. -/
def vamoOp (op : BitVec 6) (o : T48) (f : View → Nat → Nat → Nat) (s : State) : Out :=
  let bits := t48Bits (0x0D, op) o
  let cm := o.aux.getLsbD 7
  let form : VForm :=
    { len := 6, bits := bits, gm := o.gm.toNat, uses := [useEach o.b.toNat o.fb id, useD o]
      dst := if cm then none else some o.d.toNat, noStream := if cm then [] else [o.d.toNat]
      load := false, align := [o.d.toNat, o.b.toNat], extra := noExtra }
  ctStep s bits fun s => exactFormat bits o s fun s => vprep form s fun x s =>
    let info := { accessInfo .indexed o true x s with kind := 6 }
    if o.aux.getLsbD 6 && !s.drainedFor 4 then s.stall
    else
      let (l, s) := eachElem (homeElem o info x .amo) x.acts s
      let good := l.filterMap fun (e, r) => match r with | .ok (xl, _) => some (e, xl) | .error _ => none
      if good.any fun (_, xl) => !s.classEmpty xl.pa then s.stall
      else
        let (out, s) := (sortedByAddr good).foldl (fun (out, s) (e, xl) =>
          let (r, s) := amoElem o f x info xl e s
          ((e, r) :: out, s)) (([] : List (Nat × Elem)), s)
        let result (e : Nat) : Elem :=
          match l.find? (·.1 = e) with
          | some (_, .error b) => .error b
          | _ => ((out.find? (·.1 = e)).map (·.2)).getD (.ok (0, false))
        vcommit form x (!cm) (x.acts.map fun e => (e, result e)) s

/-- Whether the format is signed. -/
def amoSigned (o : T48) : Bool := !unsignedFmt o.fmt
def amoPick (o : T48) (max : Bool) (v : View) (a b : Nat) : Nat :=
  let va := intOf (amoSigned o) v.bits a
  let vb := intOf (amoSigned o) v.bits b
  if max then (if va < vb then b else a) else (if vb < va then b else a)

def execVamoadd (o : T48) (s : State) : Out := vamoOp 0x00 o (fun v a b => (a + b) % 2 ^ v.bits) s
def execVamofadd (o : T48) (s : State) : Out := vamoOp 0x01 o (fun v a b => atomicAdd (laneFp v.sb) a b) s
def execVamomin (o : T48) (s : State) : Out := vamoOp 0x02 o (amoPick o false) s
def execVamomax (o : T48) (s : State) : Out := vamoOp 0x03 o (amoPick o true) s
def execVamoand (o : T48) (s : State) : Out := vamoOp 0x04 o (fun _ a b => a &&& b) s
def execVamoor (o : T48) (s : State) : Out := vamoOp 0x05 o (fun _ a b => a ||| b) s
def execVamoxor (o : T48) (s : State) : Out := vamoOp 0x06 o (fun _ a b => a ^^^ b) s
def execVamoswap (o : T48) (s : State) : Out := vamoOp 0x07 o (fun _ _ b => b) s

end Sys2Proof.Machine
end

