-- ==== Sys2Proof/Machine/Host.lean ====
section
/-! DEFINITION. Requests of the host and of peers (R84, R426, R433), Chain ports (R432), and dynamic capacity
extents (R430, R431). -/

namespace Sys2Proof.Machine
open Sys2Proof

/-! Requests at the home slices. -/

def State.answer (s : State) (a : Option (List Byte × Bool)) : State := { s with plat := { s.plat with answer := a } }

/-- Whether a request reaches n bytes of device memory. -/
def State.reaches (s : State) (pa n : Nat) : Bool :=
  s.running && n ≠ 0 && onDevice pa && onDevice (pa + n - 1) && s.installed pa && s.installed (pa + n - 1)

def State.homeRead (s : State) (pa n : Nat) : State :=
  if !s.reaches pa n then s.answer none
  else (s.credit pa n).answer (some (s.memBytes pa n, s.memPoisoned pa n))

def State.homeStore (s : State) (pa : Nat) (bs : List Byte) : State :=
  if !s.reaches pa bs.length then s.answer none
  else (s.homeWrite .other pa (fullBytes bs)).answer (some ([], false))

/-- One read-modify-write; poisoned memory is left as it is. -/
def State.homeUpdate (s : State) (pa n : Nat) (f : Nat → Nat) : State :=
  if !s.reaches pa n ∨ pa % n ≠ 0 then s.answer none
  else
    let old := s.memBytes pa n
    let bad := s.memPoisoned pa n
    let s := if bad then s else s.homeWrite .other pa (fullBytes (natLe n (f (leNat old) % 2 ^ (8 * n))))
    s.answer (some (old, bad))

/-- Bytes of the upload buffer of recovery mode (R443). -/
def uploadBytes (s : State) (off n : Nat) : List Byte :=
  (List.range n).map fun i => if off + i < 0x4000000 then sparseGet 0 s.plat.upload (off + i) else 0

/-- A request that names device memory, by CXL.mem or through the BAR2 window: in recovery mode it ends as an Unsupported Request
(R443). A read of more than 4,096 bytes is no request of the link (R424). -/
def execHostRead (pa n : Nat) (s : State) : Out :=
  .next (if 4096 < n then s.answer none else s.homeRead pa n)

/-- A write of more than 512 bytes is no request of the link (R424). -/
def execHostWrite (pa : Nat) (bytes : List (BitVec 8)) (s : State) : Out :=
  .next (if 512 < bytes.length then s.answer none else s.homeStore pa bytes)

def execHostAtomic (op : HostAtomic) (pa n : Nat) (v cmp : BitVec 64) (s : State) : Out :=
  .next (if n ≠ 4 ∧ n ≠ 8 then s.answer none
    else s.homeUpdate pa n fun old => match op with
      | .fetchAdd => old + v.toNat
      | .swap => v.toNat
      | .cas => if old = cmp.toNat % 2 ^ (8 * n) then v.toNat else old)

/-- An integer atomic of a peer, by the op numbers of VAMO. -/
def peerAmo (op : BitVec 3) (signed : Bool) (bits a b : Nat) : Nat :=
  let va := intOf signed bits a
  let vb := intOf signed bits b
  match op.toNat with
  | 0 => a + b
  | 2 => if vb < va then b else a
  | 3 => if va < vb then b else a
  | 4 => a &&& b
  | 5 => a ||| b
  | 6 => a ^^^ b
  | _ => b

def execPeerRequest (peer : Nat) (req : PeerReq) (s : State) : Out :=
  .next (if 64 ≤ peer then s.answer none
    else match req with
      | .load pa n => s.homeRead pa n
      | .store pa bytes => s.homeStore pa bytes
      | .amo op signed pa n v => s.homeUpdate pa n fun old => peerAmo op signed (8 * n) old (v.toNat % 2 ^ (8 * n))
      | .famo bf pa v =>
        let n := if bf then 2 else 4
        s.homeUpdate pa n fun old => atomicAdd (laneFp n) old (v.toNat % 2 ^ (8 * n)))

/-! Chain ports. -/

/-- A flit arrives: the flits that have failed in a row, the first and its replays. -/
def execChainFlit (port : Nat) (good : Bool) (s : State) : Out :=
  .next (if 16 ≤ port ∨ s.plat.portsDown.contains port then s
    else { s with plat := { s.plat with
      replays := if good then s.plat.replays.filter (·.1 ≠ port)
        else sparsePut s.plat.replays port (sparseGet 0 s.plat.replays port + 1) } })

def State.downPort (s : State) (port : Nat) : State :=
  { s with plat := { s.plat with
    portsDown := if s.plat.portsDown.contains port then s.plat.portsDown else s.plat.portsDown ++ [port]
    replays := s.plat.replays.filter (·.1 ≠ port) } }

/-- Sixteen replays of a flit have failed. -/
def execChainPortDown (port : Nat) (s : State) : Out :=
  .next (if 17 ≤ sparseGet 0 s.plat.replays port then s.downPort port else s)

/-! Dynamic capacity extents. -/

def State.extent (s : State) (k : Nat) : Extent := sparseGet {} s.plat.extents k
def State.setExtent (s : State) (k : Nat) (e : Extent) : State :=
  { s with plat := { s.plat with extents := sparsePut s.plat.extents k e } }

def Extent.meets (a b : Extent) : Bool :=
  a.base.toNat < b.base.toNat + b.len.toNat && b.base.toNat < a.base.toNat + a.len.toNat

/-- The listed bytes from lo to hi, moved to start at `first`. -/
def shiftBytes (m : Sparse Byte) (lo hi first : Nat) : Sparse Byte :=
  (m.filter fun c => lo ≤ c.1 ∧ c.1 < hi).map fun c => (c.1 - lo + first, c.2)

/-- Memory with a range replaced by other listed bytes of that range. -/
def putRange (m : Sparse Byte) (lo hi : Nat) (l : Sparse Byte) : Sparse Byte :=
  m.filter (·.1 < lo) ++ l ++ m.filter (hi ≤ ·.1)

def execExtentGrant (k : Nat) (s : State) : Out :=
  let e := s.extent k
  let lo := e.base.toNat
  let hi := lo + e.len.toNat
  let ok : Bool := lo % 0x200000 = 0 && e.len.toNat % 0x200000 = 0 && 0x100000000000 ≤ lo && hi ≤ 0x200000000000 &&
    !s.plat.extents.any fun p => p.1 ≠ k && 2 ≤ p.2.state && p.2.state ≤ 4 && e.meets p.2
  .next (
    if 256 ≤ k ∨ !s.running ∨ (2 ≤ e.state ∧ e.state ≤ 4) then s
    else if !ok then s.setExtent k { e with state := 5 }
    else
      let snap := shiftBytes s.plat.hostMem e.hpa.toNat (e.hpa.toNat + e.len.toNat) 0
      let s := s.setExtent k { e with state := 2 }
      { s with mem := putRange s.mem lo hi (shiftBytes snap 0 e.len.toNat lo) })

/-- The dirty lines of an extent, by offset / 512. -/
def State.dirtyLines (s : State) (e : Extent) : List Nat :=
  (s.dirty.filter fun l => e.base.toNat ≤ 512 * l && 512 * l < e.base.toNat + e.len.toNat).map (· - e.base.toNat / 512)

/-- Writes a line of an extent back to host memory. -/
def State.writeBack (s : State) (k line : Nat) : State :=
  let e := s.extent k
  let now := shiftBytes s.mem (e.base.toNat + 512 * line) (e.base.toNat + 512 * line + 512) 0
  let at' (o : Nat) (m : Sparse Byte) : Sparse Byte := putRange m o (o + 512) (shiftBytes now 0 512 o)
  { s with dirty := s.dirty.filter (· ≠ e.base.toNat / 512 + line), plat := { s.plat with hostMem := at' (e.hpa.toNat + 512 * line) s.plat.hostMem } }

/-- Whether a migration command holds memory in n bytes at lo. -/
def State.migIn (s : State) (m : MigRec) (i lo n : Nat) : Bool := rangesMeet (s.migHolds m i) [(lo, n)]

/-- Migration commands that hold memory of a range end LOST (R431). One that has locked its entries completes instead, with
the data its copy holds: that is R415's rule for a failure after MLOCK. DEDUCED (log 112). -/
def State.loseMigrations (s : State) (lo n : Nat) : State :=
  match s.migHeader with
  | none => s
  | some r => s.plat.migJobs.foldl (fun (s : State) i =>
      let m := s.migRecord r i
      if s.migIn m i lo n ∧ !((s.mig? i).any (·.locked)) then s.migFinish r i m 5 (((s.mig? i).map (·.rounds)).getD 0) none else s) s

/-- The mark and the write-back of a release; a forced one discards dirty lines and logs their pages. -/
def State.releaseExtent (s : State) (k : Nat) (forced : Bool) : State :=
  let e := s.extent k
  let lo := e.base.toNat
  let n := e.len.toNat
  if e.state ≠ 2 then s
  else
    let dirty := s.dirtyLines e
    let s := s.loseMigrations lo n
    let s := if forced then
        ((dirty.map (· / 128)).eraseDups).foldl (fun (s : State) p =>
          s.logError (lo + 65536 * p) 3 7 (memOf lo)) s
      else dirty.foldl (fun (s : State) l => s.writeBack k l) s
    let s := s.setExtent k { e with state := if forced then 4 else 3 }
    let s := { s with
      mem := putRange s.mem lo (lo + n) [], dirty := s.dirty.filter fun l => 512 * l < lo || lo + n ≤ 512 * l, memPois := sparseClear s.memPois (lo / 4) ((lo + n) / 4)
      ctxs := clearLinks s.ctxs none lo n }
    s.dropRange lo n

def execExtentReleaseNotice (k : Nat) (s : State) : Out := .next (if s.running then s.releaseExtent k false else s)
def execExtentForcedRelease (k : Nat) (s : State) : Out := .next (if s.running then s.releaseExtent k true else s)

/-- Every write-back is acknowledged. -/
def execExtentReleaseComplete (k : Nat) (s : State) : Out :=
  let e := s.extent k
  .next (if e.state = 3 ∨ e.state = 4 then s.setExtent k { e with state := 6 } else s)

/-! The class queues (R70). -/

/-- The queues of the context's parties that hold a store of a class: its own, its MS's and those of its micro-threads
that run blocks they fetched themselves. One of these follows the stores of its own vector-fetched block. -/
def State.classParties (s : State) (hart cls : Nat) : List (Option Nat) :=
  let has (q : List Pending) : Bool := q.any (·.cls = cls)
  let g := coreOf hart
  (if has (s.ctx hart).queue then [none] else []) ++
  (if (s.ms g).owner = some hart && has (s.ms g).queue then [some 0] else []) ++
  ((s.threadsOf hart).filter fun p => has p.2.queue &&
    !(s.ctx hart).queue.any fun e => e.cls = cls && e.mt = some p.1).map fun p => some (p.1 + 1)

/-- The store that waits longest in a class of one of those parties is performed: R70 orders each party's own, and which
party's comes next is free where several have one (R65). -/
def execClassQueueDrain (hart cls : Nat) (s : State) : Out :=
  let g := coreOf hart
  let l := s.classParties hart cls
  let (r, s) := if l.length ≤ 1 then (0, s) else s.drawNat
  .next (match l[r % l.length]? with
    | none => s
    | some none =>
      match takeClass cls (s.ctx hart).queue with
      | some (p, q) => (s.modCtx hart fun c => { c with queue := q }).perform hart (.hart hart) p
      | none => s
    | some (some 0) =>
      match takeClass cls (s.ms g).queue with
      | some (p, q) => (s.modMs g fun m => { m with queue := q }).perform hart (.msOf g) p
      | none => s
    | some (some (k + 1)) =>
      let m := sparseGet {} s.mts k
      match takeClass cls m.queue with
      | some (p, q) => ({ s with mts := sparsePut s.mts k { m with queue := q } }).perform hart (.mtOf g) p
      | none => s)

end Sys2Proof.Machine
end

