-- ==== Sys2Proof/Machine/SaveArea.lean ====
section
/-! DEFINITION. The save area (R377 to R379) and the SYS group (R182 to R186). Where R377 and R378 list a part
without its packing, the fields stand in the order of the list, as the comments say (log 60). -/

namespace Sys2Proof.Machine
open Sys2Proof

def sysBits (op : BitVec 6) (o : T48) : Word := t48Bits (0x1C, op) o

/-! Words of the area: (offset, value). -/

abbrev AreaWords := List (Nat × Word)

/-- n words at an offset, from a list that zeros follow. -/
def areaFill (off n : Nat) (l : List Word) : AreaWords := (List.range n).map fun k => (off + 8 * k, l.getD k 0)

/-- 64 bits of a bit array from index k on. -/
def boolWord (f : Nat → Bool) (k : Nat) : Word :=
  (List.range 64).foldl (fun w i => if f (k + i) then w ||| (1#64 <<< i) else w) 0
/-- Two 32-bit values. -/
def pairWord (lo hi : BitVec 32) : Word := hi ++ lo

/-! Writing. -/

def Mode.code : LoopMode → Nat
  | .off => 0
  | .seq => 1
  | .ind => 2

/-- Byte offsets of a body's instructions. -/
def bodyStarts : Nat → List Byte → Nat → List Nat
  | 0, _, _ => []
  | n + 1, bs, o =>
    match lengthOf (BitVec.ofNat 16 (leNat (bs.take 2))) with
    | 0 => [o]
    | l => if bs.isEmpty then [] else o :: bodyStarts n (bs.drop l) (o + l)

/-- The stopped body instruction of a slot: index [5:0], whether there is one [6], strip size [18:7] and `vl` of
the strip [30:19]. -/
def stopWord (c : Ctx) (slot : Nat) : Nat :=
  match stripOf c slot with
  | some t => (bodyStarts 64 c.loop.body 0).idxOf t.off % 64 + 64 + t.size * 2 ^ 7 + t.vl * 2 ^ 19
  | none => 0

def streamWords (t : Stream) : List Word :=
  (List.range 8).map (fun k => t.desc.getD k 0) ++
  [BitVec.ofNat 64 t.pos, t.vrm, t.vpst, t.vtb, t.vsb, t.vts,
   packWord [(0, t.reg.toNat), (5, natBit t.bound), (6, natBit t.inLoop), (7, t.sew.toNat), (9, t.lmul.toNat)],
   BitVec.ofNat 64 t.loopPos]

/-- A window: its descriptor, with the bound bit in bit 55 of word 0x08, which is 0 in a descriptor. -/
def windowWords (w : Win) : List Word :=
  (List.range 8).map fun k => w.desc.getD k 0 ||| (if k = 1 ∧ w.bound then 0x0080000000000000 else 0)

def queueWords (q : List (BitVec 32 × Bool)) : List Word :=
  let e (k : Nat) : BitVec 32 × Bool := q.getD k (0, false)
  [packWord [(0, Nat.min q.length 3), (2, natBit (e 0).2), (3, natBit (e 1).2)], pairWord (e 0).1 (e 1).1]

/-- The parts from 0x0000 to 0x1FFF but pc and x1 to x31. -/
def contextWords (c : Ctx) (n dies : Nat) (ms : Bool) (live : BitVec 32) (form size : Nat) (modes : List Nat) : AreaWords :=
  let vrst (j : Nat) : Word := match c.loop.mode, stripOf c j with
    | .ind, some t => BitVec.ofNat 64 t.base
    | _, _ => c.vrst.toArray.getD j allOnes
  areaFill 0 8 (areaHeader n dies ms live form size) ++
  areaFill 0x140 24 [c.vrm, c.vpst, c.vtb, c.vsb, c.vts, c.amax, c.amaxn, c.uivec, c.uiepc, c.uicause,
    BitVec.ofNat 64 c.vl, c.vty, c.ldst.setWidth 64, BitVec.ofNat 64 (if c.loop.mode = .seq then c.loop.base else 0),
    c.uimask.setWidth 64, boolW c.handler, c.hVty, c.hLdst.setWidth 64] ++
  areaFill 0x200 8 c.shadow.toList ++
  areaFill 0x240 8 [BitVec.ofNat 64 c.loop.count, BitVec.ofNat 64 c.loop.rem, BitVec.ofNat 64 c.loop.base,
    BitVec.ofNat 64 (Mode.code c.loop.mode), c.loop.start, BitVec.ofNat 64 c.loop.body.length,
    BitVec.ofNat 64 c.loop.savedVl, packWord [(0, c.loop.size), (32, natBit c.loop.gap), (33, natBit c.loop.sup)]] ++
  areaFill 0x280 16 ((List.range 16).map vrst) ++
  areaFill 0x300 8 ((List.range 8).map fun k => packWord [(0, stopWord c (2 * k)), (32, stopWord c (2 * k + 1))]) ++
  areaFill 0x340 8 ((List.range 8).map fun k => packWord [(0, modes.getD (2 * k) 0), (32, modes.getD (2 * k + 1) 0)]) ++
  areaFill 0x380 16 c.flags.toList ++
  areaFill 0x400 16 (c.events.map fun e => packWord [(0, e.event), (8, e.tag)]) ++
  areaFill 0x480 8 ([packWord [(0, c.ubars), (63, natBit c.ubarAt)], boolW c.pwaited,
    (match c.engFail with
      | some (k, _) => packWord [(0, k), (63, 1)]
      | none => 0),
    (c.engFail.map (·.2)).getD 0] ++ queueWords c.linkOut) ++
  areaFill 0x4C0 104 [] ++
  ((List.range 16).flatMap fun k => areaFill (0x800 + 64 * k) 8 (windowWords (c.win k))) ++
  ((List.range 16).flatMap fun k => areaFill (0xC00 + 128 * k) 16 (streamWords (c.stream k))) ++
  areaFill 0x1400 384 []

def mtWords (m : Mt) : List Word :=
  let st := match m.state with
    | .stopped => 0
    | .running => 1
    | .faulted => 2
  let e (k : Nat) : BitVec 32 × Bool := m.linkIn.getD k (0, false)
  let o (k : Nat) : BitVec 32 × Bool := m.linkOut.getD k (0, false)
  [packWord [(0, m.next % 2 ^ 32), (32, st), (40, m.rm.toNat), (43, natBit m.fz), (44, natBit m.dz), (45, natBit m.sat),
     (48, m.linkIn.length), (50, natBit (e 0).2), (51, natBit (e 1).2),
     (56, natBit m.own), (57, natBit m.strip), (58, natBit m.tail), (59, m.linkOut.length),
     (61, natBit (o 0).2), (62, natBit (o 1).2)],
   pairWord (faultReport m 1) (faultReport m 2),
   pairWord (e 0).1 (e 1).1, pairWord (o 0).1 (o 1).1]

/-- A cluster block (R378) at an offset. -/
def State.clusterWords (s : State) (h q : Nat) (live : BitVec 32) (at' : Nat) : AreaWords :=
  let k := 4 * q + ctxNo h
  let slot (r j : Nat) : BitVec 32 := sparseGet 0 s.vreg ((k * 32 + r) * 128 + j)
  let pois (i : Nat) : Bool := sparseGet false s.vpois (k * 4096 + i)
  let mask (i : Nat) : Bool := sparseGet false s.mbit (k * 9 * 2048 + i)
  let mpois (i : Nat) : Bool := sparseGet false s.mpois (k * 9 * 2048 + i)
  (((List.range 32).filter live.getLsbD).flatMap fun r =>
    areaFill (at' + 512 * r) 64 ((List.range 64).map fun j => pairWord (slot r (2 * j)) (slot r (2 * j + 1)))) ++
  areaFill (at' + 0x4000) 64 ((List.range 64).map fun j => boolWord pois (64 * j)) ++
  areaFill (at' + 0x4200) 288 ((List.range 288).map fun j => boolWord mask (64 * j)) ++
  areaFill (at' + 0x4B00) 288 ((List.range 288).map fun j => boolWord mpois (64 * j)) ++
  (List.range 128).flatMap fun i => areaFill (at' + 0x5400 + 32 * i) 4 (mtWords (sparseGet {} s.mts (k * 128 + i)))

def byteWord (f : Nat → Byte) (k : Nat) : Word := BitVec.ofNat 64 (leNat ((List.range 8).map fun i => f (k + i)))

/-- The MS block (R378) at an offset. -/
def State.msWords (s : State) (g at' : Nat) : AreaWords :=
  let m := s.ms g
  let run := match m.run with
    | .idle => 0
    | .running => 1
    | .stopped => 2
  areaFill at' 32 (m.pc :: m.x.toList.drop 1) ++
  areaFill (at' + 0x100) 8 [m.ta.setWidth 64, m.tb.setWidth 64, m.faultWord, m.faultAddr, BitVec.ofNat 64 run] ++
  areaFill (at' + 0x140) 984 [] ++
  (List.range 8).flatMap fun b =>
    let k := 8 * g + b
    let t := sparseGet {} s.billets k
    let o := at' + 0x2000 + 19520 * b
    areaFill o 2048 ((List.range 2048).map fun j => byteWord (fun i => sparseGet 0 s.brow (k * 16384 + i)) (8 * j)) ++
    areaFill (o + 0x4000) 256 ((List.range 256).map fun j => boolWord (fun i => sparseGet false s.bpois (k * 16384 + i)) (64 * j)) ++
    areaFill (o + 0x4800) 128 ((List.range 128).map fun j => byteWord (fun i => sparseGet 0x38 s.bscale (k * 1024 + i)) (8 * j)) ++
    areaFill (o + 0x4C00) 8 [packWord [(0, t.tag.toNat), (6, natBit t.axis), (7, natBit t.full), (8, t.nblk)]]

/-- The words of a context's area, in address order but for the parts within 0x2000. -/
def State.areaWords (s : State) (h : Nat) (live : BitVec 32) (form : Nat) : AreaWords :=
  let c := s.ctx h
  let ord := s.order h
  let n := ord.length
  let modes := ord.map fun q => ((List.range 16).map fun b => s.bankModeOf q b * 4 ^ b).sum
  contextWords c n (diesOf ord) c.ownsMs live form (s.saveSize h) modes ++
  (((List.range n).zip ord).flatMap fun (j, q) => s.clusterWords h q live (0x2000 + 0x6400 * j)) ++
  (if c.ownsMs then s.msWords (coreOf h) (0x2000 + 0x6400 * n) else [])

/-! `xsave` (R183). -/

/-- Resolves the area's words for a store. -/
def resolveArea (va : Word) (acc : Access) : List Nat → State → Except Bad (List Place) × State
  | [], s => (.ok [], s)
  | o :: t, s => after (s.resolve (va + BitVec.ofNat 64 o) 8 acc) fun p s =>
      after (resolveArea va acc t s) fun l s => (.ok (p :: l), s)

/-- Runs k once every bound write stream has drained as `ssync` does. -/
def allDrained (h : Nat) (k : State → State) : List Nat → State → State
  | [], s => k s
  | n :: t, s => if ((s.ctx h).stream n).bound then whenDrained h n (allDrained h k t) s else allDrained h k t s

/-- The running micro-threads of a unit stop; in the area they stay running (R183). -/
def State.stopThreads (s : State) (h : Nat) : State :=
  let l := (s.threadsOf h).map (·.1)
  { s with mts := s.mts.map fun p =>
      if p.2.state = .running ∧ l.contains p.1 then (p.1, { p.2 with state := .stopped, block := [] }) else p }

def xsaveOp (va : Word) (live : BitVec 32) (s : State) : State :=
  let h := s.hart
  if va.toNat % 64 ≠ 0 then s.trap 6 va
  else if s.storesWait h then s.stall
  else afterDrain s fun s => allDrained h (fun s =>
    let words := (s.areaWords h live 0).mergeSort fun a b => a.1 ≤ b.1
    match resolveArea va .store (words.map (·.1)) s with
    | (.error b, s) => s.trap b.1 b.2
    | (.ok ps, s) =>
      let s := (ps.zip words).foldl (fun s (p, w) => match p with
        | .mem x _ => s.homeWrite s.writer x.pa (fullBytes (natLe 8 w.2.toNat))
        | _ => s) s
      let s := (s.stopThreads h).modCtx h fun c => { c with
        park := .saved, streams := c.streams.map fun t => { t with fetched := [] } }
      s.retire 6) (List.range 16) s

def execXsave (o : T48) (s : State) : Out :=
  supervisorOnly s (sysBits 0x00 o) fun s => xsaveOp (s.rx o.a) ((s.rx o.b).setWidth 32) s

/-! `xrest` (R184). -/

/-- An area as read: the word at an offset. -/
abbrev Area := Nat → Word

def low32 (w : Word) : BitVec 32 := w.extractLsb' 0 32
def high32 (w : Word) : BitVec 32 := w.extractLsb' 32 32
def fieldOf (w : Word) (at' n : Nat) : Nat := w.toNat / 2 ^ at' % 2 ^ n

def areaStream (a : Area) (o : Nat) : Stream :=
  let f := a (o + 0x70)
  { bound := f.getLsbD 5, reg := BitVec.ofNat 5 f.toNat, desc := (List.range 8).map fun k => a (o + 8 * k)
    pos := (a (o + 0x40)).toNat, inLoop := f.getLsbD 6, loopPos := (a (o + 0x78)).toNat
    sew := BitVec.ofNat 2 (fieldOf f 7 2), lmul := BitVec.ofNat 2 (fieldOf f 9 2)
    vrm := a (o + 0x48), vpst := a (o + 0x50), vtb := a (o + 0x58), vsb := a (o + 0x60), vts := a (o + 0x68) }

def areaQueue (w e : Word) : List (BitVec 32 × Bool) :=
  [(low32 e, w.getLsbD 2), (high32 e, w.getLsbD 3)].take (fieldOf w 0 2)

/-- The strip of a slot; it stands stopped until `sret`. -/
def areaStrip (a : Area) (starts : List Nat) (slot : Nat) : Option Strip :=
  let w := a (0x300 + 8 * (slot / 2))
  let f := if slot % 2 = 0 then low32 w else high32 w
  let base := (a (0x280 + 8 * slot)).toNat
  let size := f.toNat / 2 ^ 7 % 4096
  if f.getLsbD 6 then
    some { slot := slot, base := base, size := size, vl := f.toNat / 2 ^ 19 % 4096, off := starts.getD (f.toNat % 64) 0
           stop := some (0, 0, none), first := base, fin := base + size }
  else none

def areaLoop (a : Area) (body : List Byte) : Loop :=
  let f (k : Nat) : Nat := (a (0x240 + 8 * k)).toNat
  let mode : LoopMode := match f 3 with
    | 1 => .seq
    | 2 => .ind
    | _ => .off
  { mode := mode, sup := (a 0x278).getLsbD 33, count := f 0, rem := f 1, base := f 2, size := f 7 % 2 ^ 32, savedVl := f 6, start := a 0x260
    body := body, strips := if mode = .ind then (List.range 16).filterMap (areaStrip a (bodyStarts 64 body 0)) else []
    halt := mode = .ind, gap := (a 0x278).getLsbD 32 }

/-- The context's part of an area, over what the core monitor keeps. -/
def areaCtx (a : Area) (loop : Loop) (wins : Vector Win 16) (c : Ctx) : Ctx :=
  let f (k : Nat) : Word := a (0x140 + 8 * k)
  { c with
    vrm := vrmWrite c.vrm (f 0), vpst := vpstWrite (f 1), vtb := f 2, vsb := f 3, vts := f 4 &&& 0xFFFFFFFF
    amax := f 5 &&& 0x7FFFFFFF, amaxn := f 6 &&& 1, uivec := f 7 &&& 0xFFFFFFFFFFFFFFFE
    uiepc := f 8 &&& 0xFFFFFFFFFFFFFFFE, uicause := f 9 &&& 0x1FFFFFFFF
    vl := (f 10).toNat, vty := f 11, ldst := (f 12).setWidth 5, uimask := (f 14 &&& 0x3E).setWidth 6
    handler := (f 15).getLsbD 0, hVty := f 16, hLdst := (f 17).setWidth 5
    shadow := Vector.ofFn fun i : Fin 8 => a (0x200 + 8 * i.val)
    loop := loop
    vrst := Vector.ofFn fun i : Fin 16 => a (0x280 + 8 * i.val)
    flags := Vector.ofFn fun i : Fin 16 => a (0x380 + 8 * i.val)
    events := ((List.range 16).filterMap fun k =>
      let w := a (0x400 + 8 * k)
      if fieldOf w 0 8 = 0 then none else some { event := fieldOf w 0 8, tag := fieldOf w 8 24 })
    ubars := fieldOf (a 0x480) 0 63, ubarAt := (a 0x480).getLsbD 63, pwaited := (a 0x488).getLsbD 0
    engFail := if (a 0x490).getLsbD 63 then some (fieldOf (a 0x490) 0 8, a 0x498) else none
    linkOut := areaQueue (a 0x4A0) (a 0x4A8)
    wins := wins
    streams := Vector.ofFn fun i : Fin 16 => areaStream a (0xC00 + 128 * i.val)
    links := [], resv := none, loading := [], fetching := none, exchg := none }

def areaMt (a : Area) (o : Nat) : Mt :=
  let f := a o
  let r := a (o + 8)
  { state := match fieldOf f 32 8 with
      | 1 => .running
      | 2 => .faulted
      | _ => .stopped
    next := fieldOf f 0 32, rm := BitVec.ofNat 3 (fieldOf f 40 3), fz := f.getLsbD 43, dz := f.getLsbD 44, sat := f.getLsbD 45
    fault := if fieldOf f 32 8 = 2 then some (fieldOf r 0 8, fieldOf r 8 24, high32 r) else none
    linkIn := [(low32 (a (o + 16)), f.getLsbD 50), (high32 (a (o + 16)), f.getLsbD 51)].take (fieldOf f 48 2)
    linkOut := [(low32 (a (o + 24)), f.getLsbD 61), (high32 (a (o + 24)), f.getLsbD 62)].take (fieldOf f 59 2)
    own := f.getLsbD 56, strip := f.getLsbD 57, tail := f.getLsbD 58 }

/-- Replaces a cluster block; registers whose live bit was clear are zero. -/
def State.putCluster (s : State) (a : Area) (h q at' : Nat) (live : BitVec 32) : State :=
  let k := 4 * q + ctxNo h
  let s := s.clearSlice h q
  let slots := ((List.range 32).filter live.getLsbD).flatMap fun r => (List.range 128).map fun j =>
    let w := a (at' + 512 * r + 8 * (j / 2))
    ((k * 32 + r) * 128 + j, if j % 2 = 0 then low32 w else high32 w)
  let bits (o i : Nat) : Bool := (a (at' + o + 8 * (i / 64))).getLsbD (i % 64)
  let dead (i : Nat) : Bool := !live.getLsbD (i / 128)
  { s with
    vreg := slots.foldl (fun m (i, x) => sparsePut m i x) s.vreg
    vpois := (List.range 4096).foldl (fun m i => sparsePut m (k * 4096 + i) (bits 0x4000 i && !dead i)) s.vpois
    mbit := (List.range 18432).foldl (fun m i => sparsePut m (k * 18432 + i) (bits 0x4200 i)) s.mbit
    mpois := (List.range 18432).foldl (fun m i => sparsePut m (k * 18432 + i) (bits 0x4B00 i)) s.mpois
    mts := (List.range 128).foldl (fun m i => sparsePut m (k * 128 + i) (areaMt a (at' + 0x5400 + 32 * i))) s.mts }

def areaByte (a : Area) (o i : Nat) : Byte := (a (o + i / 8 * 8)).extractLsb' (8 * (i % 8)) 8

def State.putMsBlock (s : State) (a : Area) (g at' : Nat) : State :=
  let s := s.modMs g fun m => { m with
    pc := a at'
    x := Vector.ofFn fun i : Fin 32 => if i.val = 0 then 0 else a (at' + 8 * i.val)
    ta := low32 (a (at' + 0x100)), tb := low32 (a (at' + 0x108)), faultWord := a (at' + 0x110), faultAddr := a (at' + 0x118)
    run := match (a (at' + 0x120)).toNat with
      | 1 => .running
      | 2 => .stopped
      | _ => .idle }
  (List.range 8).foldl (fun s b =>
    let k := 8 * g + b
    let o := at' + 0x2000 + 19520 * b
    let t := a (o + 0x4C00)
    { s with
      billets := sparsePut s.billets k { sparseGet {} s.billets k with
        tag := BitVec.ofNat 6 (fieldOf t 0 6), axis := t.getLsbD 6, full := t.getLsbD 7, nblk := fieldOf t 8 9 }
      brow := (List.range 16384).foldl (fun m i => sparsePut m (k * 16384 + i) (areaByte a o i)) s.brow
      bpois := (List.range 16384).foldl (fun m i =>
        sparsePut m (k * 16384 + i) ((a (o + 0x4000 + 8 * (i / 64))).getLsbD (i % 64))) s.bpois
      bscale := (List.range 1024).foldl (fun m i => sparsePut m (k * 1024 + i) (areaByte a (o + 0x4800) i)) s.bscale }) s

/-- Makes an area's state the unit's; banks take their recorded modes (R380), links and reservations end (R379). -/
def State.restore (s : State) (a : Area) (h : Nat) (ms : Bool) (loop : Loop) (wins : Vector Win 16) : State :=
  let ord := s.order h
  let live := high32 (a 8)
  let s := s.modCtx h (areaCtx a loop wins)
  let s := ((List.range ord.length).zip ord).foldl (fun s (j, q) =>
    let w := a (0x340 + 8 * (j / 2))
    let f := (if j % 2 = 0 then low32 w else high32 w).toNat
    let s := (List.range 16).foldl (fun (s : State) b => s.setBank q b (Nat.min 2 (f / 4 ^ b % 4))) s
    s.putCluster a h q (0x2000 + 0x6400 * j) live) s
  let s := if ms then s.putMsBlock a (coreOf h) (0x2000 + 0x6400 * ord.length) else s
  (s.acquire 3).modCtx h fun c => { c with park := .restored }

/-- The windows of an area; the levels of a GRID window are read again. -/
def areaWins (a : Area) (h : Nat) (grids : Bool) : Nat → State → Except (Nat × Word) (List Win) × State
  | 0, s => (.ok [], s)
  | n + 1, s =>
    let k := 15 - n
    let d := (List.range 8).map fun i => let w := a (0x800 + 64 * k + 8 * i); if i = 1 then w &&& 0xFF7FFFFFFFFFFFFF else w
    let bound := (a (0x808 + 64 * k)).getLsbD 55
    let go (l : List (Word × Word)) (s : State) : Except (Nat × Word) (List Win) × State :=
      after (areaWins a h grids n s) fun t s =>
        (.ok ((if bound then { bound := true, desc := d, levels := l, since := s.memLog.length, fresh := true } else {}) :: t), s)
    if bound ∧ grids then after (readLevels d s) go else go [] s

/-- A list of sixteen windows as the context holds them. -/
def winVec (l : List Win) : Vector Win 16 := Vector.ofFn fun i => l.getD i.val {}

def areaOf (l : List Word) : Area := let v := l.toArray; fun o => v.getD (o / 8) 0

/-- The words of an area, in order, by runs: whether a run is read back, and its length. What `xsave` does not write is not
read: the pc and x1 to x31, and registers whose live bit was clear (R377). -/
def areaRuns (n : Nat) (live : BitVec 32) (ms : Bool) : List (Bool × Nat) :=
  [(true, 8), (false, 32), (true, 984)] ++
  ((List.range n).flatMap fun _ => ((List.range 32).map fun r => (live.getLsbD r, 64)) ++ [(true, 1152)]) ++
  if ms then [(true, 20544)] else []

def readRuns (va : Word) : List (Bool × Nat) → State → Except (Nat × Word) (List Word) × State
  | [], s => (.ok [], s)
  | (yes, n) :: t, s =>
    after (if yes then loadWords va n s else (.ok (List.replicate n 0), s)) fun l s =>
      after (readRuns (va + BitVec.ofNat 64 (8 * n)) t s) fun r s => (.ok (l ++ r), s)

/-- The captured body, fetched again page by page for a loop of user mode; a failure has the causes of R184. -/
def refetch (sup : Bool) (a : Word) (n : Nat) (s : State) : Except (Nat × Word) (List Byte) × State :=
  let cause (e : Nat × Word) : Nat × Word := (if e.1 = 12 then 13 else 5, e.2)
  let go (a : Word) (n : Nat) (s : State) : Except (Nat × Word) (List Byte) × State :=
    if n = 0 then (.ok [], s)
    else
      let (r, s) := (if sup then (fun s => s.fetchBytes a n) else asUser fun s => s.fetchBytes a n) s
      (r.mapError cause, s)
  let first := Nat.min n (65536 - a.toNat % 65536)
  after (go a first s) fun l s => after (go (a + BitVec.ofNat 64 first) (n - first) s) fun r s => (.ok (l ++ r), s)

/-- Free values for every word of an area. -/
def freeWords : Nat → State → List Word × State
  | 0, s => ([], s)
  | n + 1, s =>
    let (w, s) := s.draw
    let (l, s) := freeWords n s
    (w :: l, s)

/-- A fault while the area is read: the unit's state is undefined until a later `xrest` (R184). Its registers,
windows' contents and streams become free values; its loop and the windows' levels stay out of it. -/
def State.restoreFault (s : State) (h n : Nat) (ms : Bool) (size cause : Nat) (tv : Word) : State :=
  let (l, s) := freeWords (size / 8) s
  let a := areaOf l
  let park := (s.ctx h).park
  let wins := match areaWins a h false 16 s with
    | (.ok w, _) => winVec w
    | (.error _, _) => (s.ctx h).wins
  let t := if (s.order h).length = n then s.restore a h ms (s.ctx h).loop wins else s
  (t.modCtx h fun c => { c with park := park }).trap cause tv

def xrestOp (va : Word) (s : State) : State :=
  let h := s.hart
  if va.toNat % 64 ≠ 0 then s.trap 4 va
  else
    let ord := s.order h
    let own := (s.ctx h).ownsMs
    let size := s.saveSize h
    let bad (b : Nat × Word) (s : State) : State := s.restoreFault h ord.length own size b.1 b.2
    match loadWords va 2 s with
    | (.error b, s) => bad b s
    | (.ok hd, s) =>
      let w := hd.getD 1 0
      let ms := w.getLsbD 0
      if fieldOf w 16 5 ≠ ord.length ∨ (ms ∧ !own) then s.trap 2 0
      else
        match readRuns va (areaRuns ord.length (high32 w) ms) s with
        | (.error b, s) => bad b s
        | (.ok l, s) =>
          let a := areaOf l
          match areaWins a h true 16 s with
          | (.error b, s) => bad b s
          | (.ok wins, s) =>
            let len := if (a 0x258).toNat = 1 ∨ (a 0x258).toNat = 2 then Nat.min (a 0x268).toNat 512 else 0
            match refetch ((a 0x278).getLsbD 33) (a 0x260) len s with
            | (.error b, s) => bad b s
            | (.ok body, s) => (s.restore a h ms (areaLoop a body) (winVec wins)).retire 6

def execXrest (o : T48) (s : State) : Out :=
  supervisorOnly s (sysBits 0x01 o) fun s => xrestOp (s.rx o.a) s

/-! `mfset` (R185) and `vrstset` (R186, R369). -/

/-- A mask bit is touched as its element, so it waits for the micro-threads of them all (R250). -/
def execMfset (o : T48) (s : State) : Out :=
  supervisorOnly s (sysBits 0x02 o) fun s =>
    let v := s.view
    let es := List.range v.vlmax
    match es.find? (s.mtRuns v) with
    | some e => s.stallFor 6 (s.mtAt v e).ppc (v.lag (es.filter (s.mtRuns v)) e)
    | none =>
    let old := es.map fun e => s.maskBit v 8 e
    let s := if o.a = 0#5 then s else s.setMaskBits v 8 (es.map fun e => (e, s.maskBit v o.a.toNat e))
    (s.setMaskBits v o.d.toNat (es.zip old)).retire 6

/-- A stopped strip restarts at iteration w: none of it where w lies beyond its end. -/
def restartStrip (w : Word) (t : Strip) : Strip :=
  let n := w.toNat
  if w = allOnes ∨ t.fin ≤ n then { t with size := 0, vl := 0, off := 0 }
  else
    let b := Nat.max n t.first
    { t with base := b, size := t.fin - b, vl := t.fin - b, off := 0 }

/-- Clears the bits of `mf` of a slot. -/
def State.clearSlotMf (s : State) (h slot : Nat) : State :=
  let ord := s.order h
  let c := s.ctx h
  let per := 512 * vtyLmul c.vty / vtySb c.vty
  (List.range per).foldl (fun s i =>
    let (q, p) := maskPlace ord (vtySb c.vty) (slot * per + i)
    let k := maskKey h q 8 p
    { s with mbit := sparsePut s.mbit k false, mpois := sparsePut s.mpois k false }) s

def execVrstset (o : T48) (s : State) : Out :=
  supervisorOnly s (sysBits 0x03 o) fun s =>
    let h := s.hart
    let j := (s.rx o.a).toNat % 16
    if (s.order h).length ≤ j then (s.wx o.d allOnes).retire 6
    else
      let old := (s.ctx h).vrst.toArray.getD j allOnes
      let w := s.rx o.b
      let s := if o.b = 0#5 then s
        else
          let s := s.modCtx h fun c => { c with vrst := c.vrst.setIfInBounds j w }
          match stripOf (s.ctx h) j with
          | some t =>
            if t.stop.isSome then (s.modCtx h fun c => modStrip c j (restartStrip w)).clearSlotMf h j else s
          | none => s
      (s.wx o.d old).retire 6

end Sys2Proof.Machine
end

