-- ==== Sys2Proof/Machine/Fleet.lean ====
section
/-! DEFINITION. Fences (R450), Temper and the clock (R352, R353, R453), stall accounts (R461), breakpoints and the
commands of a debug session (R457). -/

namespace Sys2Proof.Machine
open Sys2Proof

/-- In recovery mode a write to a management register is ignored (R443). -/
def State.managed (s : State) (k : State → State) : State := if s.plat.mode = 2 then s else k s

/-! Fences. -/

/-- The clusters of a context's order that stay with it. -/
def State.staying (s : State) (a : Nat) : List Nat :=
  (s.order a).filter fun q => (s.cluster q).owner = some a && !s.clusterFenced q

/-- A newly fenced cluster leaves its context at the next boundary and goes to no other. Where it is the last one of its unit,
that is pre-empted with it. -/
def State.fenceCluster (s : State) (q : Nat) : State :=
  let k := s.cluster q
  match k.attached with
  | none => s.setCluster q { k with owner := none, pend := false }
  | some a =>
    let s := if k.owner = some a ∧ !k.pend then s else s.setCluster q { k with owner := none, pend := false }
    if (s.staying a).isEmpty then s.requestUnit a else s

/-- Whether a unit occupies a core: its own, or that of a die of its span. -/
def Ctx.on (c : Ctx) (h g : Nat) : Bool :=
  c.unit.any fun u => coreOf h = g || (coreOf h % 32 = g % 32 && u.dies.contains (dieOfCore g))

/-- An exchange in flight fails with a die of its order, which has the lowest failing slot (R208). -/
def State.failExchange (s : State) (h d : Nat) : State :=
  s.modCtx h fun c =>
    if c.exchg = some none ∧ (s.order h).any (· / 128 = d) then { c with exchg := some (some ((s.order h).findIdx (· / 128 = d))) } else c

/-- The clusters of a die leave a context of a span unit, which detaches them at its next boundary (R28). -/
def State.loseDie (s : State) (h d : Nat) : State :=
  ((s.order h).filter (· / 128 = d)).foldl (fun (s : State) q =>
    s.setCluster q { s.cluster q with owner := none, pend := false }) (s.failExchange h d)

/-- A newly fenced core: its units are pre-empted. With its die, a span unit loses the clusters there (R28), and is
pre-empted only where its home is there: DESIGN CHOICE (log 96), it goes on with the rest of its dies. -/
def State.fenceCore (s : State) (die : Bool) (g : Nat) : State :=
  (s.ctxs.filter fun p => p.1 < 512 && p.2.on p.1 g).foldl (fun (s : State) p =>
    let span : Bool := p.2.unit.any (1 < ·.dies.length)
    let s := if die && span then s.loseDie p.1 (dieOfCore g) else s
    if die ∧ coreOf p.1 ≠ g then s else s.requestUnit p.1) s

/-- What follows a change of the fence registers. -/
def State.refence (s : State) (f : Plat → Plat) (die : Bool) : State :=
  let t : State := { s with plat := f s.plat }
  let cores := (List.range 128).filter fun g => t.coreFenced g && !s.coreFenced g
  let clus := (List.range 512).filter fun q => t.clusterFenced q && !s.clusterFenced q
  clus.foldl State.fenceCluster (cores.foldl (fun (t : State) g => t.fenceCore die g) t)

def execFenceDieWrite (v : BitVec 64) (s : State) : Out :=
  .next (s.managed fun s => s.refence (fun p => { p with fenceDie := v.extractLsb' 0 4 }) true)

/-- A bit vector with its k-th word of 64 bits replaced. -/
def setWord64 {w : Nat} (x : BitVec w) (k : Nat) (v : BitVec 64) : BitVec w :=
  (x &&& ~~~((0xFFFFFFFFFFFFFFFF : BitVec w) <<< (64 * k))) ||| (v.setWidth w <<< (64 * k))

def execFenceCoreWrite (k : Nat) (v : BitVec 64) (s : State) : Out :=
  .next (s.managed fun s =>
    if 2 ≤ k then s else s.refence (fun p => { p with fenceCore := setWord64 p.fenceCore k v }) false)

def execFenceClusterWrite (k : Nat) (v : BitVec 64) (s : State) : Out :=
  .next (s.managed fun s =>
    if 8 ≤ k then s else s.refence (fun p => { p with fenceCl := setWord64 p.fenceCl k v }) false)

/-- QUIET: no unit runs on a fenced core or cluster. -/
def State.quiet (s : State) : Bool :=
  !(s.ctxs.any fun p => p.1 < 512 && p.2.unit.isSome &&
    ((List.range 128).any (fun g => s.coreFenced g && p.2.on p.1 g) || (s.order p.1).any s.clusterFenced))

/-! Temper and the clock. -/

def temperRamp (w : Word) : Nat := (w.extractLsb' 0 11).toNat
def temperStep (w : Word) : Nat := (w.extractLsb' 12 2).toNat
def temperWord (power step ramp : Nat) : Word := BitVec.ofNat 64 (power * 2 ^ 32 + step * 2 ^ 12 + ramp)

def State.dieStep (s : State) (d : Nat) : Nat := sparseGet 0 s.plat.steps d

/-- A die takes a clock step. -/
def State.setStep (s : State) (d step : Nat) : State :=
  if s.dieStep d = step then s
  else { s with plat := { s.plat with steps := sparseSet 0 s.plat.steps d step, changes := saturate s.plat.changes 1 } }

/-- TEMPER: POWER, MAXSTEP and RAMP are clamped. A die that is too fast takes MAXSTEP. -/
def execTemperWrite (v : BitVec 64) (s : State) : Out :=
  .next (s.managed fun s =>
    let power := Nat.min (v.extractLsb' 32 16).toNat s.plat.cfg.power
    let step := Nat.max (temperStep v) s.plat.cfg.derate
    let ramp := Nat.min 1250 (Nat.max 64 (temperRamp v))
    let s : State := { s with plat := { s.plat with temper := temperWord power step ramp } }
    (List.range 4).foldl (fun (s : State) d => s.setStep d (Nat.max (s.dieStep d) step)) s)

/-- A window of a core ends: idle clocking has brought its count up to the fall limit. -/
def execTemperWindow (core : Nat) (s : State) : Out :=
  let c := s.core core
  .next (s.setCore core { c with
    busy := c.busy - 1250, last := Nat.min 1250 (Nat.max c.busy (c.last - c.ramp)), ramp := temperRamp s.plat.temper })

/-- Temper chooses a step for a die, no faster than MAXSTEP. -/
def execClockStepChange (die : Nat) (step : BitVec 2) (s : State) : Out :=
  .next (if 4 ≤ die then s else s.setStep die (Nat.max step.toNat (temperStep s.plat.temper)))

/-! Stall accounts. -/

/-- A write of STALLCTL; CLEAR empties the tables. -/
def execStallClear (v : BitVec 64) (s : State) : Out :=
  .next (s.managed fun s =>
    let p := { s.plat with stallctl := v &&& 0xFFFF800000000003 }
    { s with plat := if v.getLsbD 2 then { p with stalls := [], stallOvf := [] } else p })

/-! Breakpoints (R457). -/

def State.bpAddr (s : State) (m : Nat) : Word := sparseGet 0 s.plat.bps (2 * m)
def State.bpJob (s : State) (m : Nat) : Nat := ((sparseGet (0 : Word) s.plat.bps (2 * m + 1)).extractLsb' 48 16).toNat
def State.bpAction (s : State) (m : Nat) : Nat := ((sparseGet (0 : Word) s.plat.bps (2 * m + 1)).extractLsb' 0 2).toNat

/-- Where a context's CT and its strips stand: agent (16 the CT) and address. -/
def Ctx.heads (c : Ctx) : List (Nat × Word) :=
  if c.loop.mode = .ind ∧ !c.loop.strips.isEmpty then
    c.loop.strips.filterMap fun t =>
      if t.stop.isNone ∧ t.off < c.loop.body.length then some (t.slot, c.loop.start + BitVec.ofNat 64 t.off) else none
  else [(16, c.pc)]

/-- The heads that a breakpoint matches and has not reported. -/
def State.bpHits (s : State) (h m : Nat) : List (Nat × Word) :=
  let c := s.ctx h
  if s.bpAction m = 0 ∨ c.dbgStop then []
  else match c.unit with
    | some u => if u.job = s.bpJob m then c.heads.filter fun x => x.2 = s.bpAddr m && !c.matched.contains (x.1, m, x.2) else []
    | none => []

/-- The first unreported match of a breakpoint writes BREAK and may stop the context. -/
def execBreakpointMatch (hart m : Nat) (s : State) : Out :=
  .next (match s.bpHits hart m with
    | [] => s
    | x :: _ =>
      let job := s.bpJob m
      if s.traceHolds 2 job 64 then s
      else
        let stop : Bool := s.bpAction m = 2 && s.debugHolds hart
        let s := s.traceCtx 2 hart (s.bpAddr m) (BitVec.ofNat 64 ((if stop then 256 else 0) + m))
        s.modCtx hart fun c =>
          let c := { c with matched := c.matched ++ [(x.1, m, x.2)] }
          if stop then haltCtx c else c)

/-! Debug commands. -/

def debugTarget (cmd : Word) : Nat := (cmd.extractLsb' 0 9).toNat

/-- Whether a command is carried out: the context is stopped and the session holds its job. -/
def State.debugOpen (s : State) (h : Nat) : Bool := (s.ctx h).dbgStop && s.debugHolds h

/-- A dump: the save area with FORM 0 and LIVE all ones, pc and x1 to x31. -/
def execDebugDump (cmd : BitVec 64) (s : State) : Out :=
  let h := debugTarget cmd
  let base := (cmd &&& 0xFFFFFFFFFFFFF000).toNat
  .next (s.managed fun s =>
    if cmd.extractLsb' 10 2 ≠ 1#2 ∨ !s.debugOpen h then s
    else
      let c := s.ctx h
      let regs := areaFill 0x40 32 (c.pc :: (List.range 31).map fun k => c.x.toArray.getD (k + 1) 0)
      (s.areaWords h 0xFFFFFFFF 0 ++ regs).foldl (fun (s : State) (o, w) =>
        if s.installed (base + o) then s.physPut (base + o) w else s) s)

/-- A resume. -/
def execDebugResume (cmd : BitVec 64) (s : State) : Out :=
  let h := debugTarget cmd
  .next (s.managed fun s =>
    if cmd.extractLsb' 10 2 ≠ 2#2 ∨ !s.debugOpen h then s
    else s.modCtx h fun c => { c with
      dbgStop := false
      vrst := if c.loop.mode = .ind then Vector.replicate 16 allOnes else c.vrst })

end Sys2Proof.Machine
end

