-- ==== Sys2Proof/Machine/Recover.lean ====
section
/-! DEFINITION. Recovery of accepted work (R392, R447), the failure of a part, and the resets (R446). -/

namespace Sys2Proof.Machine
open Sys2Proof

/-! Committed point states. -/

/-- The committed point state of a unit of a launch. -/
def State.committed (s : State) (key index num : Nat) : Option Saved :=
  s.hearth.saved.find? fun r => r.journal && qKey r.job r.queue = key && r.index = index && r.num = num

/-- A copy of a committed point state as a unit that waits to resume. -/
def State.copySaved (s : State) (r : Saved) (mate : Option Nat) : Nat × State :=
  let id := s.hearth.nextId
  let s := (List.range r.banks.length).foldl (fun (s : State) j =>
    s.moveSlice true (virtHart r.id) (virtCluster r.id + j) (virtHart id) (virtCluster id + j)) s
  let s := if r.ms then
      (s.moveMs true (virtCore r.id) (virtCore id)).modMs (virtCore id) fun m => { m with owner := some (virtHart id) }
    else s
  let s := s.setCtx (virtHart id) { s.ctx (virtHart r.id) with unit := r.ref }
  (id, { s with hearth := { s.hearth with
    nextId := id + 1
    saved := s.hearth.saved ++ [{ r with id := id, journal := false, mate := mate, ref := none }] } })

/-- A unit, and the consumer's of a spliced one, waits to resume from its committed point state. -/
def State.revive (s : State) (key : Nat) (l : Launch) (num : Nat) : State :=
  match s.committed key l.index num with
  | none => s
  | some r =>
    match l.partner.bind fun i => s.committed key i num with
    | some c =>
      let (id, s) := s.copySaved c none
      (s.copySaved r (some id)).2
    | none => (s.copySaved r none).2

/-! What becomes of a taken packet. -/

/-- Units of a launch that have not retired. -/
def Launch.open (l : Launch) : List Nat := (List.range (pktUnits l.words)).filter fun n => !l.retired.contains n

/-- Whether every unit that has not retired has a committed point state. -/
def State.recoverable (s : State) (key : Nat) (l : Launch) : Bool :=
  pktType l.words = 1 && l.ppd ≠ 0 && l.open.all fun n => (s.committed key l.index n).isSome

/-- Whether a unit still runs, or waits to resume. -/
def State.present (s : State) (key index num : Nat) : Bool :=
  (s.ctxs.any fun p => p.2.unit.any fun u => qKey u.job u.queue = key && u.index = index && u.num = num) ||
  s.hearth.saved.any fun r => !r.journal && qKey r.job r.queue = key && r.index = index && r.num = num

/-- Disposes of one taken, incomplete packet. -/
def State.recoverOne (s : State) (key index : Nat) : State :=
  match s.launch? key index with
  | none => s
  | some l =>
    if l.status.isSome ∨ l.consumer then s
    else if s.recoverable key l ∧ (s.mateOf key l).all (s.recoverable key) then
      (l.open.filter fun n => !s.present key index n).foldl (fun (s : State) n => s.revive key l n) s
    else
      let s := match l.partner with
        | some p => s.endLaunch key p 5 id
        | none => s
      s.failLaunch key index 5 id

/-- The taken packets of every queue, in index order, that a test picks. -/
def State.recover (s : State) (pick : Nat → Launch → Bool) : State :=
  s.hearth.slots.foldl (fun (s : State) (key, q) =>
    (q.taken.filter (pick key)).foldl (fun (s : State) l => s.recoverOne key l.index) s) s

/-! Part failures. -/

/-- Launches that had ended before every write was performed, and that lose the rest of their writes with some contexts:
their completions were not journaled (R391), so they end INTERRUPTED (R392). -/
def State.interruptLeft (s : State) (gone : Nat → Bool) : State :=
  let stores := (s.ctxs.filter fun p => gone p.1 && !p.2.queue.isEmpty).filterMap (·.2.leftOf)
  let drains := (s.handles.filter fun p => gone (p.1 / 24 * 4)).flatMap fun p => p.2.drains.filterMap fun d =>
    (s.ctx d.hart).unit.map fun u => (qKey u.job u.queue, u.index)
  (stores ++ drains).foldl (fun (s : State) (key, index) => s.modLaunch key index fun l =>
      if l.status.isSome then { l with status := some 5, cause := 0, ustat := 0, funit := 0, stval := 0 } else l) s

/-- A context's unit is gone with its core: nothing of it is performed. -/
def State.loseHart (s : State) (h : Nat) : State :=
  let s := s.modCtx h fun c => { c with queue := [], cmds := [] }
  let s := if (s.ms (coreOf h)).owner = some h then s.modMs (coreOf h) fun m => { m with queue := [] } else s
  ((s.dropSplice h).freeClusters h).releaseUnit h

/-- What a core holds is lost. -/
def State.loseCore (s : State) (g : Nat) : State :=
  let harts := (s.ctxs.filter fun p => p.1 < 512 && coreOf p.1 = g && p.2.unit.isSome).map (·.1)
  let s := harts.foldl State.loseHart (s.interruptLeft fun h => h < 512 && coreOf h = g)
  let q := 4 * g
  { s with
    ctxs := s.ctxs.filter fun p => p.1 / 4 ≠ g
    clus := s.clus.filter fun p => p.1 / 4 ≠ g || p.2.attached.any fun h => coreOf h ≠ g
    cores := s.cores.filter (·.1 ≠ g), mss := s.mss.filter (·.1 ≠ g)
    bankMode := sparseClear s.bankMode (16 * q) (16 * q + 64), bankReq := sparseClear s.bankReq (16 * q) (16 * q + 64)
    scratch := sparseClear s.scratch (16 * q * 65536) ((16 * q + 64) * 65536)
    scratchPois := sparseClear s.scratchPois (16 * q * 16384) ((16 * q + 64) * 16384)
    ways := s.ways.filter fun p => p.1 / 2 ^ 46 / 4 ≠ g
    tlb := s.tlb.filter (·.core ≠ g)
    plate := sparseClear s.plate (g * 4194304) ((g + 1) * 4194304)
    platePois := sparseClear s.platePois (g * 4194304) ((g + 1) * 4194304)
    segs := sparseClear s.segs (64 * g) (64 * g + 64)
    cruc := sparseClear s.cruc (24 * g * 32768) ((24 * g + 24) * 32768)
    crucPois := sparseClear s.crucPois (24 * g * 32768) ((24 * g + 24) * 32768)
    handles := s.handles.map fun p => if p.1 / 24 = g then (p.1, { p.2 with drains := [], fault := none }) else p }

/-- Clusters of a span unit on a failed die detach at its next boundary (R28). DESIGN CHOICE (log 96): until then their
registers read as they were. -/
def State.detachDie (s : State) (d : Nat) : State :=
  (s.ctxs.filter fun p => p.1 < 512 && dieOfCore (coreOf p.1) ≠ d && p.2.unit.isSome && (s.order p.1).any (· / 128 = d)).foldl
    (fun (s : State) p => s.loseDie p.1 d) s

/-- Cores fail together: their units are lost, and recovery disposes of the launches that had one. -/
def State.failCores (s : State) (gs : List Nat) : State :=
  let lost := s.ctxs.filterMap fun p =>
    if p.1 < 512 ∧ gs.any (fun g => coreOf p.1 = g) then p.2.unit.map fun u => (qKey u.job u.queue, u.index) else none
  let s : State := { s with plat := { s.plat with
    failed := gs.foldl (fun v g => v ||| (1#128 <<< g)) s.plat.failed } }
  let s := gs.foldl State.loseCore s
  let s := (s.ctxs.map (·.1)).foldl State.dropKept s
  let s := s.recover fun key l => lost.contains (key, l.index) || l.partner.any fun i => lost.contains (key, i)
  let s := (List.range 256).foldl (fun (s : State) j => s.moveHomes j) s
  s.hearth.jobs.foldl (fun (s : State) j => s.settleJob j.1) s

/-! The loss of both copies of the journal (R391, R392, R449). -/

/-- Neither copy of the journal survives: the one in HBM (`Config.journalStack`) and the one in the LPDDR tier. -/
def State.journalGone (s : State) : Bool :=
  s.plat.deadStacks.contains 8 && s.plat.deadStacks.contains (Config.journalStack % 8)

/-- A queue whose packets from an index on no copy records: they are gone, and their units stop. -/
def State.loseFrom (s : State) (key first : Nat) : State :=
  match s.slot? key with
  | none => s
  | some q =>
    let lost (r : Saved) : Bool := qKey r.job r.queue = key && first ≤ r.index
    let s := (s.hearth.saved.filter lost).foldl (fun (s : State) r => s.dropVirtual r.id) s
    let s := (q.taken.filter (first ≤ ·.index)).foldl (fun (s : State) l => (s.unitsOf key l.index).foldl State.killUnit s) s
    let s : State := { s with
      hearth := { s.hearth with runs := s.hearth.runs.filter (·.1 ≠ key), saved := s.hearth.saved.filter fun r => !lost r }
      plat := { s.plat with glost := bumpHigh s.plat.glost (q.acc - first) } }
    let s := s.modSlot key fun q => { q with
      read := Nat.min q.read first, tail := first, acc := first, journal := q.journal.filter (·.1 < first)
      copies := q.copies.filter (·.1 < first), ready := none, waits := none, taken := q.taken.filter (·.index < first)
      cancels := q.cancels.filter (· < first), cut := if first = q.cdone then 0 else q.cut, later := []
      graphFrom := Nat.min q.graphFrom first, phaseFrom := Nat.min q.phaseFrom first }
    ((s.recPut key 0x08 (Nat.min q.read first)).recPut key 0x10 first).recPut key 0x18 first

/-- A queue of which no copy records a packet. -/
def State.loseQueue (s : State) (key : Nat) : State :=
  match s.slot? key with
  | none => s
  | some q => s.loseFrom key q.cdone

/-- Whether an entry of a copy bears out its tag (R447). -/
def JEntry.verified (e : JEntry) (key index : Nat) : Bool := e.tag == journalTag key index e.words

/-- How many of a queue's accepted packets the longer of the two verified prefixes holds (R447): entry by entry, in each copy
that its part still holds. -/
def QSlot.verified (q : QSlot) (key : Nat) (hbm tier : Bool) : Nat :=
  let good (pick : JEntry × JEntry → JEntry) : Nat := ((List.range (q.acc - q.cdone)).takeWhile fun i =>
    (q.copies.find? (·.1 = q.cdone + i)).any fun e => (pick e.2).verified key (q.cdone + i)).length
  Nat.max (if hbm then good (·.1) else 0) (if tier then good (·.2) else 0)

/-- Stage 3 takes of each queue what the longer verified prefix holds; the rest is lost, and GLOST counts it (R392, R447). -/
def State.verifyJournal (s : State) : State :=
  s.hearth.slots.foldl (fun (s : State) (key, q) =>
    let first := q.cdone + q.verified key (!s.plat.deadStacks.contains (Config.journalStack % 8)) (!s.plat.deadStacks.contains 8)
    if first < q.acc then
      let s := s.loseFrom key first
      { s with plat := { s.plat with glost := bumpLow s.plat.glost 1 } }
    else s) s

/-- An entry of a copy of the journal no longer bears out its tag. -/
def State.strikeJournal (s : State) (tier : Bool) (key index : Nat) : State :=
  let bad (e : JEntry) : JEntry := { e with tag := [] }
  s.modSlot key fun q => { q with copies := q.copies.map fun p =>
    if p.1 = index then (p.1, if tier then (p.2.1, bad p.2.2) else (bad p.2.1, p.2.2)) else p }

/-- HBM stacks, or the LPDDR tier (8), fail: `outside` says whether that is by itself an event outside the guarantee. Once the
second copy of the journal is lost, no accepted packet goes on, and GLOST counts them: DESIGN CHOICE (log 98). -/
def State.failStacks (s : State) (ks : List Nat) (outside : Bool) : State :=
  let t : State := { s with plat := { s.plat with deadStacks := (s.plat.deadStacks ++ ks).eraseDups } }
  let lost : Bool := t.journalGone && !s.journalGone
  let t : State := if outside || lost then { t with plat := { t.plat with glost := bumpLow t.plat.glost 1 } } else t
  if lost then t.hearth.slots.foldl (fun (t : State) p => t.loseQueue p.1) t else t

/-- A part fails. A core that only a span unit of another home uses takes that unit with it. -/
def execPartFailure (part : Part) (s : State) : Out :=
  .next (match part with
    | .core g =>
      if 128 ≤ g then s
      else
        let spans := (s.ctxs.filter fun p => p.1 < 512 && coreOf p.1 ≠ g && p.2.on p.1 g).map (·.1)
        let lost := spans.filterMap fun h => (s.ctx h).unit.map fun u => (qKey u.job u.queue, u.index)
        let s := spans.foldl State.loseHart s
        let s := s.failCores [g]
        s.recover fun key l => lost.contains (key, l.index)
    | .die d =>
      if 4 ≤ d then s
      else
        let s := s.loseMigrations (d * 2 ^ 37) (2 ^ 37)
        let gs := (List.range 32).map (32 * d + ·)
        let keep := s.ctxs.any fun p => p.1 < 512 && dieOfCore (coreOf p.1) ≠ d && p.2.unit.isSome
        let s := if keep then s.detachDie d else s
        let s := s.failCores gs
        s.failStacks [2 * d, 2 * d + 1] false
    | .stack k =>
      if 8 < k then s
      else
        let s := if k = 8 then s.loseMigrations 0x20000000000 0x20000000000
          else s.loseMigrations (k / 2 * 2 ^ 37) (2 ^ 37)
        s.failStacks [k] (k = 8)
    | .port p => if 16 ≤ p then s else s.downPort p)

/-! Resets. -/

/-- Management registers at their reset values; what boot reads from the flash comes later. -/
def Plat.reset (p : Plat) : Plat :=
  { flash := p.flash, helperGone := p.helperGone, cfgsvn := p.cfgsvn, qcount1 := p.qcount1, qcount2 := p.qcount2
    hostMem := p.hostMem, answer := none, linkGen := p.linkGen, linkLanes := p.linkLanes, linkCxl := p.linkCxl
    lanesUp := p.lanesUp, traceOut := p.traceOut }

/-- A queue as the journal restores it: the take that was under way is begun again, and TAIL follows ACC. -/
def QSlot.restored (q : QSlot) : QSlot := { q with tail := q.acc, ready := none, waits := none }

/-- The TAIL of a queue's record falls back to ACC: its announcements since were lost, and come again (R447). -/
def State.retail (s : State) (key : Nat) : State :=
  match (s.slot? key).map (·.acc) with
  | some acc => s.recPut key 0x10 acc
  | none =>
    match s.hubWord (key / 65536) (s.qRecord key + 0x18) with
    | (some acc, s) => s.recPut key 0x10 acc.toNat
    | (none, s) => s

/-- An INSTALL that a reset interrupts leaves its target slot invalid (R441). -/
def State.dropInstall (s : State) : State :=
  match s.plat.mbcmd with
  | some (3, k) => if 1 < k.toNat ∨ k.toNat = s.plat.bootSlot then s else s.spoil k.toNat
  | _ => s

/-- A warm reset (R447): memory, extents, jobs, counters and journal are kept; all that the dies hold is lost. -/
def State.warm (s : State) : State :=
  let s := s.dropInstall.interruptLeft fun h => h < 512
  let kept := s.hearth.saved.filter (·.journal)
  let virt (k size : Nat) : Bool := kept.any fun r => k / size = virtCore r.id
  let p := s.plat.reset
  { State.reset with
    agenda := s.agenda, tick := s.tick, free := s.free
    mem := s.mem, memPois := s.memPois, dirty := s.dirty
    ctxs := s.ctxs.filter fun e => virt e.1 4
    mss := s.mss.filter fun e => virt e.1 1
    vreg := s.vreg.filter fun e => virt e.1 65536
    vpois := s.vpois.filter fun e => virt e.1 65536
    mbit := s.mbit.filter fun e => virt e.1 294912
    mpois := s.mpois.filter fun e => virt e.1 294912
    mts := s.mts.filter fun e => virt e.1 2048
    billets := s.billets.filter fun e => virt e.1 8
    brow := s.brow.filter fun e => virt e.1 131072
    bpois := s.bpois.filter fun e => virt e.1 131072
    bscale := s.bscale.filter fun e => virt e.1 8192
    handles := (s.handles.filter fun e => e.2.job.isSome).map fun e => (e.1, { job := e.2.job })
    hearth := { s.hearth with
      saved := kept, runs := [], rotation := []
      slots := s.hearth.slots.map fun e => (e.1, e.2.restored) }
    plat := { p with
      extents := s.plat.extents, failed := s.plat.failed, deadStacks := s.plat.deadStacks, glost := s.plat.glost, restore := true } }

/-- What stage 3 does with the journal after a warm reset (R447). -/
def State.restoreJournal (s : State) : State :=
  let s := s.verifyJournal
  let s := (s.hearth.waiting ++ s.hearth.slots.map (·.1)).foldl State.retail s
  let s : State := { s with hearth := { s.hearth with waiting := [] } }
  let s := s.recover fun _ _ => true
  s.hearth.jobs.foldl (fun (s : State) j => s.settleJob j.1) s

/-- A cold reset: device memory and the journal are lost; host and peer memory is not the device's. -/
def State.cold (s : State) : State :=
  let s := s.dropInstall
  { State.reset with
    agenda := s.agenda, tick := s.tick, free := s.free
    mem := s.mem.filter fun c => !onDevice c.1
    plat := s.plat.reset }

def execColdReset (s : State) : Out := .next s.cold
def execWarmReset (s : State) : Out := .next s.warm

/-- The Hearth watchdog expires. -/
def execHearthWatchdog (s : State) : Out := .next s.warm

/-- A function-level reset of VF g: its jobs are cancelled and ended, and their registers reset. -/
def execVfFlr (vf : Nat) (s : State) : Out :=
  .next (if Nat.min 16 s.plat.cfg.nvf ≤ vf then s
    else (List.range 16).foldl (fun (s : State) k =>
      let j := 16 * vf + k
      let st := (s.job j).state
      if st = 1 ∨ st = 2 then ((s.cancelJob j).modJob j fun v => { v with state := 2, flr := true }).settleJob j
      else s.setJob j {}) s)

/-! Quench (R445). -/

def State.quench1 (s : State) : State :=
  let s := s.warm
  { s with plat := { s.plat with keys := false, qcount1 := s.plat.qcount1 + 1 } }

def State.quench2 (s : State) : State :=
  let s := s.cold
  { s with plat := { s.plat with keys := false, helperGone := true, qcount2 := s.plat.qcount2 + 1 } }

def execQuenchLevel1 (s : State) : Out := .next s.quench1
def execQuenchLevel2 (s : State) : Out := .next s.quench2

end Sys2Proof.Machine
end

