-- ==== Sys2Proof/Machine/Boot.lean ====
section
/-! DEFINITION. Identity and boot (R434 to R440), the recovery mailbox (R441 to R444), and the opening of
debug sessions (R457). -/

namespace Sys2Proof.Machine
open Sys2Proof

/-! Verification of a firmware image (R436, R440): 0, or the reason. -/

def imageReason (bs : List Byte) (minfw : Nat) : Nat :=
  let size := field bs 0x10 8
  let want := part bs 0x20 64
  if field bs 0 4 ≠ 0x46575842 ∨ field bs 4 4 ≠ 0 ∨ field bs 0x0C 4 ≠ 0 ∨ field bs 0x18 8 ≠ 0 ∨ size = 0 ∨ 0x1000000 - 0x8000 < size then 1
  else if digest (part bs 0x8000 size) ≠ want then 2
  else if !slhVerify rootKey (part bs 0 0x60) (part bs 0x60 29792) then 3
  else if field bs 8 4 < minfw then 4
  else 0

def State.slotReason (s : State) (slot minfw : Nat) : Nat :=
  if Config.flashFails slot s.tick then 5 else imageReason (s.flashBytes (slotBase slot) 0x1000000) minfw

/-! The configuration record (R437). -/

def State.record (s : State) : List Byte := s.flashBytes 0 0x7560

def recordValid (bs : List Byte) (cfgsvn : Nat) : Bool :=
  field bs 0 4 = 0x47464358 && field bs 0x2C 4 < 2 && (part bs 0x87 (0x100 - 0x87)).all (· == 0) &&
  slhVerify rootKey (part bs 0 0x100) (part bs 0x100 29792) &&
  part bs 8 32 == devId && decide (cfgsvn ≤ field bs 4 4)

def cfgOf (bs : List Byte) : Cfg :=
  { cfence := BitVec.ofNat 128 (field bs 0x30 16), clfence := BitVec.ofNat 512 (field bs 0x40 64)
    ports := BitVec.ofNat 16 (field bs 0x80 2), nvf := Nat.min 16 (field bs 0x82 1), derate := Nat.min 3 (field bs 0x83 1)
    power := Nat.min 2400 (field bs 0x84 2), debug := field bs 0x86 1 }

/-! Boot (R439). -/

def Plat.extend (p : Plat) (k : Nat) (d : List Byte) : Plat :=
  { p with meas := sparsePut p.meas k (digest (sparseGet (List.replicate 64 0) p.meas k ++ d)) }

def State.recoveryMode (s : State) : State := { s with plat := { s.plat with mode := 2 } }

/-- The firmware slots in the order in which they are tried. -/
def State.tryOrder (s : State) : List Nat := if field s.record 0x2C 4 % 2 = 1 then [1, 0] else [0, 1]

/-- Stage 2: the slot that passes, with the reasons of those that did not. -/
def State.pickSlot (s : State) (minfw : Nat) : List Nat → State
  | [] => s
  | k :: t =>
    match s.slotReason k minfw with
    | 0 =>
      let bs := s.flashBytes (slotBase k) 0x60
      { s with plat := { s.plat.extend 2 (part bs 0x20 64) with bootSlot := k, fwsvn := field bs 8 4 } }
    | r => State.pickSlot { s with plat := if k = 0 then { s.plat with aReason := r } else { s.plat with bReason := r } } minfw t

/-- Stages 3 and 4: the record is applied, and the device is ready. -/
def State.bringUp (s : State) : State :=
  let c := cfgOf s.record
  let f := Config.stage3 s.tick % 5
  let p := s.plat.extend 3 (fit 64 Config.monitorDigest)
  if f ≠ 0 then { s with plat := { s.plat with fatal := f } }
  else
    let s : State := { s with plat := { p with
      cfg := c, temper := temperWord c.power c.derate 1250
      steps := if c.derate = 0 then [] else (List.range 4).map fun d => (d, c.derate) } }
    let s := if s.plat.restore then s.restoreJournal else s
    { s with plat := { s.plat with restore := false, mode := 1 } }

/-- A boot (log 61: its stages are one step). -/
def State.boot (s : State) : State :=
  if s.plat.mode ≠ 0 ∨ s.plat.fatal ≠ 0 then s
  else
    let r := s.record
    let s : State := { s with plat := (s.plat.extend 0 (digest rootKey)).extend 1 (digest (part r 0 0x100)) }
    if s.plat.helperGone ∨ !Config.pufRebuilds s.tick (s.flashBytes 0x10000 0x10000) then { s with plat := { s.plat with idLost := true, mode := 2 } }
    else
      let s : State := { s with plat := { s.plat with keys := true } }
      if !s.replayGood ∨ !recordValid r s.plat.cfgsvn then
        { s with plat := { s.plat with cfgFail := true, mode := 2 } }
      else
        let s : State := { s with plat := { s.plat with cfgsvn := Nat.max s.plat.cfgsvn (field r 4 4) } }
        let s := s.pickSlot (field r 0x28 4) s.tryOrder
        if s.plat.bootSlot = 15 then s.recoveryMode else s.bringUp

/-! The mailbox. -/

def Plat.mbstat (p : Plat) : Nat :=
  p.bReason * 2 ^ 20 + p.aReason * 2 ^ 16 + p.bootSlot * 2 ^ 8 + p.cmdst * 2 ^ 4 +
  (if p.idLost then 8 else 0) + (if p.cfgFail then 4 else 0) + p.mode

def State.mbEnd (s : State) (st : Nat) : State := { s with plat := { s.plat with cmdst := st, mbcmd := none } }

/-- Whether a command may not run now: another one has begun and CMDST is BUSY (R441), or the boot goes on (log 82). -/
def Plat.mbBars (p : Plat) (c : Nat) (arg : BitVec 8) : Bool := p.mode = 0 || (p.cmdst = 1 && p.mbcmd ≠ some (c, arg))

/-- A write to MBCMD begins a command: CMDST is BUSY until it has run (R441). EXTEND has no effect in recovery mode (R443); a
number that names no command fails. -/
def State.mbStart (s : State) (c : Nat) (arg : BitVec 8) : State :=
  if s.plat.mode = 0 ∨ s.plat.cmdst = 1 ∨ (c = 4 ∧ s.plat.mode = 2 ∧ !s.plat.idLost) then s
  else if c = 0 ∨ 5 < c then s.mbEnd (if s.plat.idLost then 4 else 3)
  else { s with plat := { s.plat with cmdst := 1, mbcmd := some (c, if c = 3 ∨ c = 4 then arg else 0) } }

/-- A command runs, in normal or recovery mode: CMDST is BUSY while it does, and without an identity it ends so (R443). -/
def State.mbox (s : State) (c : Nat) (arg : BitVec 8) (k : State → State) : State :=
  if s.plat.mbBars c arg then s
  else if s.plat.idLost then s.mbEnd 4
  else k { s with plat := { s.plat with cmdst := 1 } }

def State.putMbdata (s : State) (bs : List Byte) : State :=
  { s with plat := { s.plat with
    mbdata := ((List.range bs.length).zip bs).foldl (fun m (i, b) => sparseSet 0 m i b) s.plat.mbdata } }

def execMbCert (s : State) : Out :=
  .next (s.mbox 1 0 fun s => (s.putMbdata (s.flashBytes 0x20000 0x10000)).mbEnd 2)

/-- The signed part of a report (R444). -/
def State.report (s : State) : List Byte :=
  let p := s.plat
  natLe 4 0x54415842 ++ natLe 4 p.mbstat ++ natLe 4 p.cfgsvn ++ natLe 4 (if p.bootSlot = 15 then 0 else p.fwsvn) ++
  List.replicate 16 0 ++ ((List.range 32).map fun i => sparseGet 0 p.mbnonce i) ++
  ((List.range 8).flatMap fun k => sparseGet (List.replicate 64 0) p.meas k) ++
  devId ++ natLe 4 p.qcount1 ++ natLe 4 p.qcount2 ++ List.replicate 24 0

def execMbAttest (s : State) : Out :=
  .next (s.mbox 2 0 fun s =>
    let r := s.report
    (s.putMbdata (r ++ slhSign identityKeys.1 (fit 32 (Config.signRand s.tick)) r)).mbEnd 2)

/-- The bytes of the image to install, to the end of its body. -/
def State.imageToInstall (s : State) : List Byte :=
  let get (n : Nat) : List Byte := if s.plat.mode = 2 then uploadBytes s 0 n else s.memBytes s.plat.mbarg.toNat n
  get (0x8000 + Nat.min (0x1000000 - 0x8000) (field (get 0x60) 0x10 8))

def execMbInstall (slot : BitVec 8) (s : State) : Out :=
  .next (s.mbox 3 slot fun s =>
    let k := slot.toNat
    let minfw := field s.record 0x28 4
    if 1 < k ∨ k = s.plat.bootSlot then s.mbEnd 3
    else
      let img := s.imageToInstall
      if imageReason img minfw ≠ 0 then (s.spoil k).mbEnd 3
      else
        let t := s.putFlash (slotBase k) img
        if t.slotReason k minfw ≠ 0 then (t.spoil k).mbEnd 3 else t.mbEnd 2)

def execMbExtend (k : BitVec 8) (s : State) : Out :=
  .next (if s.plat.mode = 2 ∧ !s.plat.idLost then s else s.mbox 4 k fun s =>
    if k.toNat < 4 ∨ 7 < k.toNat then s.mbEnd 3
    else
      let d := (List.range 64).map fun i => sparseGet 0 s.plat.mbdata i
      State.mbEnd { s with plat := s.plat.extend k.toNat d } 2)

def execMbReset (s : State) : Out := .next (if s.plat.mbBars 5 0 then s else s.warm)

/-! Debug sessions. -/

/-- The job and expiry of a token that unlocks (R457). -/
def State.token (s : State) (pa : Nat) : Option (Nat × Word) :=
  let bs := s.memBytes pa (64 + 29792)
  let job := field bs 40 8
  let expiry := BitVec.ofNat 64 (field bs 48 8)
  if s.plat.cfg.debug = 1 ∧ field bs 0 4 = 0x4B544244 ∧ field bs 4 4 = 0 ∧ part bs 8 32 = devId ∧ job < 65536 ∧ field bs 56 8 = 0 ∧
      slhVerify rootKey (part bs 0 64) (part bs 64 29792) ∧ s.time.toNat < expiry.toNat then some (job, expiry)
  else none

def execDebugSessionClose (s : State) : Out :=
  .next (s.managed fun s => { s with plat := { s.plat with debug := none } })

/-- A write of DBGTOK other than 0: a session, or a level 1 alarm (R445). -/
def execDebugSessionOpen (pa : BitVec 64) (s : State) : Out :=
  .next (s.managed fun s =>
    if pa = 0 then { s with plat := { s.plat with debug := none } }
    else match s.token pa.toNat with
      | some t => { s with plat := { s.plat with debug := some t } }
      | none => s.quench1)

def execDebugSessionExpiry (s : State) : Out :=
  .next (match s.plat.debug with
    | some (_, e) => if e.toNat ≤ s.time.toNat then { s with plat := { s.plat with debug := none } } else s
    | none => s)

end Sys2Proof.Machine
end

