-- ==== Sys2Proof/Machine/Monitor.lean ====
section
/-! DEFINITION. Pre-emption at the boundaries of a context (R305, R338, R349, R392), MS and drain faults on the CT
(R282), drains that end (R290), and what the core monitor that Dvorlia ships does with a trap (R366 to R371), with
the answers of the pager and of the host. -/

namespace Sys2Proof.Machine
open Sys2Proof

/-- Whether a light point that is due can be taken: at the end of the strip in a `.seq` body, once every strip has
ended in a `.ind` body, and in a spliced unit with P at the same boundary (R305, R338). -/
def State.pointReady (s : State) (h : Nat) : Bool :=
  let c := s.ctx h
  let ended : Bool := match c.loop.mode with
    | .off => true
    | .seq => c.loop.gap
    | .ind => c.loop.strips.isEmpty
  c.unit.isSome && c.preempt && c.pointDue && c.mode = .user && ended &&
  match s.spliceMate h with
  | none => true
  | some _ => s.isConsumer h && (s.splice h).cAt = 2 && s.aligned h

/-- No die that a span unit loses waits to be detached at the end of the strip that runs (R28, R355). -/
def State.keepsDies (s : State) (h : Nat) : Bool :=
  s.betweenStrips (s.holder h) || !((s.ctx h).unit.any (1 < ·.dies.length)) || !(s.order h).any fun q => s.dieGone (q / 128) (coreOf h % 32)

/-- Whether every context of a unit stands where a forced pre-emption may take it (R338, R350). -/
def State.forcible (s : State) (h : Nat) : Bool :=
  let ok (c : Ctx) : Bool := c.mode = .user && c.park = .no
  ok (s.ctx h) && s.keepsDies h && match s.spliceMate h with
    | none => true
    | some m => ok (s.ctx m) && s.aligned h

/-- A request that must be taken at this boundary: no point was reached in time, or the unit declares none (R349). -/
def State.overdue (s : State) (h : Nat) : Bool :=
  !(h :: (s.spliceMate h).toList).any (fun k => (s.ctx k).fetching.isSome || (s.ctx k).loop.strips.any (·.fetching.isSome)) &&
  (s.ctx h).unit.isSome && s.forcedDue h && s.forcible h

def execForcedPreemption (hart : Nat) (s : State) : Out :=
  .next (if s.overdue hart then s.takeRequest hart false else s)

/-- A request for a committed point state (R392): the queue has CKPT and the launch a PPD. -/
def execCheckpointPreempt (hart : Nat) (s : State) : Out :=
  .next (match s.launchOf hart with
    | none => s
    | some (key, l) =>
      if l.ppd = 0 ∨ (((s.slot? key).map fun q => w48Ckpt q.w48).getD 0) = 0 ∨ (s.ctx hart).preempt then s
      else
        let ask (s : State) (h : Nat) : State := s.modCtx h fun c => { c with preempt := true, preemptAt := s.tick, ckpt := true }
        let s := ask s hart
        match s.spliceMate hart with
        | some m => ask s m
        | none => s)

/-! MS and drain faults (R282), drains (R290). -/

/-- The oldest MS fault of a unit is raised on its CT, at an instruction boundary of the user's. -/
def execMsFaultReport (core : Nat) (s : State) : Out :=
  .next (match (s.ms core).owner with
    | none => s
    | some h =>
      let c := s.ctx h
      match c.msFaults with
      | w :: rest =>
        if c.unit.isNone ∨ c.mode ≠ .user ∨ !c.loop.strips.isEmpty then s
        else s.modCtx h fun c => trapEntry { c with msFaults := rest } false 35 c.pc w none
      | [] => s)

/-- The oldest drain of a handle ends, and EVENT 2 names the handle. -/
def execDrainComplete (core h : Nat) (s : State) : Out :=
  let key := 24 * core + h
  .next (match (s.handle key).drains with
    | [] => s
    | d :: _ => match s.runDrain key with
      | .waits => s
      | .unmapped va => s.fatal d.hart 24 va
      | .ended t _ => (s.completing d.hart (.drain key) (some { event := 2, tag := h }) fun _ => t.dropKept d.hart).settleJob d.job)

/-! The core monitor. -/

/-- Pages of group 1: of each element in `mf`, at most 256 (R367), of the fault address of the MS (R282), of the
micro-threads that wait for a page (R370), or of the reported address. -/
def State.group1 (s : State) (h : Nat) : List Nat :=
  let c := s.ctx h
  let one (va : Word) : Nat := va.toNat / 65536
  if c.scause = 24 ∧ c.batch ≠ [] then c.batch.take 256
  else if c.scause = 35 then [one (s.ms (coreOf h)).faultAddr]
  else if c.scause = 30 then
    ((s.mts.filter fun p => p.1 / 128 % 4 = ctxNo h && (s.order h).contains (p.1 / 512)).filterMap fun p =>
      match p.2.state, p.2.fault, c.unit with
      | .faulted, some (cause, k, off), some u =>
        if cause = 12 then some (one (u.blkBase + BitVec.ofNat 64 (8 * k)))
        else if cause = 24 then
          (s.hubWord u.job (u.blkBase + BitVec.ofNat 64 (8 * k))).1.map fun w =>
            one ((c.win (w.extractLsb' 60 4).toNat).base + off.zeroExtend 64)
        else none
      | _, _, _ => none).eraseDups
  else [one c.stval]

/-- A page of the unit's job is resident: its entry is valid. -/
def State.resident (s : State) (job page : Nat) : Bool :=
  match (walk s (s.hubSpace job) (BitVec.ofNat 64 (page * 65536)) false).1 with
  | .error .page => false
  | _ => true

def State.ctxJob (s : State) (h : Nat) : Nat := ((s.ctx h).unit.map (·.job)).getD 0

/-- Micro-threads whose pages have come run again (R370). -/
def State.resumeThreads (s : State) (h : Nat) : State :=
  { s with mts := s.mts.map fun p =>
      if p.1 / 128 % 4 = ctxNo h ∧ (s.order h).contains (p.1 / 512) then (p.1, resumeThread p.2) else p }

/-- Whether the `xsave` of R367 has nothing to wait for: the unit's stores are performed, and its write streams placed up to
an element that is kept (R183). -/
def State.quiesced (s : State) (h : Nat) : Bool :=
  !s.storesWait h && (s.ctx h).streams.toList.all fun t =>
    !(t.bound && t.isWrite && s.toMemory h t) || t.kept.isSome || t.accepted.isEmpty

/-- What the `xsave` and `xrest` of R367 leave: no prefetched data, an empty PARAM path, and an acquire (R379). -/
def State.resaved (s : State) (h : Nat) : State :=
  (s.modCtx h fun c => { c with
    streams := c.streams.map fun t => { t with fetched := [] }
    wins := c.wins.map fun w => { w with since := s.memLog.length, fresh := w.bound } }).dropWays (coreOf h)

/-- Back to the user, after what a cause asks for. -/
def State.release (s : State) (h : Nat) : State :=
  let s := s.modCtx h fun c => { c with pagerWait := false, poolWait := false, asked := [] }
  let s := if (s.ctx h).scause = 30 then s.resumeThreads h else s
  let s := if (s.ctx h).scause = 24 then s.resaved h else s
  s.sret h

/-- The pager's answer as a waiting context finds it: fatal where a page of group 1 is unmapped. -/
def State.settlePager (s : State) (h : Nat) : State :=
  let c := s.ctx h
  if !c.pagerWait then s
  else
    let job := s.ctxJob h
    let l := s.group1 h
    if l.any fun p => s.hearth.unmapped.contains (job, p) then s.fatal h c.scause.toNat c.stval
    else if l.all (s.resident job) then s.release h
    else s

/-- Adds the pages of the addresses from number k on to a list of distinct ones, up to 256. -/
def pagesFrom (at' : Nat → Nat) : Nat → Nat → List Nat → List Nat
  | 0, _, l => l
  | n + 1, k, l =>
    if 256 ≤ l.length then l
    else
      let p := at' k / 65536
      pagesFrom at' n (k + 1) (if l.contains p then l else l ++ [p])

/-- Group 2 of the batch: the later iterations' elements of a unit-stride or strided access (R367). -/
def group2 (c : Ctx) (l : List Nat) : List Nat :=
  if c.sfdesc.getLsbD 38 ∧ (c.sfdesc.extractLsb' 44 4).toNat < 2 then
    pagesFrom (fun k => (c.sfbase + BitVec.ofNat 64 k * c.sfstride).toNat) c.sfrem.toNat (c.sfdesc.extractLsb' 0 16).toNat l
  else l

/-- Group 3: the positions ahead of each bound stream (R367). -/
def group3 (c : Ctx) (l : List Nat) : List Nat :=
  let ahead := (c.sfdesc.extractLsb' 0 16).toNat + c.sfrem.toNat
  (c.streams.toList.filter (·.bound)).foldl (fun l t =>
    let p := if t.inLoop then t.loopPos + c.loop.base else t.pos
    pagesFrom (fun k => (c.under (BitVec.ofNat 64 (t.bitAddr k / 8))).toNat) (Nat.min t.length (p + ahead) - p) p l) l

/-- The batch of a trap: group 1, and with cause 24 groups 2 and 3 (R367). -/
def State.batchOf (s : State) (h : Nat) : List Nat :=
  let c := s.ctx h
  let one := ((s.group1 h).eraseDups).take 256
  if c.scause = 24 then group3 c (group2 c one) else one

/-- A trap that needs pages: its batch goes to the pager and the unit waits (R367). -/
def State.callPager (s : State) (h : Nat) : State :=
  (s.modCtx h fun c => { c with pagerWait := true, asked := s.batchOf h }).settlePager h

/-- Counts traps with cause 24 at one address between which no element has completed, and no instruction but the `sret`
that releases the unit (R367). -/
def noteStuck (c : Ctx) : Ctx :=
  let left := (c.sfdesc.extractLsb' 48 16).toNat
  let again : Bool := c.stuck ≠ 0 && c.stuckAt = c.sepc && c.stuckRet = c.instret && decide (c.stuckLeft ≤ left)
  { c with stuck := if again then c.stuck + 1 else 1, stuckAt := c.sepc, stuckLeft := left, stuckRet := c.instret + 1 }

/-- Poisoned micro-threads are killed with `ukill` and counted (R370). -/
def State.skipThreads (s : State) (h : Nat) : State :=
  let ord := s.order h
  let hit := (s.mts.filter fun p => p.1 / 128 % 4 = ctxNo h && ord.contains (p.1 / 512) &&
    p.2.state = .faulted && (p.2.fault.any fun f => f.1 = 26)).map fun p => 128 * ord.idxOf (p.1 / 512) + p.1 % 128
  let s := hit.foldl (fun (s : State) i => s.killNumber h i) s
  s.modCtx h fun c => { c with spsn := bumpHigh c.spsn hit.length }

/-- Cause 30 (R370). -/
def State.disposeThreads (s : State) (h : Nat) : State :=
  let c := s.ctx h
  let causes := s.mts.filterMap fun p =>
    if p.1 / 128 % 4 = ctxNo h ∧ (s.order h).contains (p.1 / 512) ∧ p.2.state = .faulted then p.2.fault.map (·.1) else none
  let skip : Bool := (c.unit.map (·.psn)).getD 0 ≠ 0
  if causes.any fun x => x ≠ 24 && x ≠ 12 && !(x = 26 && skip) then s.fatal h 30 c.stval
  else (s.skipThreads h).callPager h

/-- The fate of the trap that a context stands in (R371), after COUNT has gone to the launch's record (R375). An interrupt returns. An exchange that a die or a seam failed
under executes again at once: DEDUCED (log 96), no cluster goes before the next boundary, so that the count is stable. -/
def State.monitor (s : State) (h : Nat) : State :=
  let c := s.ctx h
  let cause := (c.scause.extractLsb' 0 63).toNat
  let element : Bool := c.sfdesc.extractLsb' 48 16 ≠ 0#16
  let die (s : State) : State := s.fatal h cause c.stval
  if c.mode ≠ .supervisor ∨ c.unit.isNone ∨ c.pagerWait ∨ c.poolWait then s
  else if c.scause.getLsbD 63 then s.sret h
  else
  let s := s.noteCount h
  match cause with
    | 24 =>
      if !s.quiesced h then s
      else
      let s := s.modCtx h noteStuck
      if 8 ≤ (s.ctx h).stuck then die s else s.callPager h
    | 26 =>
      if element ∧ (c.unit.map (·.psn)).getD 0 ≠ 0 then (s.modCtx h fun c => { c with spsn := c.spsn ||| 1 }).sret h
      else die s
    | 29 => if c.streams.toList.any fun t => t.bound && t.kept = some c.stval then s.callPager h else die s
    | 30 => s.disposeThreads h
    | 32 =>
      let s := s.modCtx h fun c => { c with poolWait := true }
      { s with hearth := { s.hearth with poolEvents := (s.hearth.poolEvents ++ [s.ctxJob h]).eraseDups } }
    | 34 => if c.exchg.any (·.isSome) then s.sret h else die s
    | 35 =>
      let under := (c.stval.extractLsb' 0 8).toNat
      if under = 12 ∨ under = 13 ∨ under = 15 then s.callPager h else die s
    | 12 => s.callPager h
    | 13 => s.callPager h
    | 15 => s.callPager h
    | 8 => (s.modCtx h fun c => { c.wx 10 0xFFFFFFFFFFFFFFFF with sepc := c.sepc + 4 }).sret h
    | _ => die s

/-! The pager's and the host's answers. -/

/-- A page that the pager has fetched: V is set in its entry. One without an entry is reported unmapped. -/
def State.mapPage (s : State) (job : Nat) (va : Word) : State :=
  let page := va.toNat / 65536
  let gone (s : State) : State := { s with hearth := { s.hearth with unmapped := (s.hearth.unmapped.filter (· ≠ (job, page))) ++ [(job, page)] } }
  let v := (va.extractLsb' 0 49).toNat
  let root := (s.job job).root
  let e1 := s.physWord (root + 8 * (v / 2 ^ 42))
  let a2 := ptePpn e1 + 8 * (v / 2 ^ 29 % 8192)
  let e2 := s.physWord a2
  let set (a : Nat) (e : Word) : State :=
    if !pteLeaf e then gone s
    else { s.physPut a (e ||| 1) with hearth := { s.hearth with unmapped := s.hearth.unmapped.filter (· ≠ (job, page)) } }
  if !canonicalVa va ∨ !pteV e1 ∨ pteLeaf e1 then gone s
  else if pteLeaf e2 then set a2 e2
  else if !pteV e2 then gone s
  else
    let a3 := ptePpn e2 + 8 * (v / 2 ^ 16 % 8192)
    set a3 (s.physWord a3)

/-- The pager has finished a batch: what waits on it goes on. -/
def execPagerReturn (job : Nat) (pages : List (BitVec 64)) (s : State) : Out :=
  let s := pages.foldl (fun (s : State) va => s.mapPage job va) s
  .next (((s.ctxs.filter fun p => p.2.pagerWait && p.2.unit.any (·.job = job)).map (·.1)).foldl State.settlePager s)

/-- A pool of the job is refilled: the waiting instructions execute again. -/
def execKvPoolRefill (job : Nat) (s : State) : Out :=
  let s : State := { s with hearth := { s.hearth with poolEvents := s.hearth.poolEvents.filter (· ≠ job) } }
  .next (((s.ctxs.filter fun p => p.2.poolWait && p.2.unit.any (·.job = job)).map (·.1)).foldl State.release s)

end Sys2Proof.Machine
end

