-- ==== Sys2Proof/Machine/Registers.lean ====
section
/-! DEFINITION. BAR0 (R427, R441, R448, R449, R453, R455, R457, R458, R461): writes by offset, and what reads
return. A register with a row of its own acts as that row says. -/

namespace Sys2Proof.Machine
open Sys2Proof

/-- The state that a meaning goes on to. -/
def nextOf (o : Out) (s : State) : State := match o with
  | .next t => t
  | _ => s

def putWord (m : Sparse Word) (k : Nat) (v : Word) : Sparse Word := sparseSet 0 m k v
def State.setPlat (s : State) (f : Plat → Plat) : State := { s with plat := f s.plat }

/-! Writes. -/

/-- A job control block (R428). -/
def writeJob (j o : Nat) (v : Word) (s : State) : State :=
  let st := (s.job j).state
  if !s.running then s
  else if o = 0 then
    match (v.extractLsb' 0 8).toNat with
    | 1 => nextOf (execJobCreate j s) s
    | 2 => nextOf (execJobEnd j s) s
    | 3 => nextOf (execJobCancel j s) s
    | _ => s
  else if st = 1 ∨ st = 2 then s
  else s.modJob j fun x =>
    if o = 8 then { x with root := v.toNat }
    else if o = 0x10 then { x with qtab := v }
    else if o = 0x18 then { x with nq := v.toNat % 65536 }
    else if o = 0x20 then { x with cmir := v }
    else x

/-- An entry of the extent table (R430). -/
def writeExtent (k o : Nat) (v : Word) (s : State) : State :=
  let e := s.extent k
  let held : Bool := 2 ≤ e.state && e.state ≤ 4
  if o = 0x18 then
    match (v.extractLsb' 0 3).toNat with
    | 1 => nextOf (execExtentGrant k s) s
    | 3 => nextOf (execExtentReleaseNotice k s) s
    | 4 => nextOf (execExtentForcedRelease k s) s
    | 0 => if held then s else s.setExtent k { e with state := 0 }
    | _ => s
  else if held then s
  else s.setExtent k (if o = 0 then { e with base := v } else if o = 8 then { e with hpa := v } else { e with len := v })

/-- A management register (R448). -/
def writeManagement (o : Nat) (v : Word) (s : State) : State :=
  if o = 0x00 then nextOf (execTemperWrite v s) s
  else if o = 0x10 then nextOf (execFenceDieWrite v s) s
  else if o = 0x20 ∨ o = 0x28 then nextOf (execFenceCoreWrite ((o - 0x20) / 8) v s) s
  else if 0x40 ≤ o ∧ o < 0x80 then nextOf (execFenceClusterWrite ((o - 0x40) / 8) v s) s
  else if o = 0x100 then nextOf (execScrubctlWrite v s) s
  else if o = 0x108 then State.setPlat { s with ckNew := List.range 64 } fun p => { p with ckset := v }
  else if o = 0x110 then s.setPlat fun p => { p with elog := v }
  else if o = 0x118 then s.setPlat fun p => { p with migring := v }
  else if o = 0x120 then nextOf (execMigrationDoorbell v s) s
  else if 0x140 ≤ o ∧ o < 0x188 then s.setPlat fun p => { p with ecnt := putWord p.ecnt ((o - 0x140) / 8) v }
  else if 0x200 ≤ o ∧ o < 0x220 then s.setPlat fun p => { p with sramErr := putWord p.sramErr ((o - 0x200) / 8) v }
  else if o = 0x300 then nextOf (execTrctlWrite v s) s
  else if o = 0x310 then nextOf (execStallClear v s) s
  else if 0x400 ≤ o ∧ o < 0x480 then
    let k := (o - 0x400) / 8
    let w := if k % 2 = 0 then v
      else (v &&& 0xFFFF000000000000) ||| (if v.extractLsb' 0 2 = 3#2 then 0 else v &&& 3)
    s.setPlat fun p => { p with bps := putWord p.bps k w }
  else if o = 0x480 then nextOf (if v = 0 then execDebugSessionClose s else execDebugSessionOpen v s) s
  else if o = 0x488 then nextOf (if v.extractLsb' 10 2 = 1#2 then execDebugDump v s else execDebugResume v s) s
  else if 0x1000 ≤ o ∧ o < 0x1800 then
    let j := (o - 0x1000) / 8
    let w := (sparseGet 0 s.plat.qerr j &&& 0xFFFFFFFF00000000) ||| (v &&& 0xFFFFFFFF)
    s.setPlat fun p => { p with qerr := putWord p.qerr j w }
  else if 0x2000 ≤ o ∧ o < 0x2200 then s.setPlat fun p => { p with routes := putWord p.routes ((o - 0x2000) / 8) (v &&& 0xFFFFFFFF) }
  else s

/-- The recovery mailbox (R441). -/
def writeMailbox (o : Nat) (v : Word) (s : State) : State :=
  let bytes (m : Sparse Byte) (at' : Nat) : Sparse Byte :=
    ((List.range 8).zip (natLe 8 v.toNat)).foldl (fun m (i, b) => sparseSet 0 m (at' + i) b) m
  if o = 8 then s.mbStart (v.extractLsb' 0 8).toNat (v.extractLsb' 8 8)
  else if o = 0x10 then s.setPlat fun p => { p with mbarg := v }
  else if 0x40 ≤ o ∧ o < 0x60 then s.setPlat fun p => { p with mbnonce := bytes p.mbnonce (o - 0x40) }
  else if 0x10000 ≤ o ∧ o < 0x20000 then s.setPlat fun p => { p with mbdata := bytes p.mbdata (o - 0x10000) }
  else s

/-- An aligned 8-byte write to BAR0 of the PF. -/
def State.writeBar (s : State) (off : Nat) (v : Word) : State :=
  if off % 8 ≠ 0 then s
  else if 0x3F00000 ≤ off ∧ off < 0x4000000 then writeMailbox (off - 0x3F00000) v s
  else if off = 0x18 then s.setPlat fun p => { p with glost := v }
  else s.managed fun s =>
    if 0x10000 ≤ off ∧ off < 0x20000 then writeJob ((off - 0x10000) / 256) (off % 256) v s
    else if 0x20000 ≤ off ∧ off < 0x22000 then
      let j := (off - 0x20000) / 32
      if off % 32 = 0 then (if s.running then s.modJob j fun x => { x with cancelWord := v } else s)
      else if off % 32 = 8 then nextOf (execHostCancel j (s.job j).cancelWord v s) s else s
    else if 0x22000 ≤ off ∧ off < 0x24000 then writeExtent ((off - 0x22000) / 32) (off % 32) v s
    else if off = 0x24000 then s.setPlat fun p => { p with bar2sel := v &&& 0x3FFC0000000 }
    else if 0x100000 ≤ off ∧ off < 0x200000 then
      if off % 4096 = 0 then nextOf (execHostDoorbell ((off - 0x100000) / 4096) v s) s else s
    else if 0x1000000 ≤ off ∧ off < 0x1100000 then writeManagement (off - 0x1000000) v s
    else s

/-- Where an offset of the BAR0 of VF g lies in the PF's: the three regions of its group, and no other (R427). A VF that the
configuration record does not expose has none (R437). -/
def State.vfOffset (s : State) (g off : Nat) : Option Nat :=
  if Nat.min 16 s.plat.cfg.nvf ≤ g then none
  else if 0x10000 ≤ off ∧ off < 0x11000 then some (off + 0x1000 * g)
  else if 0x20000 ≤ off ∧ off < 0x20200 then some (off + 0x200 * g)
  else if 0x100000 ≤ off ∧ off < 0x110000 then some (off + 0x10000 * g)
  else none

/-- An aligned 8-byte write to the BAR0 of VF g. -/
def State.writeVfBar (s : State) (g off : Nat) (v : Word) : State :=
  match s.vfOffset g off with
  | some o => s.writeBar o v
  | none => s

def execRegisterWrite (off : Nat) (v : BitVec 64) (s : State) : Out := .next (s.writeBar off v)

/-! Reads. -/

def natWord (n : Nat) : Word := BitVec.ofNat 64 n

/-- INSERV: clusters and cores that no fence takes, and dies with such a core (R449). -/
def State.inserv (s : State) : Word :=
  let up (g : Nat) : Bool := !(s.plat.fenceDie.getLsbD (g / 32) || s.plat.fenceCore.getLsbD g || s.plat.cfg.cfence.getLsbD g)
  let cores := (List.range 128).filter up
  let clus := (List.range 512).filter fun q => up (q / 4) && !s.clusterFenced q
  natWord (clus.length * 2 ^ 32 + cores.length * 2 ^ 16 + (cores.map (· / 32)).eraseDups.length)

def State.clkstat (s : State) : Word :=
  natWord (s.plat.changes * 2 ^ 32 + ((List.range 4).map fun d => s.dieStep d * 4 ^ d).sum)

/-- A word of a stall table (R461). -/
def State.stallWord (s : State) (t o : Nat) : Word :=
  match s.plat.stalls.find? (·.1 = 64 * t + o / 32) with
  | none => 0
  | some (_, e) =>
    if o % 32 = 0 then e.cpc
    else if o % 32 = 8 then e.ppc
    else if o % 32 = 0x10 then natWord (e.cycles * 2 ^ 32 + e.lag * 2 ^ 16 + e.job)
    else natWord (e.count * 2 ^ 32 + 128 + (if e.ms then 64 else 0) + e.kind)

def State.readManagement (s : State) (o : Nat) : Word :=
  let p := s.plat
  if o = 0x00 then p.temper
  else if o = 0x08 then s.clkstat
  else if o = 0x10 then p.fenceDie.setWidth 64
  else if o = 0x20 ∨ o = 0x28 then (p.fenceCore ||| p.cfg.cfence).extractLsb' (8 * (o - 0x20)) 64
  else if 0x40 ≤ o ∧ o < 0x80 then (p.fenceCl ||| p.cfg.clfence).extractLsb' (8 * (o - 0x40)) 64
  else if o = 0x80 then natWord (if s.quiet then 1 else 0)
  else if o = 0x100 then p.scrubctl
  else if o = 0x108 then p.ckset
  else if o = 0x110 then p.elog
  else if o = 0x118 then p.migring
  else if 0x140 ≤ o ∧ o < 0x188 then sparseGet 0 p.ecnt ((o - 0x140) / 8)
  else if 0x200 ≤ o ∧ o < 0x220 then sparseGet 0 p.sramErr ((o - 0x200) / 8)
  else if o = 0x300 then p.trctl
  else if o = 0x308 then natWord (p.dropped * 2 ^ 32 + p.lanesUp.toNat)
  else if o = 0x310 then p.stallctl
  else if 0x400 ≤ o ∧ o < 0x480 then sparseGet 0 p.bps ((o - 0x400) / 8)
  else if 0x1000 ≤ o ∧ o < 0x1800 then sparseGet 0 p.qerr ((o - 0x1000) / 8)
  else if 0x2000 ≤ o ∧ o < 0x2200 then sparseGet 0 p.routes ((o - 0x2000) / 8)
  else 0

def State.readMailbox (s : State) (o : Nat) : Word :=
  let p := s.plat
  let bytes (m : Sparse Byte) (at' : Nat) : Word := natWord (leNat ((List.range 8).map fun i => sparseGet 0 m (at' + i)))
  if o = 0 then natWord p.mbstat
  else if o = 0x10 then p.mbarg
  else if 0x40 ≤ o ∧ o < 0x60 then bytes p.mbnonce (o - 0x40)
  else if 0x10000 ≤ o ∧ o < 0x20000 then bytes p.mbdata (o - 0x10000)
  else 0

def State.readJob (s : State) (j o : Nat) : Word :=
  let v := s.job j
  if o = 0 then natWord v.state
  else if o = 8 then natWord v.root
  else if o = 0x10 then v.qtab
  else if o = 0x18 then natWord v.nq
  else if o = 0x20 then v.cmir
  else 0

/-- The value of an aligned 8-byte read of BAR0 of the PF. -/
def State.readBar (s : State) (off : Nat) : Word :=
  let p := s.plat
  if off % 8 ≠ 0 then 0
  else if off = 0 then natWord (p.fatal * 256 + (if p.mode = 2 then 2 else 0) + (if p.mode = 1 then 1 else 0))
  else if off = 8 then Config.serial
  else if off = 0x10 then s.inserv
  else if off = 0x18 then p.glost
  else if 0x3F00000 ≤ off ∧ off < 0x4000000 then s.readMailbox (off - 0x3F00000)
  else if p.mode = 2 then 0
  else if 0x10000 ≤ off ∧ off < 0x20000 then s.readJob ((off - 0x10000) / 256) (off % 256)
  else if 0x22000 ≤ off ∧ off < 0x24000 then
    let e := s.extent ((off - 0x22000) / 32)
    if off % 32 = 0 then e.base else if off % 32 = 8 then e.hpa else if off % 32 = 0x10 then e.len else natWord e.state
  else if off = 0x24000 then p.bar2sel
  else if 0x1000000 ≤ off ∧ off < 0x1100000 then s.readManagement (off - 0x1000000)
  else if 0x1100000 ≤ off ∧ off < 0x1200000 then s.stallWord ((off - 0x1100000) / 2048) (off % 2048)
  else if 0x1200000 ≤ off ∧ off < 0x1201000 then sparseGet 0 p.stallOvf ((off - 0x1200000) / 8)
  else 0

/-- The value of an aligned 8-byte read of BAR0 of VF g. -/
def State.readVfBar (s : State) (g off : Nat) : Word := ((s.vfOffset g off).map s.readBar).getD 0

/-! The BAR2 window (R426, R427). -/

/-- Whether a job's tables map the page of a physical address. -/
def State.rootMaps (s : State) (root pa : Nat) : Bool :=
  let entry (a : Nat) : Option Word :=
    if s.installed a && !s.memPoisoned a 8 then some (BitVec.ofNat 64 (s.memNat a 8)) else none
  (List.range 128).any fun i => (entry (root + 8 * i)).any fun e1 => pteHeld 1 e1 &&
    (List.range 8192).any fun j => (entry (ptePpn e1 + 8 * j)).any fun e2 => pteHeld 2 e2 &&
      if pteLeaf e2 then ptePpn e2 / 2 ^ 29 == pa / 2 ^ 29
      else (List.range 8192).any fun k => (entry (ptePpn e2 + 8 * k)).any fun e3 => pteHeld 3 e3 && ptePpn e3 / 65536 == pa / 65536

/-- Whether a function's window reaches a page: a VF's only what the roots of its jobs map. DESIGN CHOICE (log 99): whatever the
permissions of the page. -/
def State.windowReaches (s : State) (fn : Option Nat) (pa : Nat) : Bool :=
  match fn with
  | none => true
  | some g => decide (g < Nat.min 16 s.plat.cfg.nvf) && (List.range 16).any fun k =>
      let j := s.job (16 * g + k)
      (j.state = 1 || j.state = 2) && s.rootMaps j.root pa

/-- Carries out a request at a device physical address. -/
def HostReq.run (r : HostReq) (pa : Nat) (s : State) : Out :=
  match r with
  | .read n => execHostRead pa n s
  | .write bytes => execHostWrite pa bytes s
  | .atomic op n v cmp => execHostAtomic op pa n v cmp s

def HostReq.size : HostReq → Nat
  | .read n => n
  | .write bytes => bytes.length
  | .atomic _ n _ _ => n

/-- The upload buffer of 64 MiB, which BAR2 alone reaches in recovery mode, at its offset 0 (R443). -/
def State.uploadPut (s : State) (off : Nat) (bytes : List Byte) : State :=
  { s with plat := { s.plat with upload := ((List.range bytes.length).zip bytes).foldl (fun u (i, b) =>
    if off + i < 0x4000000 then sparseSet 0 u (off + i) b else u) s.plat.upload } }

/-- A request at an offset of the upload buffer; an atomic is none of what it takes. -/
def HostReq.upload (r : HostReq) (off : Nat) (s : State) : State :=
  match r with
  | .read n => if 4096 < n then s.answer none else s.answer (some (uploadBytes s off n, false))
  | .write bytes => if 512 < bytes.length then s.answer none else (s.uploadPut off bytes).answer (some ([], false))
  | .atomic .. => s.answer none

/-- A request at an offset of the window: it reaches device memory from BAR2SEL on. -/
def State.bar2 (s : State) (fn : Option Nat) (off : Nat) (r : HostReq) : State :=
  if s.plat.mode = 2 then (if fn.isSome then s.answer none else r.upload off s)
  else
    let pa := s.plat.bar2sel.toNat + off
    if 2 ^ s.plat.bar2log < off + r.size ∨ !s.windowReaches fn pa ∨ !s.windowReaches fn (pa + r.size - 1) then s.answer none
    else nextOf (r.run pa s) s

def State.bar2Resize (s : State) (log : Nat) : State :=
  if 30 ≤ log ∧ log ≤ 39 then s.setPlat fun p => { p with bar2log := log } else s

/-! The host link (R424). -/

/-- The link trains at a PCIe generation and width, with CXL or without; no result depends on it. -/
def execHostLinkTraining (gen lanes : Nat) (cxl : Bool) (s : State) : Out :=
  .next (if gen = 0 ∨ 6 < gen ∨ !([1, 4, 8, 16] : List Nat).contains lanes then s
    else s.setPlat fun p => { p with linkGen := gen, linkLanes := lanes, linkCxl := cxl })

/-! Instructions that do not decode, and bytes that cannot be fetched (R125 to R127, R282). -/

/-- An unassigned encoding raises illegal-instruction, with its bits as the trap value; a micro-thread faults. -/
def execIllegalInstruction (bits : BitVec 64) (s : State) : Out :=
  match s.who with
  | .ct _ => .next (s.illegal bits)
  | .ms _ => .next (s.illegal bits)
  | .ind .. => .next (s.illegal bits)
  | .mt h i => .next (s.setThread h i (let m := s.thread h i
      { m with state := .faulted, block := [], fault := some (2, m.next, 0) }))
  | _ => .fault .noSuchAgent

/-- Cause 12 or 1, with the address of the first byte that could not be fetched. -/
def execInstructionFetchFault (cause : Nat) (addr : BitVec 64) (s : State) : Out :=
  match s.who with
  | .ct _ => .next (s.trap cause addr)
  | .ms _ => .next (s.trap cause addr)
  | .ind .. => .next (s.trap cause addr)
  | .mt h i => .next (s.setThread h i (let m := s.thread h i
      { m with state := .faulted, block := [], fault := some (cause, m.next, 0) }))
  | _ => .fault .noSuchAgent

end Sys2Proof.Machine
end

