-- ==== Sys2Proof/Machine/VectorPerm.lean ====
section
/-! DEFINITION. VPERM (R201 to R208) and the moving K16 forms (R132). -/

namespace Sys2Proof.Machine
open Sys2Proof

/-! Permute domains (R28, R201): the elements held on one die, numbered by their local index. -/

def View.dieOf (v : View) (e : Nat) : Nat := (v.loc e).1 / 128
def View.oneDie (v : View) : Bool := v.order.all fun q => q / 128 = v.order.headD 0 / 128
/-- The elements of a domain, ascending, below a bound. -/
def View.domain (v : View) (d bound : Nat) : List Nat := (List.range bound).filter fun e => v.dieOf e = d
def View.local (v : View) (e : Nat) : Nat := if v.oneDie then e else (v.domain (v.dieOf e) e).length
/-- The element of a local index in the domain of e; none at or beyond VLMAX of the domain. -/
def View.ofLocal (v : View) (e k : Nat) : Option Nat :=
  if v.oneDie then (if k < v.vlmax then some k else none) else (v.domain (v.dieOf e) v.vlmax)[k]?
def View.vlOf (v : View) (e : Nat) : Nat := if v.oneDie then v.vl else (v.domain (v.dieOf e) v.vl).length

/-- A source that the instruction reads by itself: only a load still under way may keep it waiting (R146). -/
def useWhole (reg : Nat) (trap : Bool) : Use := { reg := reg, trap := trap, needs := fun _ _ => [] }

/-- The form of a VPERM instruction: no operand may be bound to a stream (R202). -/
def permForm (op : BitVec 6) (o : T48) (regs : List Nat) (extra : State → VIn → List Nat) : VForm :=
  { len := 6, bits := t48Bits (0x06#6, op) o, gm := o.gm.toNat
    uses := (regs.take 1).map (useWhole · o.fa) ++ (regs.drop 1).map (useWhole · o.fb), dst := some o.d.toNat
    noStream := o.d.toNat :: regs, load := false, align := o.d.toNat :: regs, extra := extra }

/-- Runs a VPERM instruction whose destination may not be a source. -/
def apart (f : VForm) (bad : Bool) (s : State) (k : VIn → State → State) : Out :=
  ctStep s f.bits fun s => if bad then s.illegal f.bits else vprep f s k

/-- Writes each active element from the element that `src` names, or a value of its own (R203). -/
def moveOp (f : VForm) (a : Nat) (fill : View → State → BitVec 32) (src : View → Nat → Option Nat) (x : VIn) (s : State) : State :=
  vcommit f x true (x.acts.map fun e =>
    (e, x.taint s f.gm e (.ok (match src x.v e with
      | some j => s.elem x.v a j
      | none => (fill x.v s, false))))) s

def slideUp (n : Nat) (v : View) (e : Nat) : Option Nat :=
  if v.local e < n then none else v.ofLocal e (v.local e - n)
def slideDown (n : Nat) (v : View) (e : Nat) : Option Nat :=
  if v.local e + n < v.vlOf e then v.ofLocal e (v.local e + n) else none

def srcList (src : View → Nat → Option Nat) (_ : State) (x : VIn) : List Nat := x.acts.filterMap (src x.v)

def execVslideup (o : T48) (s : State) : Out :=
  let f := permForm 0x00#6 o [o.a.toNat] (srcList (slideUp o.aux.toNat))
  vectorStep f s (moveOp f o.a.toNat (fun v s => v.scalar (s.rx o.b)) (slideUp o.aux.toNat))
def execVslidedn (o : T48) (s : State) : Out :=
  let f := permForm 0x01#6 o [o.a.toNat] (srcList (slideDown o.aux.toNat))
  vectorStep f s (moveOp f o.a.toNat (fun v s => v.scalar (s.rx o.b)) (slideDown o.aux.toNat))

/-- The index of element e for `vrgather`, and its poison (R204); a replicated source b is read as R136 says. -/
def gatherIndex (o : T48) (s : State) (v : View) (e : Nat) : Nat × Bool :=
  match o.kind with
  | 0 => let (b, p) := s.elem v o.b.toNat (repIndex o.rep e); (b.toNat, p)
  | 1 => ((v.scalar (s.rx o.b)).toNat, false)
  | _ => ((v.imm false o.b).toNat, false)

def execVrgather (o : T48) (s : State) : Out :=
  let regs := o.a.toNat :: (if o.kind = 0 then [o.b.toNat] else [])
  let f := permForm 0x02#6 o regs fun s x =>
    (x.acts.filterMap fun e => x.v.ofLocal e (gatherIndex o s x.v e).1) ++
    (if o.kind = 0 then x.acts.map (repIndex o.rep) else [])
  apart f (regs.contains o.d.toNat) s fun x s =>
    vcommit f x true (x.acts.map fun e =>
      let (k, p) := gatherIndex o s x.v e
      (e, x.taint s f.gm e (.ok (match x.v.ofLocal e k with
        | some j => let (y, q) := s.elem x.v o.a.toNat j; (y, p || q)
        | none => (0, p))))) s

/-- Sets `vl`: a strip's own in a `.ind` loop (R164, R205). -/
def State.setVl (s : State) (n : Nat) : State :=
  match s.who with
  | .ind h slot => s.modCtx h fun c => modStrip c slot fun t => { t with vl := n }
  | _ => s.modCtx s.hart fun c => { c with vl := n }

/-- Packs the selected elements of one domain to its lowest local indices (R205). -/
def packDomain (s : State) (v : View) (a : Nat) (sel dom : List Nat) : List (Nat × BitVec 32 × Bool) :=
  let kept := (sel.map fun e => s.elem v a e)
  dom.zip kept

/-- R205. `mf` selects nothing here and is cleared. -/
def execVcompress (o : T48) (s : State) : Out :=
  let f := { permForm 0x03#6 o [o.a.toNat] (fun _ x => List.range x.v.vlmax) with gm := 0 }
  let m := o.gm.toNat
  apart f (o.a = o.d) s fun x s =>
    let v := x.v
    let all := List.range v.vl
    match (if m = 0 then none else all.find? fun e => (s.maskBit v m e).2) with
    | some e => s.trap 26 (BitVec.ofNat 64 e)
    | none =>
      let sel := all.filter fun e => m = 0 || (s.maskBit v m e).1
      let dies := (v.order.map (· / 128)).eraseDups
      let n := sel.length
      let packed := dies.flatMap fun d =>
        let dom := (List.range v.vlmax).filter fun e => v.dieOf e = d
        packDomain s v o.a.toNat (sel.filter fun e => v.dieOf e = d) dom
      let rest := (List.range v.vlmax).filter fun e => !packed.any (·.1 = e)
      let zero := if v.oneDie then (if v.vty.getLsbD 4 then rest else []) else rest
      let s := s.putElems v o.d.toNat (packed ++ zero.map fun e => (e, 0, false))
      let s := (s.clearMf v).modCtx v.hart fun c => { c with ldst := o.d }
      (if v.oneDie then s.setVl n else s).retire 6

/-- The rank of element e among the governed elements of its domain below it, and whether a poisoned bit
was counted (R206). -/
def expandRank (s : State) (v : View) (m e : Nat) : Nat × Bool :=
  let below := ((List.range e).filter fun j => v.dieOf j = v.dieOf e && j < v.vl)
  ((below.filter fun j => s.governs v m j).length, below.any fun j => (s.maskBit v m j).2)

def execVexpand (o : T48) (s : State) : Out :=
  let m := o.gm.toNat
  let f := permForm 0x04#6 o [o.a.toNat] fun s x => x.acts.filterMap fun e => x.v.ofLocal e (expandRank s x.v m e).1
  apart f (o.a = o.d) s fun x s =>
    vcommit f x true (x.acts.map fun e =>
      let (j, p) := expandRank s x.v m e
      (e, x.taint s f.gm e (.ok (match x.v.ofLocal e j with
        | some i => let (y, q) := s.elem x.v o.a.toNat i; (y, p || q)
        | none => (0, p))))) s

/-- The element `vbcast` copies (R207). -/
def castIndex (o : T48) (s : State) (v : View) : Nat :=
  if o.kind = 1 then (v.scalar (s.rx o.b)).toNat else (v.imm false o.b).toNat

def execVbcast (o : T48) (s : State) : Out :=
  let f := permForm 0x05#6 o [o.a.toNat] fun s x => [castIndex o s x.v]
  vectorStep f s fun x s =>
    let j := castIndex o s x.v
    let y := if j < x.v.vlmax then s.elem x.v o.a.toNat j else (0, false)
    vcommit f x true (x.acts.map fun e => (e, x.taint s f.gm e (.ok y))) s

/-- Moves the chunk of one register from a cluster slot to another. -/
def copyChunk (s0 s : State) (h qs qd rs rd : Nat) : State :=
  let ks := ((4 * qs + ctxNo h) * 32 + rs) * 128
  let kd := ((4 * qd + ctxNo h) * 32 + rd) * 128
  (List.range 128).foldl (fun s j => { s with
    vreg := sparsePut s.vreg (kd + j) (sparseGet (0 : Slot) s0.vreg (ks + j))
    vpois := sparsePut s.vpois (kd + j) (sparseGet false s0.vpois (ks + j)) }) s

/-- Whether a chunk of an exchange crosses between dies, so that the exchange is in flight for a time (R208). -/
def crossesDies (v : View) (src : Nat → Nat) : Bool :=
  (List.range v.n).any fun i => v.order.getD (src i) 0 / 128 ≠ v.order.getD i 0 / 128

/-- R208. Between dies the exchange begins in one step and completes in a later one, unless a part has failed in
between. -/
def execVxchg (o : T48) (s : State) : Out :=
  let f := { permForm 0x06#6 o [o.a.toNat] (fun _ x => List.range x.v.vlmax) with gm := 0 }
  apart f (o.a = o.d) s fun x s =>
    let v := x.v
    let map := s.rx o.b
    let src (i : Nat) : Nat := (map.extractLsb' (4 * i) 4).toNat
    match (List.range v.n).find? fun i => v.n ≤ src i with
    | some i => s.trap 34 (BitVec.ofNat 64 i)
    | none =>
    match (s.ctx v.hart).exchg with
    | some (some k) => s.trap 34 (BitVec.ofNat 64 k)
    | started =>
      if crossesDies v src ∧ started = none then (s.modCtx v.hart fun c => { c with exchg := some none }).stall
      else
      let s' := (List.range v.lmul).foldl (fun t r => (List.range v.n).foldl (fun t i =>
        copyChunk s t v.hart (v.order.getD (src i) 0) (v.order.getD i 0) (o.a.toNat + r) (o.d.toNat + r)) t) s
      ((s'.clearMf v).modCtx v.hart fun c => { c with ldst := o.d, exchg := none }).retire 6

def execVmv (o : T48) (s : State) : Out :=
  let f := permForm 0x07#6 o [o.a.toNat] noExtra
  vectorStep f s (moveOp f o.a.toNat (fun _ _ => 0) fun _ e => some e)

/-- vS ← vLAST, which then is vS (R131, R132). -/
def execVmvK (vs : Reg) (s : State) : Out :=
  let last := s.vlast.toNat
  let f : VForm := { k16Form (kBits 1#4 0#5 vs 2#2) last [] with
    uses := [useWhole last false], dst := some vs.toNat, align := [last, vs.toNat] }
  vectorStep f s fun x s => vcommit f x true (x.acts.map fun e => (e, .ok (s.elem x.v last e))) s

def lastMove (bits : Word) (src : View → Nat → Option Nat) (s : State) : Out :=
  let last := s.vlast.toNat
  let f := { k16Form bits last [] with extra := srcList src }
  vectorStep f s (moveOp f last (fun _ _ => 0) src)

def execVslideupK (n : BitVec 5) (s : State) : Out := lastMove (kBits 2#4 n 0#5 2#2) (slideUp n.toNat) s
def execVslidednK (n : BitVec 5) (s : State) : Out := lastMove (kBits 3#4 n 0#5 2#2) (slideDown n.toNat) s

end Sys2Proof.Machine
end

