-- ==== Sys2Proof/Machine/VectorReduce.lean ====
section
/-! DEFINITION. VRED (R209, R61, R62) and VMASK (R210). -/

namespace Sys2Proof.Machine
open Sys2Proof

/-- The initial value (R209). -/
def initial (o : T48) (x : VIn) (s : State) : Elem :=
  match o.kind with
  | 0 => x.get s o.b.toNat 0
  | 1 => .ok (x.v.scalar (s.rx o.b), false)
  | _ => .ok (x.v.imm false o.b, false)

def okVal : Elem → BitVec 32
  | .ok (y, _) => y
  | .error _ => 0
def okPois : Elem → Bool
  | .ok (_, p) => p
  | .error _ => false

/-- Element 0 of vd ← f initial (element, value) list: the elements that were read, ascending (R209). DEDUCED (log 32):
with faulted elements, which only a read stream gives, the others complete (R148): they are reduced into element 0, and
the reissue then reduces only the elements in `mf` (R209). -/
def reduceOp (op : BitVec 6) (o : T48) (f : View → BitVec 3 → BitVec 32 → List (Nat × BitVec 32) → BitVec 32) (s : State) : Out :=
  let uses := useA o :: (if o.kind = 0 then [useFirst o.b.toNat o.fb] else [])
  let form := vform (0x07#6, op) o uses false
  vectorStep form s fun x s =>
    let v := x.v
    if v.vl = 0 then (s.clearMf v).finish form x []
    else
      let skip := (s.ctx v.hart).skips
      let init := initial o x s
      let els := x.acts.map fun e => (e, x.taint s form.gm e (x.get s o.a.toNat e))
      let bad0 : List (Nat × Ef) := match init with | .error b => [(0, b)] | .ok _ => []
      let stopped := bad0 ++ els.filterMap fun (e, r) => match r with
        | .error b => if e = 0 ∧ !bad0.isEmpty then none else some (e, b)
        | .ok _ => none
      let (sk, bad) := stopped.partition fun p => skip && p.2.cause = 26
      let good := els.filter fun (_, r) => match r with | .ok _ => true | .error _ => false
      let r := f v (s.mode o.rm) (okVal init) (good.map fun (e, r) => (e, okVal r))
      let p := okPois init || good.any fun (_, r) => okPois r
      let write : Bool := bad0.isEmpty && (bad.isEmpty || !good.isEmpty)
      let (res, s) := stopPoison s form x (if write then [(0, .ok (r, p))] else [])
      let (ok, sk', stop) := splitElems skip res
      let bad := if bad.isEmpty then stop else bad
      let zero := if !x.reissue && v.vty.getLsbD 4 then (List.range (v.vlmax - 1)).map (· + 1) else []
      let s := s.putDest form x write ok (if write then zero else [])
      let s := s.settleMf x (bad.map (·.1)) ((good.map (·.1)) ++ sk.map (·.1))
      (s.noteSkipped x (sk ++ sk')).finish form x bad

/-- One rounded addition of the sum (R61, R62): `a` is a partial sum or an input after DZ. -/
def sumStep (v : View) (rm : BitVec 3) (a b : Nat) : Nat :=
  (v.fout rm (xadd rm ((laneFp v.sb).decode a) ((laneFp v.sb).decode b))).toNat

/-- The result where no element takes part: the initial value, a NaN made canonical (R209). -/
def onlyInitial (v : View) (i : BitVec 32) : BitVec 32 :=
  let a := v.fin i
  BitVec.ofNat 32 (if isNan v a then (laneFp v.sb).nanBits else a)

def redOrdered (v : View) (rm : BitVec 3) (i : BitVec 32) (l : List (Nat × BitVec 32)) : BitVec 32 :=
  if l.isEmpty then onlyInitial v i
  else BitVec.ofNat 32 (l.foldl (fun a (_, y) => sumStep v rm a (v.fin y)) (v.fin i))

/-- One level of the tree: each slot at a multiple of 2w takes the slot w above it (R62). -/
def treeLevel (v : View) (rm : BitVec 3) (w : Nat) : List (Option Nat) → List (Option Nat)
  | l => (List.range l.length).map fun i =>
      if i % (2 * w) ≠ 0 then none
      else match l.getD i none, l.getD (i + w) none with
        | some a, some b => some (sumStep v rm a b)
        | some a, none => some a
        | none, b => b

/-- Levels w, 2w, … while w < vl. -/
def treeGo (v : View) (rm : BitVec 3) : Nat → Nat → List (Option Nat) → List (Option Nat)
  | 0, _, l => l
  | fuel + 1, w, l => if w < v.vl then treeGo v rm fuel (2 * w) (treeLevel v rm w l) else l

def redTree (v : View) (rm : BitVec 3) (i : BitVec 32) (l : List (Nat × BitVec 32)) : BitVec 32 :=
  let slots := (List.range v.vl).map fun e => (l.find? (·.1 = e)).map fun (_, y) => v.fin y
  match (treeGo v rm 17 1 slots).headD none with
  | some t => BitVec.ofNat 32 (sumStep v rm (v.fin i) t)
  | none => onlyInitial v i

def redPick (max : Bool) (v : View) (_ : BitVec 3) (i : BitVec 32) (l : List (Nat × BitVec 32)) : BitVec 32 :=
  if l.isEmpty then onlyInitial v i else l.foldl (fun a (_, y) => fPick v max a y) i

def redInt (f : View → BitVec 32 → BitVec 32 → BitVec 32) (v : View) (_ : BitVec 3) (i : BitVec 32)
    (l : List (Nat × BitVec 32)) : BitVec 32 := l.foldl (fun a (_, y) => v.wrap (f v a y)) (v.wrap i)

def execVfredo (o : T48) (s : State) : Out := reduceOp 0x00#6 o redOrdered s
def execVfredt (o : T48) (s : State) : Out := reduceOp 0x01#6 o redTree s
def execVfredmax (o : T48) (s : State) : Out := reduceOp 0x02#6 o (redPick true) s
def execVfredmin (o : T48) (s : State) : Out := reduceOp 0x03#6 o (redPick false) s
def execVredsum (o : T48) (s : State) : Out := reduceOp 0x04#6 o (redInt fun _ a b => a + b) s
def execVredmax (o : T48) (s : State) : Out :=
  reduceOp 0x05#6 o (redInt fun v a b => if v.sint a ≤ v.sint b then b else a) s
def execVredmin (o : T48) (s : State) : Out :=
  reduceOp 0x06#6 o (redInt fun v a b => if v.sint a ≤ v.sint b then a else b) s

/-! VMASK (R210). -/

def bitForm (op : BitVec 6) (o : T48) : VForm :=
  { len := 6, bits := t48Bits (0x08#6, op) o, gm := o.gm.toNat, uses := [], dst := none, noStream := []
    load := false, align := [], extra := noExtra }

/-- Bit e of mD ← f (bit e of mA) (bit e of mB) for each active bit. `na` and `nb` say which are read. -/
def bitOp (op : BitVec 6) (o : T48) (na nb : Bool) (f : Bool → Bool → Bool) (s : State) : Out :=
  let form := bitForm op o
  vectorStep form s fun x s =>
    mcommit form x o.d.toNat (x.acts.map fun e =>
      let (a, p) := if na then s.maskBit x.v o.a.toNat e else (false, false)
      let (b, q) := if nb then s.maskBit x.v o.b.toNat e else (false, false)
      (e, .ok (f a b, p || q || s.governPois x.v form.gm e))) s

def execMand (o : T48) (s : State) : Out := bitOp 0x00#6 o true true (fun a b => a && b) s
def execMor (o : T48) (s : State) : Out := bitOp 0x01#6 o true true (fun a b => a || b) s
def execMxor (o : T48) (s : State) : Out := bitOp 0x02#6 o true true (fun a b => a != b) s
def execMandn (o : T48) (s : State) : Out := bitOp 0x03#6 o true true (fun a b => a && !b) s
def execMnot (o : T48) (s : State) : Out := bitOp 0x04#6 o true false (fun a _ => !a) s
def execMset (o : T48) (s : State) : Out := bitOp 0x07#6 o false false (fun _ _ => true) s
def execMclr (o : T48) (s : State) : Out := bitOp 0x08#6 o false false (fun _ _ => false) s

/-- xD ← f of the active bits of mA that are set; a poisoned bit read stops it: cause 26 with its index
(R188). -/
def bitScan (op : BitVec 6) (o : T48) (read : State → VIn → List Nat) (f : List Nat → Word) (s : State) : Out :=
  let form := bitForm op o
  vectorStep form s fun x s =>
    let m := o.a.toNat
    match (read s x).find? fun e => (s.maskBit x.v m e).2 || s.governPois x.v form.gm e with
    | some e => s.trap 26 (BitVec.ofNat 64 e)
    | none => ((s.clearMf x.v).wx o.d (f (x.acts.filter fun e => (s.maskBit x.v m e).1))).retire 6

def execMpopc (o : T48) (s : State) : Out :=
  bitScan 0x05#6 o (fun _ x => x.acts) (fun l => BitVec.ofNat 64 l.length) s

/-- `mfirst` tests bits up to the first that is set. -/
def execMfirst (o : T48) (s : State) : Out :=
  bitScan 0x06#6 o
    (fun s x => match x.acts.find? fun e => (s.maskBit x.v o.a.toNat e).1 with
      | some i => x.acts.filter (· ≤ i)
      | none => x.acts)
    (fun l => match l with | [] => 0xFFFFFFFFFFFFFFFF | e :: _ => BitVec.ofNat 64 e) s

end Sys2Proof.Machine
end

