-- ==== Sys2Proof/Machine/Dispatch.lean ====
section
/-! DEFINITION. The dispatch of every instruction and event to its meaning. -/

namespace Sys2Proof.Machine
open Sys2Proof

/-- What one instruction or event does: one arm for each row of spec/opcode_table.json. -/
def exec (i : Instr) (s : State) : Host.Outcome State Fault Refusal :=
  match i with
  | .lui rd imm => Sys2Proof.Machine.execLui rd imm s
  | .auipc rd imm => Sys2Proof.Machine.execAuipc rd imm s
  | .jal rd imm => Sys2Proof.Machine.execJal rd imm s
  | .jalr rd rs1 imm => Sys2Proof.Machine.execJalr rd rs1 imm s
  | .beq rs1 rs2 imm => Sys2Proof.Machine.execBeq rs1 rs2 imm s
  | .bne rs1 rs2 imm => Sys2Proof.Machine.execBne rs1 rs2 imm s
  | .blt rs1 rs2 imm => Sys2Proof.Machine.execBlt rs1 rs2 imm s
  | .bge rs1 rs2 imm => Sys2Proof.Machine.execBge rs1 rs2 imm s
  | .bltu rs1 rs2 imm => Sys2Proof.Machine.execBltu rs1 rs2 imm s
  | .bgeu rs1 rs2 imm => Sys2Proof.Machine.execBgeu rs1 rs2 imm s
  | .lb rd rs1 imm => Sys2Proof.Machine.execLb rd rs1 imm s
  | .lh rd rs1 imm => Sys2Proof.Machine.execLh rd rs1 imm s
  | .lw rd rs1 imm => Sys2Proof.Machine.execLw rd rs1 imm s
  | .ld rd rs1 imm => Sys2Proof.Machine.execLd rd rs1 imm s
  | .lbu rd rs1 imm => Sys2Proof.Machine.execLbu rd rs1 imm s
  | .lhu rd rs1 imm => Sys2Proof.Machine.execLhu rd rs1 imm s
  | .lwu rd rs1 imm => Sys2Proof.Machine.execLwu rd rs1 imm s
  | .sb rs1 rs2 imm => Sys2Proof.Machine.execSb rs1 rs2 imm s
  | .sh rs1 rs2 imm => Sys2Proof.Machine.execSh rs1 rs2 imm s
  | .sw rs1 rs2 imm => Sys2Proof.Machine.execSw rs1 rs2 imm s
  | .sd rs1 rs2 imm => Sys2Proof.Machine.execSd rs1 rs2 imm s
  | .addi rd rs1 imm => Sys2Proof.Machine.execAddi rd rs1 imm s
  | .slti rd rs1 imm => Sys2Proof.Machine.execSlti rd rs1 imm s
  | .sltiu rd rs1 imm => Sys2Proof.Machine.execSltiu rd rs1 imm s
  | .xori rd rs1 imm => Sys2Proof.Machine.execXori rd rs1 imm s
  | .ori rd rs1 imm => Sys2Proof.Machine.execOri rd rs1 imm s
  | .andi rd rs1 imm => Sys2Proof.Machine.execAndi rd rs1 imm s
  | .slli rd rs1 sh => Sys2Proof.Machine.execSlli rd rs1 sh s
  | .srli rd rs1 sh => Sys2Proof.Machine.execSrli rd rs1 sh s
  | .srai rd rs1 sh => Sys2Proof.Machine.execSrai rd rs1 sh s
  | .add rd rs1 rs2 => Sys2Proof.Machine.execAdd rd rs1 rs2 s
  | .sub rd rs1 rs2 => Sys2Proof.Machine.execSub rd rs1 rs2 s
  | .sll rd rs1 rs2 => Sys2Proof.Machine.execSll rd rs1 rs2 s
  | .slt rd rs1 rs2 => Sys2Proof.Machine.execSlt rd rs1 rs2 s
  | .sltu rd rs1 rs2 => Sys2Proof.Machine.execSltu rd rs1 rs2 s
  | .xor rd rs1 rs2 => Sys2Proof.Machine.execXor rd rs1 rs2 s
  | .srl rd rs1 rs2 => Sys2Proof.Machine.execSrl rd rs1 rs2 s
  | .sra rd rs1 rs2 => Sys2Proof.Machine.execSra rd rs1 rs2 s
  | .or rd rs1 rs2 => Sys2Proof.Machine.execOr rd rs1 rs2 s
  | .and rd rs1 rs2 => Sys2Proof.Machine.execAnd rd rs1 rs2 s
  | .addiw rd rs1 imm => Sys2Proof.Machine.execAddiw rd rs1 imm s
  | .slliw rd rs1 sh => Sys2Proof.Machine.execSlliw rd rs1 sh s
  | .srliw rd rs1 sh => Sys2Proof.Machine.execSrliw rd rs1 sh s
  | .sraiw rd rs1 sh => Sys2Proof.Machine.execSraiw rd rs1 sh s
  | .addw rd rs1 rs2 => Sys2Proof.Machine.execAddw rd rs1 rs2 s
  | .subw rd rs1 rs2 => Sys2Proof.Machine.execSubw rd rs1 rs2 s
  | .sllw rd rs1 rs2 => Sys2Proof.Machine.execSllw rd rs1 rs2 s
  | .srlw rd rs1 rs2 => Sys2Proof.Machine.execSrlw rd rs1 rs2 s
  | .sraw rd rs1 rs2 => Sys2Proof.Machine.execSraw rd rs1 rs2 s
  | .fence fm pr su rd rs1 => Sys2Proof.Machine.execFence fm pr su rd rs1 s
  | .fenceTso rd rs1 => Sys2Proof.Machine.execFenceTso rd rs1 s
  | .ecall => Sys2Proof.Machine.execEcall s
  | .ebreak => Sys2Proof.Machine.execEbreak s
  | .mul rd rs1 rs2 => Sys2Proof.Machine.execMul rd rs1 rs2 s
  | .mulh rd rs1 rs2 => Sys2Proof.Machine.execMulh rd rs1 rs2 s
  | .mulhsu rd rs1 rs2 => Sys2Proof.Machine.execMulhsu rd rs1 rs2 s
  | .mulhu rd rs1 rs2 => Sys2Proof.Machine.execMulhu rd rs1 rs2 s
  | .div rd rs1 rs2 => Sys2Proof.Machine.execDiv rd rs1 rs2 s
  | .divu rd rs1 rs2 => Sys2Proof.Machine.execDivu rd rs1 rs2 s
  | .rem rd rs1 rs2 => Sys2Proof.Machine.execRem rd rs1 rs2 s
  | .remu rd rs1 rs2 => Sys2Proof.Machine.execRemu rd rs1 rs2 s
  | .mulw rd rs1 rs2 => Sys2Proof.Machine.execMulw rd rs1 rs2 s
  | .divw rd rs1 rs2 => Sys2Proof.Machine.execDivw rd rs1 rs2 s
  | .divuw rd rs1 rs2 => Sys2Proof.Machine.execDivuw rd rs1 rs2 s
  | .remw rd rs1 rs2 => Sys2Proof.Machine.execRemw rd rs1 rs2 s
  | .remuw rd rs1 rs2 => Sys2Proof.Machine.execRemuw rd rs1 rs2 s
  | .lrW aq rl rd rs1 => Sys2Proof.Machine.execLrW aq rl rd rs1 s
  | .scW aq rl rd rs1 rs2 => Sys2Proof.Machine.execScW aq rl rd rs1 rs2 s
  | .lrD aq rl rd rs1 => Sys2Proof.Machine.execLrD aq rl rd rs1 s
  | .scD aq rl rd rs1 rs2 => Sys2Proof.Machine.execScD aq rl rd rs1 rs2 s
  | .amoswapW aq rl rd rs1 rs2 => Sys2Proof.Machine.execAmoswapW aq rl rd rs1 rs2 s
  | .amoswapD aq rl rd rs1 rs2 => Sys2Proof.Machine.execAmoswapD aq rl rd rs1 rs2 s
  | .amoaddW aq rl rd rs1 rs2 => Sys2Proof.Machine.execAmoaddW aq rl rd rs1 rs2 s
  | .amoaddD aq rl rd rs1 rs2 => Sys2Proof.Machine.execAmoaddD aq rl rd rs1 rs2 s
  | .amoxorW aq rl rd rs1 rs2 => Sys2Proof.Machine.execAmoxorW aq rl rd rs1 rs2 s
  | .amoxorD aq rl rd rs1 rs2 => Sys2Proof.Machine.execAmoxorD aq rl rd rs1 rs2 s
  | .amoandW aq rl rd rs1 rs2 => Sys2Proof.Machine.execAmoandW aq rl rd rs1 rs2 s
  | .amoandD aq rl rd rs1 rs2 => Sys2Proof.Machine.execAmoandD aq rl rd rs1 rs2 s
  | .amoorW aq rl rd rs1 rs2 => Sys2Proof.Machine.execAmoorW aq rl rd rs1 rs2 s
  | .amoorD aq rl rd rs1 rs2 => Sys2Proof.Machine.execAmoorD aq rl rd rs1 rs2 s
  | .amominW aq rl rd rs1 rs2 => Sys2Proof.Machine.execAmominW aq rl rd rs1 rs2 s
  | .amominD aq rl rd rs1 rs2 => Sys2Proof.Machine.execAmominD aq rl rd rs1 rs2 s
  | .amomaxW aq rl rd rs1 rs2 => Sys2Proof.Machine.execAmomaxW aq rl rd rs1 rs2 s
  | .amomaxD aq rl rd rs1 rs2 => Sys2Proof.Machine.execAmomaxD aq rl rd rs1 rs2 s
  | .amominuW aq rl rd rs1 rs2 => Sys2Proof.Machine.execAmominuW aq rl rd rs1 rs2 s
  | .amominuD aq rl rd rs1 rs2 => Sys2Proof.Machine.execAmominuD aq rl rd rs1 rs2 s
  | .amomaxuW aq rl rd rs1 rs2 => Sys2Proof.Machine.execAmomaxuW aq rl rd rs1 rs2 s
  | .amomaxuD aq rl rd rs1 rs2 => Sys2Proof.Machine.execAmomaxuD aq rl rd rs1 rs2 s
  | .csrrw rd rs1 csr => Sys2Proof.Machine.execCsrrw rd rs1 csr s
  | .csrrs rd rs1 csr => Sys2Proof.Machine.execCsrrs rd rs1 csr s
  | .csrrc rd rs1 csr => Sys2Proof.Machine.execCsrrc rd rs1 csr s
  | .csrrwi rd uimm csr => Sys2Proof.Machine.execCsrrwi rd uimm csr s
  | .csrrsi rd uimm csr => Sys2Proof.Machine.execCsrrsi rd uimm csr s
  | .csrrci rd uimm csr => Sys2Proof.Machine.execCsrrci rd uimm csr s
  | .fenceI rd rs1 imm => Sys2Proof.Machine.execFenceI rd rs1 imm s
  | .sret => Sys2Proof.Machine.execSret s
  | .wfi => Sys2Proof.Machine.execWfi s
  | .sfenceVma rs1 rs2 => Sys2Proof.Machine.execSfenceVma rs1 rs2 s
  | .vfaddK vs => Sys2Proof.Machine.execVfaddK vs s
  | .vfsubK vs => Sys2Proof.Machine.execVfsubK vs s
  | .vfmulK vs => Sys2Proof.Machine.execVfmulK vs s
  | .vfmaK vs vt => Sys2Proof.Machine.execVfmaK vs vt s
  | .vfmaxK vs => Sys2Proof.Machine.execVfmaxK vs s
  | .vfminK vs => Sys2Proof.Machine.execVfminK vs s
  | .vaddK vs => Sys2Proof.Machine.execVaddK vs s
  | .vsubK vs => Sys2Proof.Machine.execVsubK vs s
  | .vandK vs => Sys2Proof.Machine.execVandK vs s
  | .vorK vs => Sys2Proof.Machine.execVorK vs s
  | .vxorK vs => Sys2Proof.Machine.execVxorK vs s
  | .vsllK n => Sys2Proof.Machine.execVsllK n s
  | .vsraK n => Sys2Proof.Machine.execVsraK n s
  | .vmvK vs => Sys2Proof.Machine.execVmvK vs s
  | .vslideupK n => Sys2Proof.Machine.execVslideupK n s
  | .vslidednK n => Sys2Proof.Machine.execVslidednK n s
  | .vsetl o => Sys2Proof.Machine.execVsetl o s
  | .vsetlr o => Sys2Proof.Machine.execVsetlr o s
  | .vloopSeq o => Sys2Proof.Machine.execVloopSeq o s
  | .vloopInd o => Sys2Proof.Machine.execVloopInd o s
  | .vnext o => Sys2Proof.Machine.execVnext o s
  | .vsidx o => Sys2Proof.Machine.execVsidx o s
  | .vidx o => Sys2Proof.Machine.execVidx o s
  | .lpset o => Sys2Proof.Machine.execLpset o s
  | .wbase o => Sys2Proof.Machine.execWbase o s
  | .vfetch o => Sys2Proof.Machine.execVfetch o s
  | .vfetchr o => Sys2Proof.Machine.execVfetchr o s
  | .uwait o => Sys2Proof.Machine.execUwait o s
  | .ufstat o => Sys2Proof.Machine.execUfstat o s
  | .uresume o => Sys2Proof.Machine.execUresume o s
  | .ukill o => Sys2Proof.Machine.execUkill o s
  | .vlinkin o => Sys2Proof.Machine.execVlinkin o s
  | .vlinkout o => Sys2Proof.Machine.execVlinkout o s
  | .vfadd o => Sys2Proof.Machine.execVfadd o s
  | .vfsub o => Sys2Proof.Machine.execVfsub o s
  | .vfmul o => Sys2Proof.Machine.execVfmul o s
  | .vfma o => Sys2Proof.Machine.execVfma o s
  | .vfms o => Sys2Proof.Machine.execVfms o s
  | .vfnma o => Sys2Proof.Machine.execVfnma o s
  | .vfmin o => Sys2Proof.Machine.execVfmin o s
  | .vfmax o => Sys2Proof.Machine.execVfmax o s
  | .vfdiv o => Sys2Proof.Machine.execVfdiv o s
  | .vfsqrt o => Sys2Proof.Machine.execVfsqrt o s
  | .vfrcp o => Sys2Proof.Machine.execVfrcp o s
  | .vfrsq o => Sys2Proof.Machine.execVfrsq o s
  | .vfexp2 o => Sys2Proof.Machine.execVfexp2 o s
  | .vflog2 o => Sys2Proof.Machine.execVflog2 o s
  | .vfabs o => Sys2Proof.Machine.execVfabs o s
  | .vfneg o => Sys2Proof.Machine.execVfneg o s
  | .vfsgn o => Sys2Proof.Machine.execVfsgn o s
  | .vfcvt o => Sys2Proof.Machine.execVfcvt o s
  | .vfclass o => Sys2Proof.Machine.execVfclass o s
  | .vfeq o => Sys2Proof.Machine.execVfeq o s
  | .vflt o => Sys2Proof.Machine.execVflt o s
  | .vfle o => Sys2Proof.Machine.execVfle o s
  | .vadd o => Sys2Proof.Machine.execVadd o s
  | .vsub o => Sys2Proof.Machine.execVsub o s
  | .vmul o => Sys2Proof.Machine.execVmul o s
  | .vmulh o => Sys2Proof.Machine.execVmulh o s
  | .vmulhn o => Sys2Proof.Machine.execVmulhn o s
  | .vand o => Sys2Proof.Machine.execVand o s
  | .vor o => Sys2Proof.Machine.execVor o s
  | .vxor o => Sys2Proof.Machine.execVxor o s
  | .vsll o => Sys2Proof.Machine.execVsll o s
  | .vsrl o => Sys2Proof.Machine.execVsrl o s
  | .vsra o => Sys2Proof.Machine.execVsra o s
  | .vmin o => Sys2Proof.Machine.execVmin o s
  | .vmax o => Sys2Proof.Machine.execVmax o s
  | .vminn o => Sys2Proof.Machine.execVminn o s
  | .vmaxn o => Sys2Proof.Machine.execVmaxn o s
  | .vseq o => Sys2Proof.Machine.execVseq o s
  | .vslt o => Sys2Proof.Machine.execVslt o s
  | .vsltn o => Sys2Proof.Machine.execVsltn o s
  | .vmerge o => Sys2Proof.Machine.execVmerge o s
  | .vmvs o => Sys2Proof.Machine.execVmvs o s
  | .vmvx o => Sys2Proof.Machine.execVmvx o s
  | .vslideup o => Sys2Proof.Machine.execVslideup o s
  | .vslidedn o => Sys2Proof.Machine.execVslidedn o s
  | .vrgather o => Sys2Proof.Machine.execVrgather o s
  | .vcompress o => Sys2Proof.Machine.execVcompress o s
  | .vexpand o => Sys2Proof.Machine.execVexpand o s
  | .vbcast o => Sys2Proof.Machine.execVbcast o s
  | .vxchg o => Sys2Proof.Machine.execVxchg o s
  | .vmv o => Sys2Proof.Machine.execVmv o s
  | .vfredo o => Sys2Proof.Machine.execVfredo o s
  | .vfredt o => Sys2Proof.Machine.execVfredt o s
  | .vfredmax o => Sys2Proof.Machine.execVfredmax o s
  | .vfredmin o => Sys2Proof.Machine.execVfredmin o s
  | .vredsum o => Sys2Proof.Machine.execVredsum o s
  | .vredmax o => Sys2Proof.Machine.execVredmax o s
  | .vredmin o => Sys2Proof.Machine.execVredmin o s
  | .mand o => Sys2Proof.Machine.execMand o s
  | .mor o => Sys2Proof.Machine.execMor o s
  | .mxor o => Sys2Proof.Machine.execMxor o s
  | .mandn o => Sys2Proof.Machine.execMandn o s
  | .mnot o => Sys2Proof.Machine.execMnot o s
  | .mpopc o => Sys2Proof.Machine.execMpopc o s
  | .mfirst o => Sys2Proof.Machine.execMfirst o s
  | .mset o => Sys2Proof.Machine.execMset o s
  | .mclr o => Sys2Proof.Machine.execMclr o s
  | .vld o => Sys2Proof.Machine.execVld o s
  | .vst o => Sys2Proof.Machine.execVst o s
  | .vlds o => Sys2Proof.Machine.execVlds o s
  | .vsts o => Sys2Proof.Machine.execVsts o s
  | .vldx o => Sys2Proof.Machine.execVldx o s
  | .vstxO o => Sys2Proof.Machine.execVstxO o s
  | .vstxU o => Sys2Proof.Machine.execVstxU o s
  | .vgl o => Sys2Proof.Machine.execVgl o s
  | .vsc o => Sys2Proof.Machine.execVsc o s
  | .vcappend o => Sys2Proof.Machine.execVcappend o s
  | .vamoadd o => Sys2Proof.Machine.execVamoadd o s
  | .vamofadd o => Sys2Proof.Machine.execVamofadd o s
  | .vamomin o => Sys2Proof.Machine.execVamomin o s
  | .vamomax o => Sys2Proof.Machine.execVamomax o s
  | .vamoand o => Sys2Proof.Machine.execVamoand o s
  | .vamoor o => Sys2Proof.Machine.execVamoor o s
  | .vamoxor o => Sys2Proof.Machine.execVamoxor o s
  | .vamoswap o => Sys2Proof.Machine.execVamoswap o s
  | .sbind o => Sys2Proof.Machine.execSbind o s
  | .sunbind o => Sys2Proof.Machine.execSunbind o s
  | .ssync o => Sys2Proof.Machine.execSsync o s
  | .sskip o => Sys2Proof.Machine.execSskip o s
  | .spos o => Sys2Proof.Machine.execSpos o s
  | .wbind o => Sys2Proof.Machine.execWbind o s
  | .wunbind o => Sys2Proof.Machine.execWunbind o s
  | .winval o => Sys2Proof.Machine.execWinval o s
  | .wquery o => Sys2Proof.Machine.execWquery o s
  | .trow o => Sys2Proof.Machine.execTrow o s
  | .tcol o => Sys2Proof.Machine.execTcol o s
  | .tld o => Sys2Proof.Machine.execTld o s
  | .tst o => Sys2Proof.Machine.execTst o s
  | .tzero o => Sys2Proof.Machine.execTzero o s
  | .tfull o => Sys2Proof.Machine.execTfull o s
  | .tempty o => Sys2Proof.Machine.execTempty o s
  | .mma o => Sys2Proof.Machine.execMma o s
  | .mmas o => Sys2Proof.Machine.execMmas o s
  | .pload o => Sys2Proof.Machine.execPload o s
  | .pzero o => Sys2Proof.Machine.execPzero o s
  | .mscl o => Sys2Proof.Machine.execMscl o s
  | .msync o => Sys2Proof.Machine.execMsync o s
  | .mwait o => Sys2Proof.Machine.execMwait o s
  | .czero o => Sys2Proof.Machine.execCzero o s
  | .cacc o => Sys2Proof.Machine.execCacc o s
  | .cread o => Sys2Proof.Machine.execCread o s
  | .cdrain o => Sys2Proof.Machine.execCdrain o s
  | .cwait o => Sys2Proof.Machine.execCwait o s
  | .cquery o => Sys2Proof.Machine.execCquery o s
  | .gld o => Sys2Proof.Machine.execGld o s
  | .gsc o => Sys2Proof.Machine.execGsc o s
  | .kvld o => Sys2Proof.Machine.execKvld o s
  | .kvst o => Sys2Proof.Machine.execKvst o s
  | .kvfork o => Sys2Proof.Machine.execKvfork o s
  | .fenceRel o => Sys2Proof.Machine.execFenceRel o s
  | .fenceAcq o => Sys2Proof.Machine.execFenceAcq o s
  | .fenceSc o => Sys2Proof.Machine.execFenceSc o s
  | .lsync o => Sys2Proof.Machine.execLsync o s
  | .pwait o => Sys2Proof.Machine.execPwait o s
  | .ppt o => Sys2Proof.Machine.execPpt o s
  | .ubar o => Sys2Proof.Machine.execUbar o s
  | .msig o => Sys2Proof.Machine.execMsig o s
  | .mwaitv o => Sys2Proof.Machine.execMwaitv o s
  | .kend o => Sys2Proof.Machine.execKend o s
  | .ebatch o => Sys2Proof.Machine.execEbatch o s
  | .cpy o => Sys2Proof.Machine.execCpy o s
  | .ewait o => Sys2Proof.Machine.execEwait o s
  | .uiset o => Sys2Proof.Machine.execUiset o s
  | .uiret o => Sys2Proof.Machine.execUiret o s
  | .uimask o => Sys2Proof.Machine.execUimask o s
  | .qput o => Sys2Proof.Machine.execQput o s
  | .qtail o => Sys2Proof.Machine.execQtail o s
  | .qwait o => Sys2Proof.Machine.execQwait o s
  | .bkset o => Sys2Proof.Machine.execBkset o s
  | .hcallCancel o => Sys2Proof.Machine.execHcallCancel o s
  | .hcallPreempt o => Sys2Proof.Machine.execHcallPreempt o s
  | .hcallOther o => Sys2Proof.Machine.execHcallOther o s
  | .xsave o => Sys2Proof.Machine.execXsave o s
  | .xrest o => Sys2Proof.Machine.execXrest o s
  | .mfset o => Sys2Proof.Machine.execMfset o s
  | .vrstset o => Sys2Proof.Machine.execVrstset o s
  | .b64Add o => Sys2Proof.Machine.execB64Add o s
  | .b64Sub o => Sys2Proof.Machine.execB64Sub o s
  | .b64Mul o => Sys2Proof.Machine.execB64Mul o s
  | .b64Mulh o => Sys2Proof.Machine.execB64Mulh o s
  | .b64And o => Sys2Proof.Machine.execB64And o s
  | .b64Or o => Sys2Proof.Machine.execB64Or o s
  | .b64Xor o => Sys2Proof.Machine.execB64Xor o s
  | .b64Shl o => Sys2Proof.Machine.execB64Shl o s
  | .b64Shr o => Sys2Proof.Machine.execB64Shr o s
  | .b64Sra o => Sys2Proof.Machine.execB64Sra o s
  | .b64Min o => Sys2Proof.Machine.execB64Min o s
  | .b64Max o => Sys2Proof.Machine.execB64Max o s
  | .b64Li o => Sys2Proof.Machine.execB64Li o s
  | .b64Fadd o => Sys2Proof.Machine.execB64Fadd o s
  | .b64Fsub o => Sys2Proof.Machine.execB64Fsub o s
  | .b64Fmul o => Sys2Proof.Machine.execB64Fmul o s
  | .b64Fma o => Sys2Proof.Machine.execB64Fma o s
  | .b64Fmin o => Sys2Proof.Machine.execB64Fmin o s
  | .b64Fmax o => Sys2Proof.Machine.execB64Fmax o s
  | .b64Fdiv o => Sys2Proof.Machine.execB64Fdiv o s
  | .b64Frcp o => Sys2Proof.Machine.execB64Frcp o s
  | .b64Fsqrt o => Sys2Proof.Machine.execB64Fsqrt o s
  | .b64Fcvt o => Sys2Proof.Machine.execB64Fcvt o s
  | .b64Seq o => Sys2Proof.Machine.execB64Seq o s
  | .b64Slt o => Sys2Proof.Machine.execB64Slt o s
  | .b64Sltn o => Sys2Proof.Machine.execB64Sltn o s
  | .b64Feq o => Sys2Proof.Machine.execB64Feq o s
  | .b64Flt o => Sys2Proof.Machine.execB64Flt o s
  | .b64Fle o => Sys2Proof.Machine.execB64Fle o s
  | .b64Pand o => Sys2Proof.Machine.execB64Pand o s
  | .b64Por o => Sys2Proof.Machine.execB64Por o s
  | .b64Pnot o => Sys2Proof.Machine.execB64Pnot o s
  | .b64Sel o => Sys2Proof.Machine.execB64Sel o s
  | .b64Ld o => Sys2Proof.Machine.execB64Ld o s
  | .b64St o => Sys2Proof.Machine.execB64St o s
  | .b64Amoadd o => Sys2Proof.Machine.execB64Amoadd o s
  | .b64Famoadd o => Sys2Proof.Machine.execB64Famoadd o s
  | .b64Lsend o => Sys2Proof.Machine.execB64Lsend o s
  | .b64Lrecv o => Sys2Proof.Machine.execB64Lrecv o s
  | .b64Stop o => Sys2Proof.Machine.execB64Stop o s
  | .b64Next o => Sys2Proof.Machine.execB64Next o s
  | .b64Nextif o => Sys2Proof.Machine.execB64Nextif o s
  | .b64Nop o => Sys2Proof.Machine.execB64Nop o s
  | .crillLi qd imm => Sys2Proof.Machine.execCrillLi qd imm s
  | .crillLhi qd imm => Sys2Proof.Machine.execCrillLhi qd imm s
  | .crillAddi qd qa imm => Sys2Proof.Machine.execCrillAddi qd qa imm s
  | .crillAdd qd qa => Sys2Proof.Machine.execCrillAdd qd qa s
  | .crillSub qd qa => Sys2Proof.Machine.execCrillSub qd qa s
  | .crillAnd qd qa => Sys2Proof.Machine.execCrillAnd qd qa s
  | .crillOr qd qa => Sys2Proof.Machine.execCrillOr qd qa s
  | .crillXor qd qa => Sys2Proof.Machine.execCrillXor qd qa s
  | .crillAndi qd qa imm => Sys2Proof.Machine.execCrillAndi qd qa imm s
  | .crillShl qd qa n => Sys2Proof.Machine.execCrillShl qd qa n s
  | .crillShr qd qa n => Sys2Proof.Machine.execCrillShr qd qa n s
  | .crillMaxu qd qa => Sys2Proof.Machine.execCrillMaxu qd qa s
  | .crillMinu qd qa => Sys2Proof.Machine.execCrillMinu qd qa s
  | .crillExt qd qa lsb wd => Sys2Proof.Machine.execCrillExt qd qa lsb wd s
  | .crillIns qd qa lsb wd => Sys2Proof.Machine.execCrillIns qd qa lsb wd s
  | .crillLdp qd imm => Sys2Proof.Machine.execCrillLdp qd imm s
  | .crillStp qd imm => Sys2Proof.Machine.execCrillStp qd imm s
  | .crillLds qd imm => Sys2Proof.Machine.execCrillLds qd imm s
  | .crillSts qd imm => Sys2Proof.Machine.execCrillSts qd imm s
  | .crillLdt qd qa t => Sys2Proof.Machine.execCrillLdt qd qa t s
  | .crillBeq qd qa imm => Sys2Proof.Machine.execCrillBeq qd qa imm s
  | .crillBne qd qa imm => Sys2Proof.Machine.execCrillBne qd qa imm s
  | .crillBltu qd qa imm => Sys2Proof.Machine.execCrillBltu qd qa imm s
  | .crillBgeu qd qa imm => Sys2Proof.Machine.execCrillBgeu qd qa imm s
  | .crillJ imm => Sys2Proof.Machine.execCrillJ imm s
  | .crillRep qd n len => Sys2Proof.Machine.execCrillRep qd n len s
  | .crillRdc qd qa => Sys2Proof.Machine.execCrillRdc qd qa s
  | .crillSigc qa imm => Sys2Proof.Machine.execCrillSigc qa imm s
  | .crillSetc qd qa => Sys2Proof.Machine.execCrillSetc qd qa s
  | .crillWaitc qd qa => Sys2Proof.Machine.execCrillWaitc qd qa s
  | .crillCancel qa lvl => Sys2Proof.Machine.execCrillCancel qa lvl s
  | .crillPsnFail => Sys2Proof.Machine.execCrillPsnFail s
  | .crillPsnSkip => Sys2Proof.Machine.execCrillPsnSkip s
  | .crillPsnPlanes p => Sys2Proof.Machine.execCrillPsnPlanes p s
  | .crillWeld w => Sys2Proof.Machine.execCrillWeld w s
  | .crillEnd => Sys2Proof.Machine.execCrillEnd s
  | .crillEndCancel => Sys2Proof.Machine.execCrillEndCancel s
  | .crillTime qd => Sys2Proof.Machine.execCrillTime qd s
  | .crillIdx qd => Sys2Proof.Machine.execCrillIdx qd s
  | .crillRerun job q => Sys2Proof.Machine.execCrillRerun job q s
  | .hostDoorbell job v => Sys2Proof.Machine.execHostDoorbell job v s
  | .acceptReexamine job q => Sys2Proof.Machine.execAcceptReexamine job q s
  | .queueSlotGrant => Sys2Proof.Machine.execQueueSlotGrant s
  | .packetTake job q => Sys2Proof.Machine.execPacketTake job q s
  | .earlyStart job q => Sys2Proof.Machine.execEarlyStart job q s
  | .unitPlace job q => Sys2Proof.Machine.execUnitPlace job q s
  | .unitResume k => Sys2Proof.Machine.execUnitResume k s
  | .launchComplete job q => Sys2Proof.Machine.execLaunchComplete job q s
  | .phaseBarrierComplete job q => Sys2Proof.Machine.execPhaseBarrierComplete job q s
  | .partitionChange core => Sys2Proof.Machine.execPartitionChange core s
  | .indStripTake hart slot => Sys2Proof.Machine.execIndStripTake hart slot s
  | .streamPrefetch hart sc => Sys2Proof.Machine.execStreamPrefetch hart sc s
  | .streamDrain hart sc => Sys2Proof.Machine.execStreamDrain hart sc s
  | .bankSwitchDeferred cl bank => Sys2Proof.Machine.execBankSwitchDeferred cl bank s
  | .drainComplete core h => Sys2Proof.Machine.execDrainComplete core h s
  | .engineCommandRun hart k => Sys2Proof.Machine.execEngineCommandRun hart k s
  | .engineCommandComplete hart k => Sys2Proof.Machine.execEngineCommandComplete hart k s
  | .uisetWatchFire hart => Sys2Proof.Machine.execUisetWatchFire hart s
  | .userInterruptEntry hart => Sys2Proof.Machine.execUserInterruptEntry hart s
  | .supervisorInterrupt hart => Sys2Proof.Machine.execSupervisorInterrupt hart s
  | .msFaultReport core => Sys2Proof.Machine.execMsFaultReport core s
  | .breakpointMatch hart m => Sys2Proof.Machine.execBreakpointMatch hart m s
  | .forcedPreemption hart => Sys2Proof.Machine.execForcedPreemption hart s
  | .checkpointPreempt hart => Sys2Proof.Machine.execCheckpointPreempt hart s
  | .temperWindow core => Sys2Proof.Machine.execTemperWindow core s
  | .clockStepChange die step => Sys2Proof.Machine.execClockStepChange die step s
  | .patrolRead err => Sys2Proof.Machine.execPatrolRead err s
  | .ceRecordFlush k => Sys2Proof.Machine.execCeRecordFlush k s
  | .traceSample hart => Sys2Proof.Machine.execTraceSample hart s
  | .traceDropRecord => Sys2Proof.Machine.execTraceDropRecord s
  | .migrationDoorbell v => Sys2Proof.Machine.execMigrationDoorbell v s
  | .migratePage k rounds => Sys2Proof.Machine.execMigratePage k rounds s
  | .migrateKvBlock k rounds => Sys2Proof.Machine.execMigrateKvBlock k rounds s
  | .hostRead pa n => Sys2Proof.Machine.execHostRead pa n s
  | .hostWrite pa bytes => Sys2Proof.Machine.execHostWrite pa bytes s
  | .hostAtomic op pa n v cmp => Sys2Proof.Machine.execHostAtomic op pa n v cmp s
  | .peerRequest peer req => Sys2Proof.Machine.execPeerRequest peer req s
  | .chainFlit port good => Sys2Proof.Machine.execChainFlit port good s
  | .chainPortDown port => Sys2Proof.Machine.execChainPortDown port s
  | .hostCancel job w0 w1 => Sys2Proof.Machine.execHostCancel job w0 w1 s
  | .jobCreate job => Sys2Proof.Machine.execJobCreate job s
  | .jobEnd job => Sys2Proof.Machine.execJobEnd job s
  | .jobCancel job => Sys2Proof.Machine.execJobCancel job s
  | .extentGrant k => Sys2Proof.Machine.execExtentGrant k s
  | .extentReleaseNotice k => Sys2Proof.Machine.execExtentReleaseNotice k s
  | .extentForcedRelease k => Sys2Proof.Machine.execExtentForcedRelease k s
  | .extentReleaseComplete k => Sys2Proof.Machine.execExtentReleaseComplete k s
  | .mbCert => Sys2Proof.Machine.execMbCert s
  | .mbAttest => Sys2Proof.Machine.execMbAttest s
  | .mbInstall slot => Sys2Proof.Machine.execMbInstall slot s
  | .mbExtend k => Sys2Proof.Machine.execMbExtend k s
  | .mbReset => Sys2Proof.Machine.execMbReset s
  | .debugSessionOpen pa => Sys2Proof.Machine.execDebugSessionOpen pa s
  | .debugSessionClose => Sys2Proof.Machine.execDebugSessionClose s
  | .debugSessionExpiry => Sys2Proof.Machine.execDebugSessionExpiry s
  | .debugDump cmd => Sys2Proof.Machine.execDebugDump cmd s
  | .debugResume cmd => Sys2Proof.Machine.execDebugResume cmd s
  | .fenceDieWrite v => Sys2Proof.Machine.execFenceDieWrite v s
  | .fenceCoreWrite k v => Sys2Proof.Machine.execFenceCoreWrite k v s
  | .fenceClusterWrite k v => Sys2Proof.Machine.execFenceClusterWrite k v s
  | .temperWrite v => Sys2Proof.Machine.execTemperWrite v s
  | .trctlWrite v => Sys2Proof.Machine.execTrctlWrite v s
  | .scrubctlWrite v => Sys2Proof.Machine.execScrubctlWrite v s
  | .stallClear v => Sys2Proof.Machine.execStallClear v s
  | .registerWrite off v => Sys2Proof.Machine.execRegisterWrite off v s
  | .coldReset => Sys2Proof.Machine.execColdReset s
  | .warmReset => Sys2Proof.Machine.execWarmReset s
  | .vfFlr vf => Sys2Proof.Machine.execVfFlr vf s
  | .hearthWatchdog => Sys2Proof.Machine.execHearthWatchdog s
  | .quenchLevel1 => Sys2Proof.Machine.execQuenchLevel1 s
  | .quenchLevel2 => Sys2Proof.Machine.execQuenchLevel2 s
  | .partFailure part => Sys2Proof.Machine.execPartFailure part s
  | .classQueueDrain hart cls => Sys2Proof.Machine.execClassQueueDrain hart cls s
  | .illegalInstruction bits => Sys2Proof.Machine.execIllegalInstruction bits s
  | .instructionFetchFault cause addr => Sys2Proof.Machine.execInstructionFetchFault cause addr s
  | .pagerReturn job pages => Sys2Proof.Machine.execPagerReturn job pages s
  | .kvPoolRefill job => Sys2Proof.Machine.execKvPoolRefill job s
  | .traceLaneTraining lane up => Sys2Proof.Machine.execTraceLaneTraining lane up s
  | .hostLinkTraining gen lanes cxl => Sys2Proof.Machine.execHostLinkTraining gen lanes cxl s

end Sys2Proof.Machine
end

