-- ==== Sys2Proof/Machine/Turn.lean ====
section
/-! DEFINITION. What one entry of the agenda does: the turn of an agent (its boundary work, its instruction
fetched and decoded), an event of the opcode table, and a move of log 1; and the default order of turns. -/

namespace Sys2Proof.Machine
open Sys2Proof

/-! An agent runs its instruction. -/

/-- The row of an `hcall` (R318): the function is xA[7:0]. -/
noncomputable def selectRow (s : State) : Instr → Instr
  | .hcallOther o =>
    match ((s.rx o.a).extractLsb' 0 8) with
    | 0#8 => .hcallCancel o
    | 1#8 => .hcallPreempt o
    | _ => .hcallOther o
  | i => i

/-- Decodes bytes and executes the instruction; one that is refused is illegal (R125). -/
noncomputable def runBytes (bs : List Byte) (s : State) : Out :=
  match decode bs with
  | .ok (i, _) => exec (selectRow s i) s
  | .error _ => exec (.illegalInstruction (illegalBits bs)) s

/-- Fetches at the agent's address and executes. -/
noncomputable def runFetched (s : State) : Out :=
  match s.fetchInstr s.pc with
  | (.ok bs, s) => runBytes bs s
  | (.error (cause, a), s) => exec (.instructionFetchFault cause a) s

/-- Goes on with the next state of an outcome. -/
def onNext (o : Out) (k : State → State) : Out :=
  match o with
  | .next t => .next (k t)
  | .fault f => .fault f
  | .refused r => .refused r

/-! The boundary before an instruction of a context. -/

/-- Whether the CT of a context executes instructions: it runs a unit that has not ended, no debug session has
stopped it, it waits for neither pager nor pool, and no `.ind` loop runs in its place (R164). -/
def Ctx.ctRuns (c : Ctx) : Bool :=
  c.unit.isSome && !c.ended && !c.dbgStop && !c.pagerWait && !c.poolWait &&
  !(c.loop.mode = .ind && c.inBody)

/-- A pre-emption request that a wait of the CT, of a strip or of the MS honours (R349, R265); in a spliced unit where its
contexts may be saved in full (R338). -/
def State.waitReady (s : State) (h : Nat) : Bool :=
  let c := s.ctx h
  let m := s.ms (coreOf h)
  c.unit.isSome && c.preempt &&
  (c.atWait || c.pagerWait || c.poolWait || (m.owner == some h && m.run == .running && m.atWait)) &&
  s.keepsDies h && ((s.spliceMate h).isNone || s.forcible h)

/-- The breakpoint, if any, that an agent of a context matches and has not reported (R457). -/
def State.bpNow (s : State) (h agent : Nat) : Option Nat :=
  (List.range 8).find? fun m => (s.bpHits h m).any (·.1 = agent)

/-- The FAULT record of a trap that has just been taken (R455). -/
def State.traceTrap (s : State) (h : Nat) : State :=
  let c := s.ctx h
  let arg := BitVec.ofNat 64 ((c.sfdesc.extractLsb' 48 16).toNat * 65536 + (c.scause.extractLsb' 0 16).toNat)
  (s.traceCtx 4 h c.sepc arg).modCtx h fun c => { c with trapped := false }

/-- A context stands before the first instruction of the first unit of its launch. -/
def State.beginsLaunch (s : State) (h : Nat) : Bool :=
  (s.ctx h).fresh && (s.ctx h).unit.any fun u => (s.launch? (qKey u.job u.queue) u.index).any (·.tstart = 0)

/-- The first instruction of a unit: for the first unit of a launch its LAUNCH record, and TSTART (R389, R455). -/
def State.beginUnit (s : State) (h : Nat) : State :=
  match (s.ctx h).unit with
  | some u =>
    let s := if s.beginsLaunch h then
        (s.traceLaunch u.job u.queue u.index 1 0 (some h)).modLaunch (qKey u.job u.queue) u.index fun l => { l with tstart := s.time }
      else s
    s.modCtx h fun c => { c with fresh := false }
  | none => s

/-- A breakpoint match is over once its agent stands elsewhere or has executed the instruction. -/
def unmatch (agent : Nat) (pc : Word) (count : Word) (h : Nat) (t : State) : State :=
  let c := t.ctx h
  let at' : Option Word := if agent = 16 then some c.pc
    else (stripOf c agent).map fun x => c.loop.start + BitVec.ofNat 64 x.off
  if c.matched.any (·.1 = agent) ∧ (at' ≠ some pc ∨ c.instret ≠ count) then
    t.modCtx h fun c => { c with matched := c.matched.filter (·.1 ≠ agent) }
  else t

/-- The instruction of the CT at its address: from the captured body inside a loop (R162), else fetched. -/
noncomputable def ctInstr (h : Nat) (s : State) : Out :=
  let c := s.ctx h
  let o := if c.inBody then runBytes (c.loop.body.drop (c.pc - c.loop.start).toNat) s
    else runFetched s
  onNext o (unmatch 16 c.pc c.instret h)

/-- An event that an instruction boundary of the CT takes before its instruction, which none is while a `vfetch` goes on (log 89): a supervisor interrupt (R177), a
fault of its MS (R282), or a user-level interrupt, which is not held past its point (R180). -/
noncomputable def State.interruptNow (s : State) (h : Nat) : Option Instr :=
  let c := s.ctx h
  if c.fetching.isSome then none
  else if (pendingIntr c).isSome then some (.supervisorInterrupt h)
  else if !c.msFaults.isEmpty && c.mode = .user && c.loop.strips.isEmpty && (s.ms (coreOf h)).owner = some h then
    some (.msFaultReport (coreOf h))
  else if c.readyEvent.isSome && c.atEventPoint then some (.userInterruptEntry h)
  else none

/-- The turn of a CT. In order: a light point that is due, a request that a wait honours or that is overdue, a SAMPLE record that
is due, the FAULT record of a trap, an interrupt, the start of a unit, a breakpoint, the next strip, and else its instruction. -/
noncomputable def ctTurn (h : Nat) (s : State) : Out :=
  let c := s.ctx h
  let job := (c.unit.map (·.job)).getD 0
  if s.pointReady h then .next (s.takeRequest h true)
  else if s.waitReady h || s.overdue h then .next (s.takeRequest h false)
  else if s.traceStops h then .next s
  else if c.sampleDue then .next (s.traceDue h)
  else if !c.ctRuns then .next s
  else if (c.trapped ∧ s.traceHolds 4 job 64) ∨ (s.beginsLaunch h ∧ s.traceHolds 3 job 32) then .next s
  else
    let s := if c.trapped then s.traceTrap h else s
    match s.interruptNow h with
    | some i => exec i s
    | none =>
      let s := if c.fresh then s.beginUnit h else s
      match s.bpNow h 16 with
      | some m => exec (.breakpointMatch h m) s
      | none =>
        if c.inBody ∧ c.loop.mode = .seq ∧ c.loop.gap then .next (s.leaveGap h)
        else ctInstr h s

/-- The turn of a matrix sequencer. -/
noncomputable def msTurn (g : Nat) (s : State) : Out :=
  let m := s.ms g
  match m.owner with
  | none => .next s
  | some h =>
    let c := s.ctx h
    if m.run ≠ .running ∨ c.unit.isNone ∨ c.dbgStop ∨ c.park ≠ .no ∨ s.overdue h ∨ s.traceStops h then .next s else runFetched s

/-- The turn of a cluster in a `.ind` loop: the next instruction of its strip, from the captured body. -/
noncomputable def indTurn (h slot : Nat) (s : State) : Out :=
  let c := s.ctx h
  match stripOf c slot with
  | none => .next s
  | some t =>
    if c.unit.isNone ∨ c.loop.mode ≠ .ind ∨ !c.inBody ∨ c.dbgStop ∨ c.park ≠ .no ∨ t.stop.isSome ∨ s.overdue h ∨ s.traceStops h then .next s
    else match s.bpNow h slot with
      | some m => exec (.breakpointMatch h m) s
      | none => onNext (runBytes (c.loop.body.drop t.off) s) (unmatch slot s.pc c.instret h)

/-- The turn of a micro-thread: it fetches its block where it holds none (R242), else executes its head. -/
noncomputable def mtTurn (h i : Nat) (s : State) : Out :=
  let c := s.ctx h
  let m := s.thread h i
  if c.unit.isNone ∨ c.dbgStop ∨ c.park = .restored ∨ m.state ≠ .running ∨ s.overdue h ∨ s.traceStops h then .next s
  else match m.block with
    | [] =>
      match s.enter h m.next with
      | (.ok b, s) => .next (s.setThread h i { m with block := b })
      | (.error (2, _), s) => exec (.illegalInstruction 0) s
      | (.error (cause, a), s) => exec (.instructionFetchFault cause a) s
    | w :: _ =>
      match decodeBlock w with
      | .ok i => exec i s
      | .error _ => exec (.illegalInstruction w) s

/-- The turn of a queue program's interpreter: the run's next instruction. -/
noncomputable def crillTurn (job q : Nat) (s : State) : Out :=
  match s.run? (qKey job q) with
  | none => .fault .noSuchAgent
  | some r =>
    match (((s.slot? (qKey job q)).bind (·.prog)).getD [])[r.pc]? with
    | none => .next (s.endRun (qKey job q) r .carry)
    | some w =>
      match decodeQueue w with
      | .ok i => exec i s
      | .error _ => .next (s.endRun (qKey job q) r (.discard 7))

noncomputable def agentTurn (a : Agent) (s : State) : Out :=
  let s := { s with who := a }
  match a with
  | .idle => .next s
  | .ct h => if h < 512 then ctTurn h s else .fault .noSuchAgent
  | .ms g => if g < 128 then msTurn g s else .fault .noSuchAgent
  | .mt h i => if h < 512 then mtTurn h i s else .fault .noSuchAgent
  | .ind h slot => if h < 512 then indTurn h slot s else .fault .noSuchAgent
  | .bellows _ => .fault .noSuchAgent
  | .crill job q => crillTurn job q s

/-! Moves. -/

/-- A line leaves L2: the links and reservations on it end (R77, R151), and a line of an extent is written back (R431). -/
def State.evictLine (s : State) (line : Nat) : State :=
  let s : State := { s with ctxs := s.ctxs.map fun p => (p.1, { p.2 with
    links := p.2.links.filter (· ≠ line), resv := p.2.resv.filter fun r => r / 8 ≠ line }) }
  match s.plat.extents.find? fun e => e.2.state == 2 && e.2.base.toNat ≤ 512 * line && 512 * line < e.2.base.toNat + e.2.len.toNat with
  | some (k, e) => if s.dirty.contains line then s.writeBack k ((512 * line - e.base.toNat) / 512) else s
  | none => s

/-- The exchanges in flight over the seams of a die fail (R208). -/
def State.seamLoss (s : State) (d : Nat) : State :=
  { s with ctxs := s.ctxs.map fun p =>
      if p.2.exchg = some none ∧ (s.order p.1).any (· / 128 = d) then (p.1, { p.2 with exchg := some (some 16) }) else p }

/-- Instruction bytes fetched ahead for a CT or an MS (R153); what cannot be fetched is not. -/
def State.fetchAhead (s : State) (a : Agent) (va : Word) (n : Nat) : State :=
  let put (m : Sparse Byte) (bs : List Byte) : Sparse Byte :=
    ((List.range bs.length).zip bs).foldl (fun m (j, b) =>
      if m.any (·.1 = va.toNat + j) then m else sparsePut m (va.toNat + j) b) m
  let w := s.who
  match ({ s with who := a }.fetchBytes va (Nat.min n (65536 - va.toNat % 65536))) with
  | (.ok bs, t) =>
    let t : State := { t with who := w }
    match a with
    | .ct h => t.modCtx h fun c => { c with ibuf := put c.ibuf bs }
    | .ms g => t.modMs g fun m => { m with ibuf := put m.ibuf bs }
    | _ => t
  | (.error _, t) => { t with who := w }

/-- Memory that its owner, the host or a peer, may write by itself (R425). -/
def foreign (pa n : Nat) : Bool :=
  (0x40000000000 ≤ pa && pa + n ≤ 0x80000000000) || (0x8000000000000 ≤ pa && pa + n ≤ 0x10000000000000)

def moveTurn (m : Move) (s : State) : State :=
  match m with
  | .dropSector q sector => { s with ways := s.ways.filter (·.1 ≠ q * 2 ^ 46 + sector) }
  | .dropTlb g cls => { s with tlb := s.tlb.filter fun t => !(t.core = g && t.cls = cls) }
  | .evictLine line => s.evictLine line
  | .outside pa bytes => if foreign pa bytes.length then s.homeWrite .other pa (fullBytes bytes) else s
  | .hostOwn hpa bytes => { s with plat := { s.plat with
      hostMem := ((List.range bytes.length).zip bytes).foldl (fun m (j, b) => sparseSet 0 m (hpa + j) b) s.plat.hostMem } }
  | .prefetch a va n => s.fetchAhead a va n
  | .commandPart h id n => s.runPieces h id (some n)
  | .readAhead h l => s.modCtx h fun c => { c with ahead := l }
  | .poison word src l2 => s.poisonAt (4 * word) src l2
  | .corrected sector src l2 => s.correctedAt (64 * sector) src l2
  | .strike store key fatal => s.strike store key fatal
  | .journalError tier key index => s.strikeJournal tier key index
  | .monitor h => s.monitor h
  | .seamLoss d => s.seamLoss d
  | .traceSend => s.traceSend
  | .boot => s.boot
  | .supervisorLine h bit up =>
    if bit = 1 ∨ bit = 5 ∨ bit = 9 then
      s.modCtx h fun c => { c with sip := if up then c.sip ||| (1#64 <<< bit) else c.sip &&& ~~~(1#64 <<< bit) }
    else s
  | .bar2 fn off r => s.bar2 fn off r
  | .bar2Resize k => s.bar2Resize k
  | .vfWrite g off v => s.writeVfBar g off v
  | .preemptRequest h => if (s.ctx h).unit.isSome then s.requestUnit h else s

/-- One entry of the agenda. An event or a move is nobody's instruction: the agent that moved last stays. -/
noncomputable def runTurn (t : Turn) (s : State) : Out :=
  match t with
  | .agent a => agentTurn a s
  | .event i => onNext (exec i { s with who := .idle }) fun t => { t with who := s.who }
  | .move m => .next { moveTurn m { s with who := .idle } with who := s.who }

/-! The default order (log 1). -/

/-- The contexts that run a unit. -/
def State.busy (s : State) : List (Nat × Ctx) := s.ctxs.filter fun p => p.1 < 512 && p.2.unit.isSome

/-- Running micro-threads by hart and number. -/
def State.runningMts (s : State) : List Turn :=
  (s.mts.filter fun p => p.1 < 262144 && p.2.state = .running).filterMap fun p =>
    let q := p.1 / 512
    match (s.cluster q).attached with
    | some own =>
      let h := 4 * coreOf own + p.1 / 128 % 4
      some (.agent (.mt h (128 * ((s.order h).idxOf q) + p.1 % 128)))
    | none => none

/-- What may move in a context: its agents, its stores, streams, commands and interrupts. A context in supervisor
mode without supervisor software is served by the core monitor. -/
noncomputable def State.ctxTurns (s : State) (p : Nat × Ctx) : List Turn :=
  let (h, c) := p
  let slots := List.range (Nat.max 1 (s.order h).length)
  (if c.mode = .supervisor ∧ c.stvec = 0 then [.move (.monitor h)] else [.agent (.ct h)]) ++
  (c.loop.strips.map fun t => .agent (.ind h t.slot)) ++
  (if c.loop.mode = .ind then slots.map fun j => .event (.indStripTake h j) else []) ++
  ((List.range 16).filter fun n => (c.streams.toArray.getD n {}).bound).flatMap (fun n =>
    [.event (.streamPrefetch h n), .event (.streamDrain h n)]) ++
  (c.cmds.flatMap fun k => [.event (.engineCommandRun h k.id), .event (.engineCommandComplete h k.id)]) ++
  (if c.watches.isEmpty then [] else [.event (.uisetWatchFire h)]) ++
  (if c.readyEvent.isSome && c.atEventPoint then [.event (.userInterruptEntry h)] else []) ++
  (if (pendingIntr c).isSome then [.event (.supervisorInterrupt h)] else []) ++
  (if c.msFaults.isEmpty then [] else [.event (.msFaultReport (coreOf h))]) ++
  (if c.preempt then [.event (.forcedPreemption h)] else [])

/-- Queued stores by hart and class. -/
noncomputable def State.drainTurns (s : State) : List Turn :=
  ((s.ctxs.filter (·.1 < 512)).flatMap fun p => (p.2.queue.map fun e => (p.1, e.cls)).eraseDups.map fun x => .event (.classQueueDrain x.1 x.2)) ++
  ((s.mss.filter (·.1 < 128)).flatMap fun p => match p.2.owner with
    | some h => (p.2.queue.map (·.cls)).eraseDups.map fun k => .event (.classQueueDrain h k)
    | none => []) ++
  ((s.mts.filter (·.1 < 262144)).flatMap fun p => match (s.cluster (p.1 / 512)).attached with
    | some own => (p.2.queue.map (·.cls)).eraseDups.map fun k => .event (.classQueueDrain (4 * coreOf own + p.1 / 128 % 4) k)
    | none => (p.2.queue.map (·.cls)).eraseDups.map fun k => .event (.classQueueDrain (4 * (p.1 / 2048) + p.1 / 128 % 4) k))

/-- A launch of higher priority than a saved unit can place a unit now: the unit left its resources for it (R345). -/
def State.outranked (s : State) (r : Saved) : Bool :=
  s.hearth.slots.any fun (k, q) =>
    (s.takeable k q && decide (s.savedPrio r < q.headPrio)) ||
    (q.taken.any fun l => l.unplaced && decide (s.savedPrio r < pktPrio l.words) && (s.placeUnits k l.index).isSome)

/-- The Hearth's turns; saved units come before takes of their level or a lower one (R345). -/
noncomputable def State.hearthTurns (s : State) : List Turn :=
  let keys := s.hearth.slots.map (·.1)
  (s.hearth.saved.filterMap fun r => if r.journal || r.isMate || s.outranked r then none else some (.event (.unitResume r.id))) ++
  (if s.hearth.waiting.isEmpty then [] else [.event .queueSlotGrant]) ++
  (s.hearth.runs.map fun r => .agent (.crill (r.1 / 65536) (r.1 % 65536))) ++
  (keys.flatMap fun k =>
    let j := k / 65536
    let q := k % 65536
    [.event (.acceptReexamine j q), .event (.crillRerun j q), .event (.packetTake j q), .event (.earlyStart j q), .event (.unitPlace j q),
     .event (.phaseBarrierComplete j q), .event (.launchComplete j q)])

/-- The turns of the cores, of the mailbox's command and of the engines beside them. -/
noncomputable def State.coreTurns (s : State) : List Turn :=
  (s.mss.filterMap fun p => if p.1 < 128 ∧ p.2.run = .running ∧ p.2.owner.isSome then some (.agent (.ms p.1)) else none) ++
  s.runningMts ++
  (s.cores.flatMap fun p => (if p.2.moves.isEmpty then [] else [.event (.partitionChange p.1)]) ++
    (if p.2.busy = 0 then [] else [.event (.temperWindow p.1)])) ++
  (s.bankReq.map fun p => .event (.bankSwitchDeferred (p.1 / 16) (p.1 % 16))) ++
  (s.handles.filterMap fun p => if p.2.drains.isEmpty then none else some (.event (.drainComplete (p.1 / 24) (p.1 % 24)))) ++
  (match s.plat.mbcmd with
    | some (1, _) => [.event .mbCert]
    | some (2, _) => [.event .mbAttest]
    | some (3, k) => [.event (.mbInstall k)]
    | some (4, k) => [.event (.mbExtend k)]
    | some _ => [.event .mbReset]
    | none => []) ++
  ((List.range s.plat.migJobs.length).flatMap fun k => [.event (.migratePage k 0), .event (.migrateKvBlock k 0)]) ++
  (if s.plat.traceBuf.isEmpty then [] else [.move .traceSend])

/-- What may move by itself. -/
noncomputable def State.turns (s : State) : List Turn :=
  if s.plat.mode = 0 then [.move .boot]
  else s.busy.flatMap s.ctxTurns ++ s.drainTurns ++ s.coreTurns ++ s.hearthTurns

/-- Whether an agent may go on by itself: it is there and runs, and is not a context that the core monitor serves. -/
def State.goesOn (s : State) (a : Agent) : Bool :=
  match a with
  | .idle => false
  | .ct h => h < 512 && (s.ctx h).unit.isSome && !((s.ctx h).mode = .supervisor && (s.ctx h).stvec = 0)
  | .ms g => g < 128 && (s.ms g).run = .running
  | .mt h i => h < 512 && (s.thread h i).state = .running
  | .ind h slot => h < 512 && (stripOf (s.ctx h) slot).isSome
  | .bellows _ => false
  | .crill job q => (s.run? (qKey job q)).isSome

/-- A core whose partition unit can apply its oldest change. -/
def State.readyMove (s : State) : Option Nat :=
  (s.cores.find? fun p => match p.2.moves with
    | m :: _ => p.1 < 128 && !m.clus.any fun q => (s.cluster q).pend
    | [] => false).map (·.1)

/-- The turn where the agenda names none: a partition change that can be applied, else in even steps the agent that moved last, if it goes on, in odd ones and
otherwise what may move by itself, in rotation. -/
noncomputable def State.defaultTurn (s : State) : Turn :=
  let l := s.turns
  if s.readyMove.isSome then .event (.partitionChange (s.readyMove.getD 0))
  else
    let on := s.goesOn s.who
    if s.tick % 2 = 0 ∧ on then .agent s.who
    else (l[(if on then s.tick / 2 else s.tick) % Nat.max 1 l.length]?).getD (.agent .idle)

/-! Time. -/

/-- Time passes by a step. A debug session that has come to its EXPIRY ends (R457). -/
def State.pass (s : State) : State :=
  let s : State := { s with tick := s.tick + 1 }
  match s.plat.debug with
  | some (_, e) => if e.toNat ≤ s.time.toNat then { s with plat := { s.plat with debug := none } } else s
  | none => s

end Sys2Proof.Machine
end

