-- ==== Sys2Proof/Machine/Load.lean ====
section
/-! DEFINITION. An instruction placed where the next step fetches it (log 5): the state that boot, the job's
creation, its page tables, a packet, a queue program or a block's start would have brought about. -/

namespace Sys2Proof.Machine
open Sys2Proof

/-- The job, hart, code address and page tables of a placed instruction. -/
def benchJob : Nat := 1
def benchPc : Word := 0x10000
def benchRoot : Nat := 0x30000000
def benchTable : Nat := 0x30010000

def benchUnit : UnitRef :=
  { job := benchJob, queue := 0, index := 0, num := 0, gangBase := 0, gang := 1, dies := [0], ownsMs := true
    grants := [], splice := none, psn := 0, planes := 0, code := benchPc, blkBase := benchPc, blkSize := 0 }

/-- Bytes placed in memory, with the poison of their words gone. -/
def State.plant (s : State) (pa : Nat) (bs : List Byte) : State :=
  { s with mem := putMem s.mem pa (fullBytes bs) }.setPois pa bs.length false

/-- Firmware runs, job 1 is ACTIVE, and its first 512 MiB are mapped to themselves: a root entry and a leaf with V,
R, W, X, U, A and D. -/
def State.benchMap (s : State) : State :=
  let s : State := { s with
    plat := { s.plat with mode := 1, bps := [], deadStacks := [] }
    tlb := s.tlb.filter fun t => !(t.core = 0 && t.job = benchJob)
    hearth := { s.hearth with jobs := sparsePut s.hearth.jobs benchJob { state := 1, root := benchRoot } } }
  (s.plant benchRoot (natLe 8 (benchTable + 1))).plant benchTable (natLe 8 0xDF)

/-- A unit stands in context 0 of core 0 at the code address, in user mode. -/
def State.benchCtx (s : State) : State :=
  s.modCtx 0 fun c => { c with
    unit := some benchUnit, pc := benchPc, mode := .user, loop := {}, ibuf := [], ended := false, dbgStop := false
    pagerWait := false, poolWait := false, park := .no, preempt := false, fresh := false, trapped := false
    fetching := none, exchg := none, atWait := false }

def State.placeCt (s : State) (bs : List Byte) : State :=
  { (s.benchMap.benchCtx).plant benchPc.toNat bs with agenda := .agent (.ct 0) :: s.agenda }

def State.placeMs (s : State) (bs : List Byte) : State :=
  let t := ((s.benchMap.benchCtx).plant benchPc.toNat bs).modMs 0 fun m => { m with
    owner := some 0, run := .running, pc := benchPc, ibuf := [] }
  { t with agenda := .agent (.ms 0) :: s.agenda }

/-- The first cluster belongs to the context, and its micro-thread 0 has entered a block with the instruction. -/
def State.placeMt (s : State) (w : Word) : State :=
  let t := (s.benchMap.benchCtx).setCluster 0 { owner := some 0, attached := some 0, job := some benchJob }
  { t with
    mts := sparsePut t.mts 0 { state := .running, block := [w] }
    agenda := .agent (.mt 0 0) :: s.agenda }

/-- Queue 0 of the job runs the instruction as its program. -/
def State.placeCrill (s : State) (w : BitVec 32) : State :=
  let key := qKey benchJob 0
  let t := s.benchMap
  let q : QSlot :=
    { ring := 0, cring := 0, w48 := 1, tables := List.replicate 4 (0, 0), scratch := List.replicate 8 0
      read := 0, tail := 1, acc := 1, cdone := 0, prog := some [w], enable := true, weldoff := false }
  { t with
    hearth := { t.hearth with
      slots := sparsePut t.hearth.slots key q
      runs := sparsePut t.hearth.runs key { index := 0, words := List.replicate 16 0, scratch := List.replicate 8 0 } }
    agenda := .agent (.crill benchJob 0) :: s.agenda }

/-- Whether a T48 word is one that only the MS executes: the MAT group, `czero` and `cdrain` (R142). -/
def msOnly (w : Nat) : Bool :=
  let grp := w / 64 % 64
  let op := w / 4096 % 64
  grp = 0x11 || (grp = 0x12 && (op = 0 || op = 3))

noncomputable def State.placeWord (s : State) (nbits w : Nat) : State :=
  match nbits with
  | 16 => s.placeCt (natLe 2 w)
  | 32 => match decodeQueue (BitVec.ofNat 32 w) with
    | .ok _ => s.placeCrill (BitVec.ofNat 32 w)
    | .error _ => s.placeCt (natLe 4 w)
  | 48 => if msOnly w then s.placeMs (natLe 6 w) else s.placeCt (natLe 6 w)
  | 64 => s.placeMt (BitVec.ofNat 64 w)
  | _ => s

end Sys2Proof.Machine
end

