-- ==== Sys2Proof/Machine/Step.lean ====
section
/-! DEFINITION. One step of the machine: the next entry of the agenda, or where it is empty the turn of the
default order, and the step's passing of time. -/

namespace Sys2Proof.Machine
open Sys2Proof

/-- The turn that moves next, and the state with the agenda behind it. -/
noncomputable def State.nextTurn (s : State) : Turn × State :=
  match s.agenda with
  | t :: rest => (t, { s with agenda := rest })
  | [] => (s.defaultTurn, s)

/-- One step (log 1, log 2). -/
noncomputable def step (s : State) : Host.Outcome State Fault Refusal :=
  onNext (runTurn s.nextTurn.1 s.nextTurn.2) State.pass

/-- s with an instruction stored where the next step fetches it (log 5). -/
noncomputable def State.withFetchWord (s : State) (nbits w : Nat) : State := s.placeWord nbits w

end Sys2Proof.Machine
end

