-- ==== Sys2Proof/Safety.lean ====
section
/-! DEFINITION. What a safe run is, in the terms the statements use. -/

namespace Sys2Proof.Machine
open Sys2Proof

/-- Home memory is in its canonical form. -/
def State.memOk (s : State) : Prop := Memory.wf s.mem

/-- A step that answers a next state. -/
def Runs (s t : State) : Prop := step s = .next t

/-- A run of n steps without a stop. -/
def runs : Nat → State → State → Prop
  | 0, s, t => s = t
  | n + 1, s, t => ∃ u, step s = .next u ∧ runs n u t

end Sys2Proof.Machine
end

