-- ==== Sys2Proof/Certificates/Slice0/Obligations.lean ====
section
/-! DEFINITION. The statements for the provers. The definitions that come before the statements say what the spec's
rules say in words of their own: results, and what an instruction leaves alone. A statement of two or three parts names
them, each part a definition of its own. -/

namespace Sys2Proof.Claims
open Sys2Proof Sys2Proof.Machine

/-! Who executes, and what a completed instruction leaves alone. -/

/-- A CT, the MS or a strip's cluster moves: those that execute RV64I (R128, R142, R164). -/
def movesScalar (s : State) : Prop :=
  match s.who with
  | .ct _ | .ms _ => True
  | .ind h slot => (stripOf (s.ctx h) slot).isSome
  | _ => False

/-- A CT or a strip's cluster moves. -/
def movesCt (s : State) : Prop :=
  match s.who with
  | .ct _ => True
  | .ind h slot => (stripOf (s.ctx h) slot).isSome
  | _ => False

/-- Only the scalar registers, the address and the count of retired instructions of the mover change, and the
bookkeeping of a finished instruction: the one-shot skip (R375), waits and stalls. -/
def onlyScalars (s t : State) (len : Nat) : Prop :=
  match s.who with
  | .ct h => t = s.setCtx h (t.ctx h) ∧
      t.ctx h = { (s.ctx h).endSkip with
        x := (t.ctx h).x, shadow := (t.ctx h).shadow, pc := (t.ctx h).pc, stallOn := none
        instret := (s.ctx h).instret + 1 }
  | .ms g => t = s.setMs g (t.ms g) ∧
      t.ms g = { s.ms g with x := (t.ms g).x, pc := (t.ms g).pc, instret := (s.ms g).instret + 1, atWait := false, stallOn := none }
  | .ind h slot => t = s.setCtx h (t.ctx h) ∧
      t.ctx h = { (s.ctx h).endSkip with
        x := (t.ctx h).x, shadow := (t.ctx h).shadow, instret := (s.ctx h).instret + 1
        loop := (modStrip (s.ctx h) slot fun u => { u with off := u.off + len, stallOn := none }).loop }
  | _ => False

/-- The mover's registers after a write of rd: x0 stays 0. -/
def wrote (s t : State) (rd : Reg) (v : Word) : Prop :=
  ∀ r : Reg, t.rx r = if r = rd ∧ rd ≠ 0#5 then v else s.rx r

/-- The mover stands at the next instruction. -/
def next (s t : State) (len : Nat) : Prop := t.pc = s.pc + BitVec.ofNat 64 len

/-! RV64I and M (R149): the register written and its value. -/

def hi128 (a b : Int) : Word := BitVec.ofInt 64 (a * b / 2 ^ 64)
def sext32 (v : BitVec 32) : Word := v.signExtend 64
def low32 (a : Word) : BitVec 32 := a.setWidth 32
def bit01 (b : Bool) : Word := if b then 1 else 0
def upper (imm : BitVec 20) : Word := (imm.setWidth 32 <<< 12).signExtend 64

/-- RISC-V division: by zero the quotient is all ones and the remainder the dividend. -/
def quotient {w : Nat} (a b : BitVec w) : BitVec w := if b = 0#w then BitVec.allOnes w else a.sdiv b
def remainder {w : Nat} (a b : BitVec w) : BitVec w := if b = 0#w then a else a.srem b
def uQuotient {w : Nat} (a b : BitVec w) : BitVec w := if b = 0#w then BitVec.allOnes w else a.udiv b
def uRemainder {w : Nat} (a b : BitVec w) : BitVec w := if b = 0#w then a else a.umod b

/-- The RV64I computations: destination and value. -/
def aluResult (s : State) : Instr → Option (Reg × Word)
  | .lui rd imm => some (rd, upper imm)
  | .auipc rd imm => some (rd, s.pc + upper imm)
  | .addi rd a imm => some (rd, s.rx a + imm.signExtend 64)
  | .slti rd a imm => some (rd, bit01 (decide ((s.rx a).toInt < imm.toInt)))
  | .sltiu rd a imm => some (rd, bit01 (decide ((s.rx a).toNat < (imm.signExtend 64).toNat)))
  | .xori rd a imm => some (rd, s.rx a ^^^ imm.signExtend 64)
  | .ori rd a imm => some (rd, s.rx a ||| imm.signExtend 64)
  | .andi rd a imm => some (rd, s.rx a &&& imm.signExtend 64)
  | .slli rd a n => some (rd, s.rx a <<< n)
  | .srli rd a n => some (rd, s.rx a >>> n)
  | .srai rd a n => some (rd, BitVec.ofInt 64 ((s.rx a).toInt / 2 ^ n.toNat))
  | .add rd a b => some (rd, s.rx a + s.rx b)
  | .sub rd a b => some (rd, s.rx a - s.rx b)
  | .sll rd a b => some (rd, s.rx a <<< ((s.rx b).toNat % 64))
  | .slt rd a b => some (rd, bit01 (decide ((s.rx a).toInt < (s.rx b).toInt)))
  | .sltu rd a b => some (rd, bit01 (decide ((s.rx a).toNat < (s.rx b).toNat)))
  | .xor rd a b => some (rd, s.rx a ^^^ s.rx b)
  | .srl rd a b => some (rd, s.rx a >>> ((s.rx b).toNat % 64))
  | .sra rd a b => some (rd, BitVec.ofInt 64 ((s.rx a).toInt / 2 ^ ((s.rx b).toNat % 64)))
  | .or rd a b => some (rd, s.rx a ||| s.rx b)
  | .and rd a b => some (rd, s.rx a &&& s.rx b)
  | .addiw rd a imm => some (rd, sext32 (low32 (s.rx a) + imm.signExtend 32))
  | .slliw rd a n => some (rd, sext32 (low32 (s.rx a) <<< n))
  | .srliw rd a n => some (rd, sext32 (low32 (s.rx a) >>> n))
  | .sraiw rd a n => some (rd, BitVec.ofInt 64 ((low32 (s.rx a)).toInt / 2 ^ n.toNat))
  | .addw rd a b => some (rd, sext32 (low32 (s.rx a + s.rx b)))
  | .subw rd a b => some (rd, sext32 (low32 (s.rx a - s.rx b)))
  | .sllw rd a b => some (rd, sext32 (low32 (s.rx a) <<< ((s.rx b).toNat % 32)))
  | .srlw rd a b => some (rd, sext32 (low32 (s.rx a) >>> ((s.rx b).toNat % 32)))
  | .sraw rd a b => some (rd, BitVec.ofInt 64 ((low32 (s.rx a)).toInt / 2 ^ ((s.rx b).toNat % 32)))
  | _ => none

/-- The M extension's. -/
def mulResult (s : State) : Instr → Option (Reg × Word)
  | .mul rd a b => some (rd, s.rx a * s.rx b)
  | .mulh rd a b => some (rd, hi128 (s.rx a).toInt (s.rx b).toInt)
  | .mulhsu rd a b => some (rd, hi128 (s.rx a).toInt (s.rx b).toNat)
  | .mulhu rd a b => some (rd, hi128 (s.rx a).toNat (s.rx b).toNat)
  | .div rd a b => some (rd, quotient (s.rx a) (s.rx b))
  | .divu rd a b => some (rd, uQuotient (s.rx a) (s.rx b))
  | .rem rd a b => some (rd, remainder (s.rx a) (s.rx b))
  | .remu rd a b => some (rd, uRemainder (s.rx a) (s.rx b))
  | .mulw rd a b => some (rd, sext32 (low32 (s.rx a * s.rx b)))
  | .divw rd a b => some (rd, sext32 (quotient (low32 (s.rx a)) (low32 (s.rx b))))
  | .divuw rd a b => some (rd, sext32 (uQuotient (low32 (s.rx a)) (low32 (s.rx b))))
  | .remw rd a b => some (rd, sext32 (remainder (low32 (s.rx a)) (low32 (s.rx b))))
  | .remuw rd a b => some (rd, sext32 (uRemainder (low32 (s.rx a)) (low32 (s.rx b))))
  | _ => none

/-! Control transfers. -/

/-- The register a jump writes and where it goes. -/
def jumpResult (s : State) : Instr → Option (Reg × Word)
  | .jal rd imm => some (rd, s.pc + ((imm ++ 0#1).signExtend 64))
  | .jalr rd a imm => some (rd, (s.rx a + imm.signExtend 64) &&& ~~~1#64)
  | _ => none

/-- Whether a branch is taken, and its offset. -/
def branchResult (s : State) : Instr → Option (Prop × BitVec 12)
  | .beq a b imm => some (s.rx a = s.rx b, imm)
  | .bne a b imm => some (s.rx a ≠ s.rx b, imm)
  | .blt a b imm => some ((s.rx a).toInt < (s.rx b).toInt, imm)
  | .bge a b imm => some ((s.rx b).toInt ≤ (s.rx a).toInt, imm)
  | .bltu a b imm => some ((s.rx a).toNat < (s.rx b).toNat, imm)
  | .bgeu a b imm => some ((s.rx b).toNat ≤ (s.rx a).toNat, imm)
  | _ => none

/-- A CT or the MS moves: a strip's cluster executes no branch or jump (R165). -/
def movesPc (s : State) : Prop :=
  match s.who with
  | .ct _ | .ms _ => True
  | _ => False

/-! Exceptions (R175). -/

/-- What taking an exception does to a context. -/
def entered (c d : Ctx) (intr : Bool) (cause : Nat) (epc tv : Word) : Prop :=
  d.sepc = epc ∧ d.scause = BitVec.ofNat 64 ((if intr then 2 ^ 63 else 0) + cause) ∧ d.stval = tv ∧
  d.svty = c.vty ∧ d.sldst = c.ldst ∧ d.spp = c.mode ∧ d.spieBit = c.sieBit ∧ d.sieBit = false ∧
  d.mode = .supervisor ∧ d.pc = c.stvec &&& ~~~3#64

/-- What it leaves alone: the scalar registers, `vl`, `vty`, the loop context, windows, streams, queued stores and
engine commands. -/
def keptByEntry (c d : Ctx) : Prop :=
  d.x = c.x ∧ d.shadow = c.shadow ∧ d.handler = c.handler ∧ d.vl = c.vl ∧ d.vty = c.vty ∧ d.ldst = c.ldst ∧
  d.loop = c.loop ∧ d.wins = c.wins ∧ d.streams = c.streams ∧ d.flags = c.flags ∧ d.queue = c.queue ∧
  d.cmds = c.cmds ∧ d.events = c.events ∧ d.stvec = c.stvec ∧ d.sscratch = c.sscratch ∧ d.sie = c.sie ∧ d.sip = c.sip ∧
  d.vrm = c.vrm ∧ d.vpst = c.vpst ∧ d.vtb = c.vtb ∧ d.vsb = c.vsb ∧ d.vts = c.vts ∧ d.amax = c.amax ∧
  d.amaxn = c.amaxn ∧ d.uivec = c.uivec ∧ d.uiepc = c.uiepc ∧ d.uicause = c.uicause ∧ d.instret = c.instret

/-- The CT of hart h takes a trap at its instruction; nothing outside its context changes. -/
def traps (s t : State) (h cause : Nat) (tv : Word) : Prop :=
  t = s.setCtx h (t.ctx h) ∧ entered (s.ctx h) (t.ctx h) false cause (s.ctx h).pc tv ∧ keptByEntry (s.ctx h) (t.ctx h)

/-- An agent that executes instructions moves. -/
def executes (s : State) : Prop :=
  match s.who with
  | .ct _ | .ms _ | .ind .. | .mt .. => True
  | _ => False

/-- The moving agent stops at its instruction with a cause and a trap value: the CT traps (R175), the MS stops and
leaves its fault for the CT (R282), a strip stops and halts its loop (R369), a micro-thread is faulted at its
instruction and stores nothing. Memory and the scalar registers are as before. -/
def stopsAt (s t : State) (cause : Nat) (tv : Word) : Prop :=
  t.mem = s.mem ∧ t.vreg = s.vreg ∧ (∀ r, t.rx r = s.rx r) ∧
  match s.who with
  | .ct h => traps s t h cause tv
  | .ms g => (t.ms g).run = .stopped ∧ (t.ms g).faultWord = BitVec.ofNat 64 (256 + cause) ∧ (t.ms g).faultAddr = tv ∧ (t.ms g).pc = (s.ms g).pc
  | .ind h _ => (t.ctx h).loop.halt = true ∧ t = s.setCtx h (t.ctx h)
  | .mt h i => t = s.setThread h i (t.thread h i) ∧ (t.thread h i).state = .faulted ∧ (t.thread h i).fault = some (cause, (s.thread h i).next, 0)
  | _ => True

/-! The turn of an agent. -/

/-- The state in which the next entry of the agenda, an agent, moves. -/
def moving (s : State) (a : Agent) (rest : List Turn) : State := { s with agenda := rest, who := a }

/-- The CT of hart h stands at a boundary where nothing comes before its instruction: no request to take, no wait,
no record to write, no interrupt, no breakpoint, no strip to begin. -/
def plain (s : State) (h : Nat) : Prop :=
  s.pointReady h = false ∧ s.waitReady h = false ∧ s.overdue h = false ∧ (s.ctx h).ctRuns = true ∧ (s.ctx h).trapped = false ∧
  (s.ctx h).fresh = false ∧ s.traceStops h = false ∧ (s.ctx h).sampleDue = false ∧ s.interruptNow h = none ∧ s.bpNow h 16 = none ∧
  ¬ ((s.ctx h).inBody = true ∧ (s.ctx h).loop.mode = .seq ∧ (s.ctx h).loop.gap = true)

/-- The state after a step whose agent's instruction answered t: time passes, and a breakpoint match of the CT that
is over is forgotten. -/
def stepped (s : State) (h agent : Nat) (t : State) : State := (unmatch agent s.pc (s.ctx h).instret h t).pass

/-- Goes on with an outcome as a step does. -/
def thenStep (o : Out) (f : State → State) : Out :=
  match o with
  | .next t => .next (f t)
  | .fault e => .fault e
  | .refused r => .refused r

/-! Scalar accesses. -/

/-- Destination, base, offset, bytes and sign of a load. -/
def loadShape : Instr → Option (Reg × Reg × BitVec 12 × Nat × Bool)
  | .lb rd a imm => some (rd, a, imm, 1, true)
  | .lh rd a imm => some (rd, a, imm, 2, true)
  | .lw rd a imm => some (rd, a, imm, 4, true)
  | .ld rd a imm => some (rd, a, imm, 8, true)
  | .lbu rd a imm => some (rd, a, imm, 1, false)
  | .lhu rd a imm => some (rd, a, imm, 2, false)
  | .lwu rd a imm => some (rd, a, imm, 4, false)
  | _ => none

/-- Base, data, offset and bytes of a store. -/
def storeShape : Instr → Option (Reg × Reg × BitVec 12 × Nat)
  | .sb a b imm => some (a, b, imm, 1)
  | .sh a b imm => some (a, b, imm, 2)
  | .sw a b imm => some (a, b, imm, 4)
  | .sd a b imm => some (a, b, imm, 8)
  | _ => none

/-- An n-byte value in a register. -/
def extended (n : Nat) (signed : Bool) (v : Nat) : Word :=
  if signed then (BitVec.ofNat (8 * n) v).signExtend 64 else BitVec.ofNat 64 (v % 2 ^ (8 * n))

/-- An address outside the apertures. -/
abbrev plainVa (va : Word) : Prop := isAperture va = false ∧ isClusterLocal va = false

/-- What n bytes at pa hold for the mover: its own queued stores, the newest last, over home memory (R67). -/
def seen (s : State) (pa n : Nat) : List Byte := (List.range n).map fun i => overlay s.queue (pa + i) (s.memByte (pa + i))

/-- Which data an AMO of n bytes leaves, from the old value and the operand. -/
def amoResult (n : Nat) : Instr → Option (Bool × Bool × Reg × Reg × Reg × (BitVec (8 * n) → BitVec (8 * n) → BitVec (8 * n)))
  | .amoswapW aq rl rd a b => if n = 4 then some (aq, rl, rd, a, b, fun _ y => y) else none
  | .amoaddW aq rl rd a b => if n = 4 then some (aq, rl, rd, a, b, fun x y => x + y) else none
  | .amoxorW aq rl rd a b => if n = 4 then some (aq, rl, rd, a, b, fun x y => x ^^^ y) else none
  | .amoandW aq rl rd a b => if n = 4 then some (aq, rl, rd, a, b, fun x y => x &&& y) else none
  | .amoorW aq rl rd a b => if n = 4 then some (aq, rl, rd, a, b, fun x y => x ||| y) else none
  | .amominW aq rl rd a b => if n = 4 then some (aq, rl, rd, a, b, fun x y => if x.toInt < y.toInt then x else y) else none
  | .amomaxW aq rl rd a b => if n = 4 then some (aq, rl, rd, a, b, fun x y => if x.toInt < y.toInt then y else x) else none
  | .amominuW aq rl rd a b => if n = 4 then some (aq, rl, rd, a, b, fun x y => if x.toNat < y.toNat then x else y) else none
  | .amomaxuW aq rl rd a b => if n = 4 then some (aq, rl, rd, a, b, fun x y => if x.toNat < y.toNat then y else x) else none
  | .amoswapD aq rl rd a b => if n = 8 then some (aq, rl, rd, a, b, fun _ y => y) else none
  | .amoaddD aq rl rd a b => if n = 8 then some (aq, rl, rd, a, b, fun x y => x + y) else none
  | .amoxorD aq rl rd a b => if n = 8 then some (aq, rl, rd, a, b, fun x y => x ^^^ y) else none
  | .amoandD aq rl rd a b => if n = 8 then some (aq, rl, rd, a, b, fun x y => x &&& y) else none
  | .amoorD aq rl rd a b => if n = 8 then some (aq, rl, rd, a, b, fun x y => x ||| y) else none
  | .amominD aq rl rd a b => if n = 8 then some (aq, rl, rd, a, b, fun x y => if x.toInt < y.toInt then x else y) else none
  | .amomaxD aq rl rd a b => if n = 8 then some (aq, rl, rd, a, b, fun x y => if x.toInt < y.toInt then y else x) else none
  | .amominuD aq rl rd a b => if n = 8 then some (aq, rl, rd, a, b, fun x y => if x.toNat < y.toNat then x else y) else none
  | .amomaxuD aq rl rd a b => if n = 8 then some (aq, rl, rd, a, b, fun x y => if x.toNat < y.toNat then y else x) else none
  | _ => none

/-- An LR or SC: acquire, release, destination, base, data (x0 for an LR) and bytes. -/
def lrShape : Instr → Option (Bool × Bool × Reg × Reg × Nat)
  | .lrW aq rl rd a => some (aq, rl, rd, a, 4)
  | .lrD aq rl rd a => some (aq, rl, rd, a, 8)
  | _ => none
def scShape : Instr → Option (Bool × Bool × Reg × Reg × Reg × Nat)
  | .scW aq rl rd a b => some (aq, rl, rd, a, b, 4)
  | .scD aq rl rd a b => some (aq, rl, rd, a, b, 8)
  | _ => none

/-- An atomic access of n bytes at a register's address that reaches pa and may be performed: aligned, translated,
its class empty of the mover's stores, and with rl every class (R74, R152). -/
def atomicAt (s : State) (a : Reg) (n : Nat) (rl : Bool) (acc : Access) (x : Xl) (s1 : State) : Prop :=
  plainVa (s.rx a) ∧ (s.rx a).toNat % n = 0 ∧ s.translate (s.rx a) acc = (.ok x, s1) ∧
  s1.classEmpty x.pa = true ∧ (rl = true → s1.queue = [])

/-- The bytes from pa on, and every other byte as before. -/
def wroteMem (s t : State) (pa : Nat) (bs : List Byte) : Prop :=
  (∀ i (hi : i < bs.length), t.memByte (pa + i) = bs[i]) ∧
  (∀ a, a < pa ∨ pa + bs.length ≤ a → t.memByte a = s.memByte a)

/-- The physical addresses of n bytes from byte i of a misaligned store on, each translated by itself. -/
def byteAddrs (va : Word) (i : Nat) : Nat → State → Option (List Nat × State)
  | 0, s => some ([], s)
  | n + 1, s => match s.translate (va + BitVec.ofNat 64 i) .store with
    | (.ok x, s1) => (byteAddrs va (i + 1) n s1).map fun (l, t) => (x.pa :: l, t)
    | _ => none

/-! CSRs. -/

/-- The CSRs that a write leaves at the value's implemented bits. -/
def keptFields : List (BitVec 12 × Word) :=
  [(0x802, 0xFFFFFFFFFFFFFFFF), (0x803, 0xFFFFFFFFFFFFFFFF), (0x806, 1), (0x809, 0x1FFFFFFFF), (0x104, 0x222),
   (0x140, 0xFFFFFFFFFFFFFFFF), (0x142, 0x800000000000003F), (0x143, 0xFFFFFFFFFFFFFFFF), (0x5C0, 0xFFFFFFFFFFFFFFFF), (0x5C1, 0x1F),
   (0x5C7, 0xFFFFFFFF00000001)]

/-- What a CSR instruction writes, if anything, from the old value. -/
def csrNew (s : State) : Instr → Option (Reg × BitVec 12 × Option (Word → Word))
  | .csrrw rd a n => some (rd, n, some fun _ => s.rx a)
  | .csrrs rd a n => some (rd, n, if a = 0#5 then none else some fun o => o ||| s.rx a)
  | .csrrc rd a n => some (rd, n, if a = 0#5 then none else some fun o => o &&& ~~~(s.rx a))
  | .csrrwi rd u n => some (rd, n, some fun _ => u.setWidth 64)
  | .csrrsi rd u n => some (rd, n, if u = 0#5 then none else some fun o => o ||| u.setWidth 64)
  | .csrrci rd u n => some (rd, n, if u = 0#5 then none else some fun o => o &&& ~~~(u.setWidth 64))
  | _ => none

/-! Vector instructions that read and write whole register groups. -/

/-- A CT or a strip's cluster executes with a valid `vty`, aligned groups, no stream bound, no load under way, and no
micro-thread of the context running: the conditions under which R143, R161, R18, R215 and R229 let a register instruction
act at once. -/
def vecPlain (s : State) (regs : List Nat) : Prop :=
  movesCt s ∧ vtyVill s.view.vty = false ∧ (∀ r ∈ regs, r % s.view.lmul = 0) ∧
  (∀ t ∈ (s.ctx s.hart).streams.toList, t.bound = false) ∧ (s.ctx s.hart).loading = [] ∧
  (s.mts.any fun p => p.2.state = .running && p.1 / 128 % 4 == ctxNo s.hart) = false

/-- The elements a first execution zeroes: inactive ones under MZ, the tail under TZ (R147). -/
def policyZeros (s : State) (gm : Nat) : List Nat :=
  if s.mfSet s.view then [] else
    (if s.view.vty.getLsbD 5 then (List.range s.view.vl).filter fun e => !(s.actives s.view gm).contains e else []) ++
    (if s.view.vty.getLsbD 4 then (List.range (s.view.vlmax - s.view.vl)).map (· + s.view.vl) else [])

/-- The state after the elements of register group d, `ldst` if `sets`, and the end of a reissue. -/
def elemsWritten (s : State) (d : Nat) (sets : Bool) (vals : List (Nat × BitVec 32 × Bool)) : State :=
  let t := s.putElems s.view d vals
  (if sets then t.modCtx s.hart fun c => { c with ldst := BitVec.ofNat 5 d } else t).clearMf s.view

/-- Element e of d ← val e for each active element, the policy's zeros, and the next instruction. -/
def vecDone (s : State) (gm d len : Nat) (sets : Bool) (val : Nat → BitVec 32 × Bool) : State :=
  (elemsWritten s d sets (((s.actives s.view gm).map fun e => (e, val e)) ++ (policyZeros s gm).map fun e => (e, 0, false))).retire len

/-- The same of a mask destination. -/
def maskDone (s : State) (gm m len : Nat) (val : Nat → Bool × Bool) : State :=
  ((s.setMaskBits s.view m (((s.actives s.view gm).map fun e => (e, val e)) ++
    (policyZeros s gm).map fun e => (e, false, false))).clearMf s.view).retire len

/-- Whether the governing bit of element e is poisoned (R188). -/
def tainted (s : State) (gm e : Nat) : Bool := gm ≠ 0 && (s.maskBit s.view gm e).2

/-- The values of elements in order, each read after those before it are written. -/
def inOrder (v : View) (d : Nat) (val : State → Nat → BitVec 32 × Bool) : List Nat → State → List (Nat × BitVec 32 × Bool)
  | [], _ => []
  | e :: l, t => (e, val t e) :: inOrder v d val l (t.putElems v d [(e, val t e)])

/-- Whether a replicated source b is the destination itself. -/
def ownSource (o : T48) : Bool := o.kind = 0 && o.rep ≠ 0#2 && o.b = o.d

/-- Element e of the destination ← val e in the state before, for each active element: of an instruction whose replicated
source b is its own destination, in the state that the elements below e have left (R144, R147; the model's choice, log 107). -/
def vecTurns (s : State) (gm : Nat) (o : T48) (own : Bool) (val : State → Nat → BitVec 32 × Bool) : State :=
  (elemsWritten s o.d.toNat true ((if own then inOrder s.view o.d.toNat val (s.actives s.view gm) s
    else (s.actives s.view gm).map fun e => (e, val s e)) ++ (policyZeros s gm).map fun e => (e, 0, false))).retire 6

/-- Source element e of a T48 operand b: a replicated vector element, a scalar, or the immediate, sign-extended or for
a shift zero-extended (R113, R136, R146). -/
def operandB (s : State) (o : T48) (shift : Bool) (e : Nat) : BitVec 32 × Bool :=
  match o.kind with
  | 0 => s.elem s.view o.b.toNat (if o.rep = 0#2 then e else if o.rep = 1#2 then 0 else if o.rep = 2#2 then e % 4 else e % 16)
  | 1 => (if s.view.sb = 2 then ((s.rx o.b).setWidth 16).setWidth 32 else (s.rx o.b).setWidth 32, false)
  | _ => (if shift then o.b.setWidth 32 else if s.view.sb = 2 then (o.b.signExtend 16).setWidth 32 else o.b.signExtend 32, false)

/-- The same in a later state of the same execution. -/
def operandIn (s : State) (o : T48) (shift : Bool) (t : State) (e : Nat) : BitVec 32 × Bool :=
  match o.kind with
  | 0 => t.elem s.view o.b.toNat (if o.rep = 0#2 then e else if o.rep = 1#2 then 0 else if o.rep = 2#2 then e % 4 else e % 16)
  | _ => operandB s o shift e

/-- The vector registers of a T48 instruction with source a, and b where it is one. -/
def regsAB (o : T48) : List Nat := o.a.toNat :: (if o.kind = 0 then [o.b.toNat] else [])

/-- VIA's computations on w-bit integers (R197, R198), and whether source b is a shift amount. -/
def intOp (w : Nat) : Instr → Option (T48 × Bool × (BitVec w → BitVec w → BitVec w))
  | .vadd o => some (o, false, fun a b => a + b)
  | .vsub o => some (o, false, fun a b => a - b)
  | .vmul o => some (o, false, fun a b => a * b)
  | .vmulh o => some (o, false, fun a b => BitVec.ofInt w (a.toInt * b.toInt / 2 ^ w))
  | .vmulhn o => some (o, false, fun a b => BitVec.ofNat w (a.toNat * b.toNat / 2 ^ w))
  | .vand o => some (o, false, fun a b => a &&& b)
  | .vor o => some (o, false, fun a b => a ||| b)
  | .vxor o => some (o, false, fun a b => a ^^^ b)
  | .vsll o => some (o, true, fun a b => a <<< b.toNat)
  | .vsrl o => some (o, true, fun a b => a >>> b.toNat)
  | .vsra o => some (o, true, fun a b => a.sshiftRight b.toNat)
  | .vmin o => some (o, false, fun a b => if a.toInt ≤ b.toInt then a else b)
  | .vmax o => some (o, false, fun a b => if a.toInt ≤ b.toInt then b else a)
  | .vminn o => some (o, false, fun a b => if a.toNat ≤ b.toNat then a else b)
  | .vmaxn o => some (o, false, fun a b => if a.toNat ≤ b.toNat then b else a)
  | _ => none

/-- The integer K16 forms: source registers, and vLAST ← f vLAST vS (R132). -/
def intLast (w : Nat) : Instr → Option (List Nat × (BitVec w → BitVec w → BitVec w))
  | .vaddK vs => some ([vs.toNat], fun l a => l + a)
  | .vsubK vs => some ([vs.toNat], fun l a => l - a)
  | .vandK vs => some ([vs.toNat], fun l a => l &&& a)
  | .vorK vs => some ([vs.toNat], fun l a => l ||| a)
  | .vxorK vs => some ([vs.toNat], fun l a => l ^^^ a)
  | .vsllK n => some ([], fun l _ => l <<< n.toNat)
  | .vsraK n => some ([], fun l _ => l.sshiftRight n.toNat)
  | _ => none

/-- A w-bit lane of a 32-bit slot. -/
def inLane (s : State) (f : (w : Nat) → BitVec w → BitVec w → BitVec w) (a b : BitVec 32) : BitVec 32 :=
  (f (8 * s.view.sb) (a.setWidth _) (b.setWidth _)).setWidth 32

/-- VFA's computations from the exact values of the sources, each rounded once (R190 to R195): the number of sources
(1: a; 2: a and b; 3: a, b and d), and the result. -/
def floatOp (s : State) : Instr → Option (T48 × Nat × (BitVec 3 → BitVec 32 → BitVec 32 → BitVec 32 → BitVec 32))
  | .vfadd o => some (o, 2, fun rm _ a b => s.view.fout rm (xadd rm (s.view.xv a) (s.view.xv b)))
  | .vfsub o => some (o, 2, fun rm _ a b => s.view.fout rm (xadd rm (s.view.xv a) (xneg (s.view.xv b))))
  | .vfmul o => some (o, 2, fun rm _ a b => s.view.fout rm (xmul (s.view.xv a) (s.view.xv b)))
  | .vfma o => some (o, 3, fun rm d a b => s.view.fout rm (xadd rm (xmul (s.view.xv a) (s.view.xv b)) (s.view.xv d)))
  | .vfms o => some (o, 3, fun rm d a b => s.view.fout rm (xadd rm (xmul (s.view.xv a) (s.view.xv b)) (xneg (s.view.xv d))))
  | .vfnma o => some (o, 3, fun rm d a b => s.view.fout rm (xadd rm (s.view.xv d) (xneg (xmul (s.view.xv a) (s.view.xv b)))))
  | .vfmin o => some (o, 2, fun _ _ a b => fPick s.view false a b)
  | .vfmax o => some (o, 2, fun _ _ a b => fPick s.view true a b)
  | .vfdiv o => some (o, 2, fun rm _ a b => s.view.fout rm (xdiv (s.view.xv a) (s.view.xv b)))
  | .vfsqrt o => some (o, 1, fun rm _ a _ => s.view.fout rm (xsqrt (s.view.xv a)))
  | .vfrcp o => some (o, 1, fun rm _ a _ => s.view.fout rm (xrcp (s.view.xv a)))
  | .vfrsq o => some (o, 1, fun rm _ a _ => s.view.fout rm (xrsq (s.view.xv a)))
  | .vfexp2 o => some (o, 1, fun rm _ a _ => s.view.fout rm (xexp2 (s.view.xv a)))
  | .vflog2 o => some (o, 1, fun rm _ a _ => s.view.fout rm (xlog2 (s.view.xv a)))
  | .vfabs o => some (o, 1, fun _ _ a _ => fSign s.view a fun _ => false)
  | .vfneg o => some (o, 1, fun _ _ a _ => fSign s.view a fun n => !n)
  | .vfsgn o => some (o, 2, fun _ _ a b => fSign s.view a fun _ => b.getLsbD (8 * s.view.sb - 1))
  | .vfcvt o => some (o, 1, fun rm _ a _ =>
      fConvert s.view (o.aux.extractLsb' 3 3).toNat rm ((s.ctx s.hart).vrm.getLsbD 3) a)
  | .vfclass o => some (o, 1, fun _ _ a _ => fClass s.view a)
  | _ => none

/-- The floating K16 forms (R132): sources, and vLAST ← f vLAST vS vT. -/
def floatLast (s : State) : Instr → Option (List Nat × (BitVec 3 → BitVec 32 → BitVec 32 → BitVec 32 → BitVec 32))
  | .vfaddK vs => some ([vs.toNat], fun rm l a _ => s.view.fout rm (xadd rm (s.view.xv l) (s.view.xv a)))
  | .vfsubK vs => some ([vs.toNat], fun rm l a _ => s.view.fout rm (xadd rm (s.view.xv l) (xneg (s.view.xv a))))
  | .vfmulK vs => some ([vs.toNat], fun rm l a _ => s.view.fout rm (xmul (s.view.xv l) (s.view.xv a)))
  | .vfmaK vs vt => some ([vs.toNat, vt.toNat], fun rm l a b => s.view.fout rm (xadd rm (xmul (s.view.xv a) (s.view.xv b)) (s.view.xv l)))
  | .vfmaxK vs => some ([vs.toNat], fun _ l a _ => fPick s.view true l a)
  | .vfminK vs => some ([vs.toNat], fun _ l a _ => fPick s.view false l a)
  | _ => none

/-- The rounding mode an instruction uses: its own, or that of `vrm` (R43). -/
def roundMode (s : State) (rm : BitVec 3) : BitVec 3 := if rm = 0#3 then (s.ctx s.hart).vrm.extractLsb' 0 3 else rm

/-- Compares (R196, R197): bit e of mask d. -/
def compareOp (s : State) : Instr → Option (T48 × (BitVec 32 → BitVec 32 → Bool))
  | .vseq o => some (o, fun a b => a.setWidth (8 * s.view.sb) == b.setWidth (8 * s.view.sb))
  | .vslt o => some (o, fun a b => decide ((a.setWidth (8 * s.view.sb)).toInt < (b.setWidth (8 * s.view.sb)).toInt))
  | .vsltn o => some (o, fun a b => decide ((a.setWidth (8 * s.view.sb)).toNat < (b.setWidth (8 * s.view.sb)).toNat))
  | .vfeq o => some (o, fun a b => xcmp (s.view.xv a) (s.view.xv b) == some .eq)
  | .vflt o => some (o, fun a b => xcmp (s.view.xv a) (s.view.xv b) == some .lt)
  | .vfle o => some (o, fun a b => xcmp (s.view.xv a) (s.view.xv b) == some .eq || xcmp (s.view.xv a) (s.view.xv b) == some .lt)
  | _ => none

/-! VPERM, VRED and VMASK. -/

/-- A scalar operand as a lane value. -/
def laneScalar (s : State) (r : Reg) : BitVec 32 := if s.view.sb = 2 then ((s.rx r).setWidth 16).setWidth 32 else (s.rx r).setWidth 32

/-- An element named by its number, or another value where there is none. -/
def elemOr (s : State) (a : Nat) (fill : BitVec 32) : Option Nat → BitVec 32 × Bool
  | some j => s.elem s.view a j
  | none => (fill, false)

/-- Adds poison. -/
def poisonedBy (x : BitVec 32 × Bool) (p : Bool) : BitVec 32 × Bool := (x.1, x.2 || p)

/-- The immediate as a lane value. -/
def laneImm (s : State) (b : Reg) : BitVec 32 := if s.view.sb = 2 then (b.signExtend 16).setWidth 32 else b.signExtend 32

/-- The index of element e for a gather: an element, a scalar or the immediate (R204). -/
def gatherAt (s : State) (o : T48) (e : Nat) : BitVec 32 × Bool :=
  match o.kind with
  | 0 => operandB s o false e
  | 1 => (laneScalar s o.b, false)
  | _ => (laneImm s o.b, false)

/-- The governed elements below e in the domain of e (R206), and whether a poisoned mask bit counted. -/
def expandAt (s : State) (m e : Nat) : Nat × Bool :=
  let below := (List.range e).filter fun j => s.view.dieOf j = s.view.dieOf e && j < s.view.vl
  ((below.filter fun j => s.governs s.view m j).length, below.any fun j => (s.maskBit s.view m j).2)

/-- Element e of the destination of a VPERM instruction with a governing mask, and the groups it names (R203, R204,
R206, R207). Local indices and `ofLocal` are those of the element's permute domain (R201). -/
def permElem (s : State) : Instr → Option (T48 × List Nat × (Nat → BitVec 32 × Bool))
  | .vslideup o => some (o, [o.a.toNat], fun e => elemOr s o.a.toNat (laneScalar s o.b)
      (if s.view.local e < o.aux.toNat then none else s.view.ofLocal e (s.view.local e - o.aux.toNat)))
  | .vslidedn o => some (o, [o.a.toNat], fun e => elemOr s o.a.toNat (laneScalar s o.b)
      (if s.view.local e + o.aux.toNat < s.view.vlOf e then s.view.ofLocal e (s.view.local e + o.aux.toNat) else none))
  | .vrgather o => some (o, o.a.toNat :: (if o.kind = 0 then [o.b.toNat] else []), fun e =>
      poisonedBy (elemOr s o.a.toNat 0 (s.view.ofLocal e (gatherAt s o e).1.toNat)) (gatherAt s o e).2)
  | .vexpand o => some (o, [o.a.toNat], fun e =>
      poisonedBy (elemOr s o.a.toNat 0 (s.view.ofLocal e (expandAt s o.gm.toNat e).1)) (expandAt s o.gm.toNat e).2)
  | .vbcast o => some (o, [o.a.toNat], fun _ =>
      let j := if o.kind = 1 then (laneScalar s o.b).toNat else (laneImm s o.b).toNat
      if j < s.view.vlmax then s.elem s.view o.a.toNat j else (0, false))
  | .vmv o => some (o, [o.a.toNat], fun e => s.elem s.view o.a.toNat e)
  | _ => none

/-- The integer reductions on w-bit lanes, and the floating picks. -/
def reducePair (s : State) : Instr → Option (T48 × (BitVec 32 → BitVec 32 → BitVec 32))
  | .vredsum o => some (o, inLane s fun _ a b => a + b)
  | .vredmax o => some (o, inLane s fun _ a b => if a.toInt ≤ b.toInt then b else a)
  | .vredmin o => some (o, inLane s fun _ a b => if a.toInt ≤ b.toInt then a else b)
  | _ => none

/-- The initial value of a reduction (R209). -/
def startValue (s : State) (o : T48) : BitVec 32 × Bool :=
  match o.kind with
  | 0 => s.elem s.view o.b.toNat 0
  | 1 => (laneScalar s o.b, false)
  | _ => (laneImm s o.b, false)

/-- A value alone: after DZ, a NaN made canonical. -/
def aloneValue (s : State) (i : BitVec 32) : BitVec 32 :=
  BitVec.ofNat 32 (if s.view.xv i = .nan then (laneFp s.view.sb).nanBits else s.view.fin i)

/-- One rounded addition. -/
def roundedSum (s : State) (rm : BitVec 3) (a b : Nat) : Nat :=
  (s.view.fout rm (xadd rm ((laneFp s.view.sb).decode a) ((laneFp s.view.sb).decode b))).toNat

/-- The tree of R62 over positions lo to lo + 2^k − 1: an absent side passes the other one up. -/
def treeSum (s : State) (rm : BitVec 3) (at' : Nat → Option Nat) : Nat → Nat → Option Nat
  | 0, lo => at' lo
  | k + 1, lo =>
    match treeSum s rm at' k lo, treeSum s rm at' k (lo + 2 ^ k) with
    | some a, some b => some (roundedSum s rm a b)
    | some a, none => some a
    | none, b => b

/-- The floating reductions (R61, R62, R191, R209): in order, as a tree, largest and smallest. -/
def reduceFloat (s : State) : Instr → Option (T48 × (BitVec 3 → BitVec 32 → List Nat → BitVec 32))
  | .vfredo o => some (o, fun rm i l => if l = [] then aloneValue s i
      else BitVec.ofNat 32 (l.foldl (fun a e => roundedSum s rm a (s.view.fin (s.elem s.view o.a.toNat e).1)) (s.view.fin i)))
  | .vfredt o => some (o, fun rm i l =>
      match treeSum s rm (fun e => if l.contains e then some (s.view.fin (s.elem s.view o.a.toNat e).1) else none)
        (Nat.log2 s.view.vl + 1) 0 with
      | some t => BitVec.ofNat 32 (roundedSum s rm (s.view.fin i) t)
      | none => aloneValue s i)
  | .vfredmax o => some (o, fun _ i l => if l = [] then aloneValue s i
      else l.foldl (fun a e => fPick s.view true a (s.elem s.view o.a.toNat e).1) i)
  | .vfredmin o => some (o, fun _ i l => if l = [] then aloneValue s i
      else l.foldl (fun a e => fPick s.view false a (s.elem s.view o.a.toNat e).1) i)
  | _ => none

/-- The state after a reduction: element 0, the tail's zeros under TZ, and the next instruction. -/
def reduced (s : State) (o : T48) (r : BitVec 32) (p : Bool) : State :=
  (elemsWritten s o.d.toNat true ((0, r, p) ::
    ((if !s.mfSet s.view && s.view.vty.getLsbD 4 then (List.range (s.view.vlmax - 1)).map (· + 1) else []).map fun e => (e, 0, false)))).retire 6

/-- Whether a reduction's result is poisoned (R209, R373). -/
def reducePois (s : State) (o : T48) : Bool :=
  (startValue s o).2 || (s.actives s.view o.gm.toNat).any fun e => (s.elem s.view o.a.toNat e).2 || tainted s o.gm.toNat e

/-- Bit e of a mask operation (R210). -/
def bitResult (s : State) : Instr → Option (T48 × (Nat → Bool × Bool))
  | .mand o => some (o, fun e => ((s.maskBit s.view o.a.toNat e).1 && (s.maskBit s.view o.b.toNat e).1,
      (s.maskBit s.view o.a.toNat e).2 || (s.maskBit s.view o.b.toNat e).2 || tainted s o.gm.toNat e))
  | .mor o => some (o, fun e => ((s.maskBit s.view o.a.toNat e).1 || (s.maskBit s.view o.b.toNat e).1,
      (s.maskBit s.view o.a.toNat e).2 || (s.maskBit s.view o.b.toNat e).2 || tainted s o.gm.toNat e))
  | .mxor o => some (o, fun e => ((s.maskBit s.view o.a.toNat e).1 != (s.maskBit s.view o.b.toNat e).1,
      (s.maskBit s.view o.a.toNat e).2 || (s.maskBit s.view o.b.toNat e).2 || tainted s o.gm.toNat e))
  | .mandn o => some (o, fun e => ((s.maskBit s.view o.a.toNat e).1 && !(s.maskBit s.view o.b.toNat e).1,
      (s.maskBit s.view o.a.toNat e).2 || (s.maskBit s.view o.b.toNat e).2 || tainted s o.gm.toNat e))
  | .mnot o => some (o, fun e => (!(s.maskBit s.view o.a.toNat e).1, (s.maskBit s.view o.a.toNat e).2 || tainted s o.gm.toNat e))
  | .mset o => some (o, fun e => (true, tainted s o.gm.toNat e))
  | .mclr o => some (o, fun e => (false, tainted s o.gm.toNat e))
  | _ => none

/-- The slot of a 512 B chunk of a vector register: cluster, register, slot number. -/
def chunkKey (h q r j : Nat) : Nat := ((4 * q + ctxNo h) * 32 + r) * 128 + j

/-! VCFG, UCTL and the micro-threads. -/

/-- VLMAX of a configuration over n clusters (R14). -/
def lanesOf (n : Nat) (vty : Word) : Nat :=
  n * 512 * 2 ^ (vty.extractLsb' 2 2).toNat / (if vty.extractLsb' 0 2 = 1#2 then 2 else 4)

/-- A grant of R14: no more than asked, than VLMAX, and than CCAP elements a cluster. -/
def granted (ccap n asked lanes : Nat) : Nat := min (min asked lanes) (if ccap = 0 then asked else min asked (ccap * n))

/-- The configuration a `vsetl` or `vsetlr` asks for (R160), and whether VLMAX is requested. -/
def asksFor (s : State) : Instr → Option (T48 × Word)
  | .vsetl o => some (o, o.aux.setWidth 64)
  | .vsetlr o => some (o, s.rx o.b)
  | _ => none

/-- The micro-threads of the first n·128 numbers but some are as they were. -/
def otherThreads (s t : State) (h : Nat) (es : List Nat) : Prop :=
  ∀ j, j < 128 * (s.order h).length → j ∉ es → t.thread h j = s.thread h j

/-- The micro-thread that moves, with the poison of an instruction's governing predicate. -/
def threadAt (s : State) (h i : Nat) (o : B64) : Bt :=
  let t : Bt := { h := h, i := i, q := (s.order h).getD (i / 128) 0, pos := i % 128, m := s.thread h i, pp := false }
  { t with pp := (t.p s o.pred.toNat).2 }

/-- A B64 instruction acts: its predicate holds, a poisoned one being taken as holding, and no vector register it
names is bound to a stream (R251, R252). -/
def governedBy (s : State) (t : Bt) (o : B64) (regs : List (BitVec 6)) : Prop :=
  (t.pp = true ∨ (t.p s o.pred.toNat).1 ≠ o.pneg) ∧ regs.any (t.bound s) = false

/-- B: an element register, or the immediate sign-extended (R253). -/
def srcB (s : State) (t : Bt) (o : B64) : BitVec 32 × Bool := if o.c = 1#6 then (o.imm.signExtend 32, false) else t.e s o.b
def regsDAB (o : B64) : List (BitVec 6) := o.d :: o.a :: (if o.c = 1#6 then [] else [o.b])

/-- The integer operations of micro-threads (R253). -/
def threadInt : Instr → Option (B64 × (BitVec 32 → BitVec 32 → BitVec 32))
  | .b64Add o => some (o, fun a b => a + b)
  | .b64Sub o => some (o, fun a b => a - b)
  | .b64Mul o => some (o, fun a b => a * b)
  | .b64Mulh o => some (o, fun a b => BitVec.ofInt 32 (a.toInt * b.toInt / 2 ^ 32))
  | .b64And o => some (o, fun a b => a &&& b)
  | .b64Or o => some (o, fun a b => a ||| b)
  | .b64Xor o => some (o, fun a b => a ^^^ b)
  | .b64Shl o => some (o, fun a b => a <<< b.toNat)
  | .b64Shr o => some (o, fun a b => a >>> b.toNat)
  | .b64Sra o => some (o, fun a b => a.sshiftRight b.toNat)
  | .b64Min o => some (o, fun a b => if b.toInt < a.toInt then b else a)
  | .b64Max o => some (o, fun a b => if a.toInt < b.toInt then b else a)
  | _ => none

/-- The compares, into a predicate (R255): whether B may be the immediate. -/
def threadCompare (v : View) : Instr → Option (B64 × Bool × (BitVec 32 → BitVec 32 → Bool))
  | .b64Seq o => some (o, true, fun a b => a == b)
  | .b64Slt o => some (o, true, fun a b => decide (a.toInt < b.toInt))
  | .b64Sltn o => some (o, true, fun a b => decide (a.toNat < b.toNat))
  | .b64Feq o => some (o, false, fun a b => xcmp (v.xv a) (v.xv b) == some .eq)
  | .b64Flt o => some (o, false, fun a b => xcmp (v.xv a) (v.xv b) == some .lt)
  | .b64Fle o => some (o, false, fun a b => xcmp (v.xv a) (v.xv b) == some .eq || xcmp (v.xv a) (v.xv b) == some .lt)
  | _ => none

/-- The floating operations of micro-threads under the captured arithmetic state (R254): how many sources. -/
def threadFloat (v : View) (sat : Bool) : Instr → Option (B64 × Nat × (BitVec 3 → BitVec 32 → BitVec 32 → BitVec 32 → BitVec 32))
  | .b64Fadd o => some (o, 2, fun rm a b _ => v.fout rm (xadd rm (v.xv a) (v.xv b)))
  | .b64Fsub o => some (o, 2, fun rm a b _ => v.fout rm (xadd rm (v.xv a) (xneg (v.xv b))))
  | .b64Fmul o => some (o, 2, fun rm a b _ => v.fout rm (xmul (v.xv a) (v.xv b)))
  | .b64Fdiv o => some (o, 2, fun rm a b _ => v.fout rm (xdiv (v.xv a) (v.xv b)))
  | .b64Fmin o => some (o, 2, fun _ a b _ => fPick v false a b)
  | .b64Fmax o => some (o, 2, fun _ a b _ => fPick v true a b)
  | .b64Fma o => some (o, 3, fun rm a b c => v.fout rm (xadd rm (xmul (v.xv a) (v.xv b)) (v.xv c)))
  | .b64Frcp o => some (o, 1, fun rm a _ _ => v.fout rm (xrcp (v.xv a)))
  | .b64Fsqrt o => some (o, 1, fun rm a _ _ => v.fout rm (xsqrt (v.xv a)))
  | .b64Fcvt o => some (o, 1, fun rm a _ _ => fConvert v o.c.toNat rm sat a)
  | _ => none

/-- The element registers that a computing B64 instruction names. -/
def threadRegs (v : View) (sat : Bool) (ins : Instr) : Option (B64 × List (BitVec 6)) :=
  match threadInt ins, threadCompare v ins, threadFloat v sat ins with
  | some (o, _), _, _ => some (o, regsDAB o)
  | _, some (o, imm, _), _ => some (o, o.a :: (if imm && o.c = 1#6 then [] else [o.b]))
  | _, _, some (o, n, _) => some (o, [o.d, o.a, o.b, o.c].take (n + 1))
  | none, none, none =>
    match ins with
    | .b64Li o => some (o, [o.d])
    | .b64Sel o => some (o, [o.d, o.a, o.b])
    | .b64Pand o | .b64Por o | .b64Pnot o | .b64Nop o => some (o, [])
    | _ => none

/-- Whether an address operand's access may be tried: nothing poisoned, aligned (R256). -/
def offsetOf (s : State) (t : Bt) (o : B64) : BitVec 32 := (t.e s o.a).1 + (o.imm.extractLsb' 0 20).signExtend 32
def threadVa (s : State) (t : Bt) (o : B64) : Word :=
  BitVec.ofNat 64 (0xFFFFF00000000000 + (o.imm.extractLsb' 20 4).toNat * 2 ^ 40) + (offsetOf s t o).setWidth 64

/-! Vector memory. -/

/-- The bit address of element e of a load or store (R212): unit-stride by the format's width (a plane format by 1),
strided, or indexed by an unpoisoned index. -/
def elemBit (s : State) (e : Nat) : Instr → Option (T48 × Nat)
  | .vld o | .vst o => some (o, (8 * (s.rx o.a).toNat + e * (if planeFmt o.fmt then 1 else fmtWidth o.fmt)) % 2 ^ 67)
  | .vlds o | .vsts o => some (o, 8 * (s.rx o.a + BitVec.ofNat 64 e * s.rx o.b).toNat)
  | .vldx o | .vstxO o | .vstxU o =>
    if (s.elem s.view o.b.toNat e).2 then none else some (o, 8 * (s.rx o.a + (s.elem s.view o.b.toNat e).1.setWidth 64).toNat)
  | _ => none

/-- The index register of an indexed access. -/
def indexReg : Instr → List Nat
  | .vldx o | .vstxO o | .vstxU o | .vgl o | .vsc o => [o.b.toNat]
  | _ => []

def isLoad : Instr → Bool
  | .vld _ | .vlds _ | .vldx _ => true
  | _ => false

/-- Reads elements in order, each by R213, or as it has been read ahead (R68, R358); none where one faults. -/
def readRow (v : View) (o : T48) : List (Nat × Nat) → State → Option (List (Nat × BitVec 32 × Bool) × State)
  | [], s => some ([], s)
  | (e, ba) :: l, s =>
    match s.readAhead? e with
    | some y => (readRow v o l s).map fun r => ((e, y) :: r.1, r.2)
    | none =>
      match s.readElem (s.ctx v.hart).cap o.fmt v.sb ba (v.loc e).1 (o.aux.getLsbD 7) with
      | (.ok y, s) => (readRow v o l s).map fun r => ((e, y) :: r.1, r.2)
      | _ => none

/-- Stores elements in order, each by R214, with `amax` as R58 says; none where one faults. -/
def storeRow (v : View) (o : T48) (data : Nat → BitVec 32) : List (Nat × Nat) → State → Option State
  | [], s => some s
  | (e, ba) :: l, s =>
    match s.writeElem (s.ctx v.hart).cap o.fmt v.sb ba (v.loc e).1 e (data e) with
    | (.ok (), s) => storeRow v o data l (s.modCtx v.hart fun c => noteAmax c o.fmt v.sb (data e))
    | _ => none

/-- A load of the mover's has been issued to register group d: it is empty until it delivers (R215). -/
def loadIssued (s t : State) (d : Nat) : State :=
  t.modCtx s.hart fun c => { c with
    loading := c.loading ++ [{ reg := d, size := s.view.lmul, ppc := s.pc, slot := s.stripSlot }] }

/-- Whether an active element is the highest-indexed of its index value: the one that stores (R76). -/
def winsAt (s : State) (o : T48) (e : Nat) : Bool :=
  !(s.actives s.view o.gm.toNat).any fun j => decide (e < j) && (s.elem s.view o.b.toNat j).1 == (s.elem s.view o.b.toNat e).1

/-- The elements of a group written in a later state under an earlier view. -/
def elemsAt (v : View) (s : State) (d : Nat) (sets : Bool) (vals : List (Nat × BitVec 32 × Bool)) : State :=
  let t := s.putElems v d vals
  (if sets then t.modCtx v.hart fun c => { c with ldst := BitVec.ofNat 5 d } else t).clearMf v

/-- The elements and where they lie, for an instruction whose every active element has an address. -/
def rowOf (s : State) (i : Instr) (es : List Nat) (row : List (Nat × Nat)) : Prop :=
  row.map (·.1) = es ∧ ∀ p ∈ row, ∃ o, elemBit s p.1 i = some (o, p.2)

/-- Resolves indexed elements at their home slices, aligned, outside the cluster-local space and past no PARAM window, and
for other than atomics on this device (R425); none where one is not. -/
def homeRow (v : View) (acc : Access) : List (Nat × Word) → State → Option (List (Nat × Xl) × State)
  | [], s => some ([], s)
  | (e, va) :: l, s =>
    if va.toNat % v.sb ≠ 0 then none else
    match s.place va v.sb (v.loc e).1 acc with
    | (.ok (.mem x _), s) =>
      if !(onDevice x.pa || acc == .amo) then none else (homeRow v acc l s).map fun r => ((e, x) :: r.1, r.2)
    | _ => none

/-- Stores indexed elements at their home slices in order (R219); none where one is not on this device. -/
def lineStores (v : View) (va : Nat → Word) (data : Nat → BitVec 32) : List Nat → State → Option State
  | [], s => some s
  | e :: l, s =>
    match s.place (va e) v.sb (v.loc e).1 .store with
    | (.ok (.mem x _), s) =>
      if !onDevice x.pa then none else lineStores v va data l (s.homeWrite s.writer x.pa (fullBytes (natLe v.sb (data e).toNat)))
    | _ => none

/-- A conditional store line by line: a line still linked takes its elements, and its link ends (R77, R219), with the
reservations on it (R151). Beside the state, the lines that were linked. -/
def lineByLine (v : View) (va : Nat → Word) (data : Nat → BitVec 32) (row : List (Nat × Xl)) :
    List Nat → State → Option (List Nat × State)
  | [], s => some ([], s)
  | k :: l, s =>
    let linked := (s.ctx v.hart).links.contains k
    match lineStores v va data (if linked then (row.filter fun p => p.2.pa / 512 = k).map (·.1) else []) s with
    | some s => (lineByLine v va data row l (s.modCtx v.hart fun c => { c with
        links := c.links.filter (· ≠ k), resv := c.resv.filter fun r => r / 8 ≠ k })).map fun r => (if linked then k :: r.1 else r.1, r.2)
    | none => none

/-- The address of an indexed element. -/
def indexedVa (s : State) (o : T48) (e : Nat) : Word := s.rx o.a + (s.elem s.view o.b.toNat e).1.setWidth 64

/-- Reads indexed elements at their home slices on this device, each linking its line; a PARAM element reads as R80 says. None where
one faults or lies beyond a PARAM window. -/
def linkRow (v : View) : List (Nat × Word) → State → Option (List (Nat × BitVec 32 × Bool) × State)
  | [], s => some ([], s)
  | (e, va) :: l, s =>
    if va.toNat % v.sb ≠ 0 then none else
    match s.place va v.sb (v.loc e).1 .load with
    | (.ok (.mem x param), s) =>
      if !onDevice x.pa then none else
      let r := match param with
        | some since => s.readParam x.pa v.sb since
        | none => s.readBypass x v.sb
      let linked := r.2.modCtx v.hart fun c => { c with
        links := if c.links.contains (x.pa / 512) then c.links else x.pa / 512 :: c.links }
      (linkRow v l linked).map fun q => ((e, BitVec.ofNat 32 (leNat r.1.1), r.1.2 || x.pois) :: q.1, q.2)
    | _ => none

/-- What a vector atomic leaves of w-bit data (R223). -/
def vamoOf (w : Nat) : Instr → Option (T48 × (BitVec w → BitVec w → BitVec w))
  | .vamoadd o => some (o, fun a b => a + b)
  | .vamofadd o => some (o, fun a b => BitVec.ofNat w (atomicAdd (laneFp (w / 8)) a.toNat b.toNat))
  | .vamomin o => some (o, fun a b => if unsignedFmt o.fmt then (if b.toNat < a.toNat then b else a) else if b.toInt < a.toInt then b else a)
  | .vamomax o => some (o, fun a b => if unsignedFmt o.fmt then (if a.toNat < b.toNat then b else a) else if a.toInt < b.toInt then b else a)
  | .vamoand o => some (o, fun a b => a &&& b)
  | .vamoor o => some (o, fun a b => a ||| b)
  | .vamoxor o => some (o, fun a b => a ^^^ b)
  | .vamoswap o => some (o, fun _ b => b)
  | _ => none

/-- Performs a vector atomic's read-modify-writes in the order given, with the old values; none where a word is
poisoned. -/
def amoRow (v : View) (w : Nat) (f : BitVec w → BitVec w → BitVec w) (data : Nat → BitVec 32) :
    List (Nat × Xl) → State → Option (List (Nat × BitVec 32) × State)
  | [], s => some ([], s)
  | (e, x) :: l, s =>
    match s.readUpdate x v.sb with
    | ((bs, false), s) =>
      let old := BitVec.ofNat w (leNat bs)
      (amoRow v w f data l (s.homeWrite s.writer x.pa (fullBytes (natLe v.sb (f old ((data e).setWidth w)).toNat)))).map
        fun r => ((e, old.setWidth 32) :: r.1, r.2)
    | _ => none

/-- The words of a `vcappend` header. -/
def headWord (s : State) (pa k : Nat) : Word := BitVec.ofNat 64 (leNat (s.memBytes (pa + 8 * k) 8))

/-! Streams, windows, billets. -/

/-- A stream control block as it stands after a binding (R228). -/
def boundAs (s : State) (h : Nat) (t : Stream) (reg : Reg) (d : List Word) : Prop :=
  t.bound = true ∧ t.reg = reg ∧ t.desc = d ∧ t.pos = 0 ∧ t.fetched = [] ∧ t.accepted = [] ∧ t.kept = none ∧ t.inLoop = false ∧
  t.sew = (s.ctx h).vty.extractLsb' 0 2 ∧ t.lmul = (s.ctx h).vty.extractLsb' 2 2 ∧ t.vrm = (s.ctx h).vrm ∧
  t.vpst = (s.ctx h).vpst ∧ t.vtb = (s.ctx h).vtb ∧ t.vsb = (s.ctx h).vsb ∧ t.vts = (s.ctx h).vts

/-- The other stream control blocks are as they were. -/
def otherStreams (s t : State) (h n : Nat) : Prop := ∀ m, m ≠ n → (t.ctx h).stream m = (s.ctx h).stream m

/-- The bytes of an element in a billet, from a row on, each after the last (R267). -/
def putRow (b r0 sb e : Nat) (x : BitVec 32 × Bool) (s : State) : State :=
  (List.range sb).foldl (fun u q => u.putRowByte b ((r0 + (e * sb + q) / 128) % 128) ((e * sb + q) % 128)
    (x.1.extractLsb' (8 * q) 8) x.2) s

/-- A billet descriptor's words (R268). -/
def billetDesc (w : List Word) : BilletDesc :=
  { base := w.getD 0 0, rstride := w.getD 1 0, sbase := w.getD 2 0, axis := (w.getD 3 0).getLsbD 41
    nblk := ((w.getD 3 0).extractLsb' 32 9).toNat, sstride := ((w.getD 3 0).extractLsb' 0 32).toNat }

/-- The limits of R268. -/
def billetDescOk (fmt : BitVec 6) (w : List Word) : Prop :=
  (w.getD 3 0).extractLsb' 42 22 = 0#22 ∧ (billetDesc w).nblk ≤ (if (billetDesc w).axis then 256 else 8) ∧
  (scaledFmt fmt = false → (billetDesc w).sbase = 0 ∧ (billetDesc w).nblk = 0)

/-- Everything but a core's billets, and the mover's bookkeeping, is as it was. -/
def onlyBillets (s t : State) : Prop :=
  t.mem = s.mem ∧ t.vreg = s.vreg ∧ t.cruc = s.cruc ∧ t.plate = s.plate ∧ ∀ r, t.rx r = s.rx r

/-! The MS. -/

/-- The unit that owns the MS, on whose core handle n is granted to it: the key of its elements (R284). -/
def grantedHandle (s : State) (n : Reg) : Option Nat :=
  match (s.ctx s.hart).unit with
  | some u => if u.grants.contains n.toNat ∧ (s.handle (24 * s.issuerCore + n.toNat)).job = some u.job
      then some (24 * s.issuerCore + n.toNat) else none
  | none => none

/-- The Plate row and column bytes below a bound on rows. -/
def plateSame (s t : State) (g : Nat) (row : Nat → Prop) : Prop :=
  ∀ r c, r < 16384 → c < 256 → row r → t.plateByte g r c = s.plateByte g r c

/-! The Anvil and the Crucible. -/

/-- A CT or an MS moves. -/
def movesBoth (s : State) : Prop :=
  match s.who with
  | .ct _ | .ms _ => True
  | .ind h slot => (stripOf (s.ctx h) slot).isSome
  | _ => False

/-- The FP32 value of four consecutive billet bytes, and of four consecutive Plate rows in a column. -/
def billetF32 (s : State) (b r k : Nat) : Xv :=
  fp32.decode (leNat ((List.range 4).map fun i => (s.rowByte b r (4 * k + i)).1))
def plateF32 (s : State) (g row k n : Nat) : Xv :=
  fp32.decode (leNat ((List.range 4).map fun i => (s.plateByte g (row + 4 * k + i) n).1))

/-- The other handles' elements are as they were. -/
def otherHandles (s t : State) (key : Nat) : Prop :=
  ∀ k r c, k ≠ key → r < 128 → c < 256 → t.crucElem k r c = s.crucElem k r c

/-- The mover waits at its instruction: registers, handles and memory are as before. -/
def keptWaiting (s t : State) : Prop :=
  t.pc = s.pc ∧ (∀ r, t.rx r = s.rx r) ∧ t.handles = s.handles ∧ t.cruc = s.cruc ∧ t.vreg = s.vreg ∧ t.mem = s.mem

/-- A row of the mailbox's commands, with the command and its argument in MBCMD (R441). -/
def mailboxRow (k : BitVec 8) (i : Instr) (p : Nat × BitVec 8) : Prop :=
  (i = .mbCert ∧ p = (1, 0)) ∨ (i = .mbAttest ∧ p = (2, 0)) ∨ (i = .mbInstall k ∧ p = (3, k)) ∨ (i = .mbExtend k ∧ p = (4, k)) ∨
  (i = .mbReset ∧ p = (5, 0))

/-- A command may run: none is under way, or it is the one. -/
def mayRun (s : State) (p : Nat × BitVec 8) : Prop := s.plat.cmdst ≠ 1 ∨ s.plat.mbcmd = some p

/-- No INSTALL is under way. -/
def noInstall (s : State) : Prop := ∀ k : BitVec 8, s.plat.mbcmd ≠ some (3, k)

/-- The bank, word and column of element i (R286). -/
def crucAt (xb : Word) (i : Nat) : Nat × Nat :=
  (((xb.extractLsb' 0 7).toNat + ((xb.extractLsb' 8 8).toNat + i) / 256) % 128, ((xb.extractLsb' 8 8).toNat + i) % 256)

/-! SYNC and ENGINE. -/

/-- The CT of hart h waits at its instruction, where a pre-emption request of its unit is honoured (R349); nothing else
changes. -/
def waits (s t : State) (h : Nat) : Prop := t = s.setCtx h { s.ctx h with atWait := true }

/-- Every store that waits for the CT of hart h is one that a release at a scope does not cover: below `.sys` a store to a
peer (R66, R433). -/
def performedFor (s : State) (h scope : Nat) : Prop := ∀ p ∈ (s.ctx h).queue, scope < 4 ∧ 2 ^ 51 ≤ p.pa

/-- The state after the acquire half of a fence: at `.die` or wider the core's cache-way copies go (R73). -/
def acquired (s : State) (g scope : Nat) : State := if 2 ≤ scope then s.dropWays g else s

/-- The CT of hart h changes its scalar registers and what k says, and stands at its next instruction. -/
def ctxDone (s t : State) (h : Nat) (k : Ctx → Ctx) : Prop :=
  t = s.setCtx h (t.ctx h) ∧
  t.ctx h = { (k (s.ctx h)).endSkip with
    x := (t.ctx h).x, shadow := (t.ctx h).shadow, pc := (s.ctx h).pc + 6, stallOn := none, instret := (s.ctx h).instret + 1 }

/-! REGION. -/

/-- The coordinates of point e of a grid instruction. -/
def coordsAt (s : State) (o : T48) (g : GridLevel) (e : Nat) : List (BitVec 32 × Bool) :=
  (List.range g.dim).map fun k => s.elem s.view (o.b.toNat + k * s.view.lmul) e

/-- The features of the points in order: each interpolated from the entries of its cell's corners, or NaN where a
coordinate is NaN (R292, R294). None where a point faults. -/
def gatherRow (g : GridLevel) (at' : Nat → List (BitVec 32 × Bool)) :
    List Nat → State → Option (List (Nat × List (BitVec 32 × Bool)) × State)
  | [], s => some ([], s)
  | e :: l, s =>
    match pointOf g (at' e) with
    | .poisoned => none
    | .nan => (gatherRow g at' l s).map fun r => ((e, List.replicate g.feat (0x7FC00000#32, false)) :: r.1, r.2)
    | .corners cs =>
      match readEntries g cs s with
      | (.ok es, s) => (gatherRow g at' l s).map fun r => ((e, (List.range g.feat).map (featureOf g es)) :: r.1, r.2)
      | _ => none

/-- The entries of the corners of nonzero weight of the points in order, tested for an update (R295). None where a point
faults. -/
def cornersRow (g : GridLevel) (at' : Nat → List (BitVec 32 × Bool)) :
    List Nat → State → Option (List (Nat × List (Xv × Parts)) × State)
  | [], s => some ([], s)
  | e :: l, s =>
    match pointOf g (at' e) with
    | .poisoned => none
    | .nan => (cornersRow g at' l s).map fun r => ((e, []) :: r.1, r.2)
    | .corners cs =>
      match gscTargets g .amoProbe (cs.filter fun c => weighs c.2) s with
      | (.ok ts, s) => (cornersRow g at' l s).map fun r => ((e, ts) :: r.1, r.2)
      | _ => none

/-- One corner's update: to each feature of its entry, the weight times the gradient, rounded once. -/
def scatterOne (g : GridLevel) (grad : Nat → BitVec 32) (u : State) (t : Xv × Parts) : State :=
  let old := u.updateParts t.2
  old.2.writeParts t.2 ((List.range g.feat).flatMap fun f =>
    natLe g.e ((if g.bf then bf16 else fp32).lane 1#3 (xadd 1#3
      (g.value (partsNat ((old.1.drop (f * g.e)).take g.e))) (xmul t.1 (fp32.decode (grad f).toNat)))))

/-- The updates of the points in order, each translated anew before its corners' (R295, R363). None where a point faults. -/
def scatterRow (g : GridLevel) (at' : Nat → List (BitVec 32 × Bool)) (grad : Nat → Nat → BitVec 32) : List Nat → State → Option State
  | [], s => some s
  | e :: l, s =>
    let hit := match pointOf g (at' e) with
      | .corners cs => cs.filter fun c => weighs c.2
      | _ => []
    match gscTargets g .amo hit s with
    | (.ok ts, s) => scatterRow g at' grad l (ts.foldl (scatterOne g (grad e)) s)
    | _ => none

/-- What the cells of a KV pool's block table and blocks hold for elements at byte offsets of the pool, in order
(R298): zero where an entry names no block. None where an element faults. -/
def poolRow (n : Nat) (k : Kv) : List (Nat × Nat) → State → Option (List (Nat × BitVec 32 × Bool) × State)
  | [], s => some ([], s)
  | (e, l) :: r, s =>
    match regionSpan elementCause .load (k.entry (l / 2 ^ k.log)) [(0, 4)] s with
    | (.ok ps, s) =>
      let d := s.readParts ps
      let blk := descBlk (partsNat d.1)
      if partsPois d.1 then (poolRow n k r d.2).map fun x => ((e, 0, true) :: x.1, x.2)
      else if blk = 0xFFFFFF then (poolRow n k r d.2).map fun x => ((e, 0, false) :: x.1, x.2)
      else if !k.fits blk then none
      else
        let va := k.block blk + BitVec.ofNat 64 (l % 2 ^ k.log)
        match regionSpan elementCause .load va (chunks n va n n 0) d.2 with
        | (.ok ps, s) =>
          let b := s.readParts ps
          (poolRow n k r b.2).map fun x => ((e, BitVec.ofNat 32 (partsNat b.1), partsPois b.1) :: x.1, x.2)
        | _ => none
    | _ => none

/-- Stores to the entries of a pool, in ascending order (R299); none where an entry fails. -/
def entriesRow (n : Nat) (k : Kv) (els : List KvElem) : List Nat → State → Option State
  | [], s => some s
  | en :: l, s =>
    match kvEntry k n en (els.filter (·.entry = en)) s with
    | (.ok (), s) => entriesRow n k els l s
    | _ => none

/-- The byte of the pool that element e names: the offset in xA plus its index (R297). -/
def poolByte (s : State) (o : T48) (off e : Nat) : Nat := off + (s.elem s.view o.b.toNat e).1.toNat

/-- Every active element's index is sound: unpoisoned, inside the table, aligned (R297). -/
def poolSound (s : State) (o : T48) (k : Kv) (off : Nat) : Prop :=
  ∀ e ∈ s.actives s.view o.gm.toNat, (s.elem s.view o.b.toNat e).2 = false ∧
    poolByte s o off e / 2 ^ k.log < k.btn ∧ poolByte s o off e % s.view.sb = 0

/-- The event of a command that asks for one, from its TAG (R311, R312, R315). -/
def asksEvent (on : Bool) (event tag : Nat) : Option Event := if on then some { event := event, tag := tag } else none

/-- A command as `cpy` or `ebatch` queues it (R310). -/
def queuedCmd (c : Ctx) (fill : Option (BitVec 32)) (src dst : Word) (len : Nat) (ev : Option Event) : Ctx :=
  { c with
    cmdSeq := c.cmdSeq + 1
    cmds := c.cmds ++ [{ id := c.cmdSeq, fill := fill, src := src, dst := dst, len := len, event := ev, done := false }] }

/-- The banks of the clusters that a context holds. -/
def banksOf (s : State) (h : Nat) (q b : Nat) : Prop := q ∈ s.order h ∧ b < 16

/-- The queue key that xB names for a context's job (R316). -/
def keyOf (s : State) (h : Nat) (b : Word) : Nat := qKey ((((s.ctx h).unit.map (·.job)).getD 0)) (b.toNat % 65536)

/-! CRILL. -/

/-- An instruction of a queue program. -/
def isCrill : Instr → Bool
  | .crillLi .. | .crillLhi .. | .crillAddi .. | .crillAdd .. | .crillSub .. | .crillAnd .. | .crillOr .. | .crillXor ..
  | .crillAndi .. | .crillShl .. | .crillShr .. | .crillMaxu .. | .crillMinu .. | .crillExt .. | .crillIns .. | .crillLdp ..
  | .crillStp .. | .crillLds .. | .crillSts .. | .crillLdt .. | .crillBeq .. | .crillBne .. | .crillBltu .. | .crillBgeu ..
  | .crillJ .. | .crillRep .. | .crillRdc .. | .crillSigc .. | .crillSetc .. | .crillWaitc .. | .crillCancel .. | .crillPsnFail
  | .crillPsnSkip | .crillPsnPlanes .. | .crillWeld .. | .crillEnd | .crillEndCancel | .crillTime .. | .crillIdx .. => true
  | _ => false

/-- A word from its bits. -/
def fromBits (f : Nat → Bool) : Word := BitVec.ofNat 64 (((List.range 64).map fun b => if f b then 2 ^ b else 0).sum)

/-- The register that an instruction of a run writes from the run alone, and the value (R401). -/
def crillValue (r : Run) : Instr → Option (BitVec 4 × Word)
  | .crillLi d imm => some (d, imm.signExtend 64)
  | .crillLhi d imm => some (d, BitVec.ofNat 64 ((r.q' d).toNat * 65536 + imm.toNat))
  | .crillAddi d a imm => some (d, r.q' a + imm.signExtend 64)
  | .crillAdd d a => some (d, r.q' d + r.q' a)
  | .crillSub d a => some (d, r.q' d - r.q' a)
  | .crillAnd d a => some (d, r.q' d &&& r.q' a)
  | .crillOr d a => some (d, r.q' d ||| r.q' a)
  | .crillXor d a => some (d, r.q' d ^^^ r.q' a)
  | .crillAndi d a imm => some (d, BitVec.ofNat 64 ((r.q' a).toNat &&& imm.toNat))
  | .crillShl d a n => some (d, BitVec.ofNat 64 ((r.q' a).toNat * 2 ^ n.toNat))
  | .crillShr d a n => some (d, BitVec.ofNat 64 ((r.q' a).toNat / 2 ^ n.toNat))
  | .crillMaxu d a => some (d, BitVec.ofNat 64 (max (r.q' d).toNat (r.q' a).toNat))
  | .crillMinu d a => some (d, BitVec.ofNat 64 (min (r.q' d).toNat (r.q' a).toNat))
  | .crillExt d a lsb w => some (d, BitVec.ofNat 64 ((r.q' a).toNat / 2 ^ lsb.toNat % 2 ^ (w.toNat + 1)))
  | .crillIns d a lsb w => some (d, fromBits fun b =>
      if lsb.toNat ≤ b ∧ b ≤ lsb.toNat + w.toNat then (r.q' a).getLsbD (b - lsb.toNat) else (r.q' d).getLsbD b)
  | .crillLdp d imm => some (d, r.words.getD (imm.toNat / 8) 0)
  | .crillLds d imm => some (d, r.scratch.getD (imm.toNat / 8) 0)
  | .crillIdx d => some (d, BitVec.ofNat 64 r.index)
  | _ => none

/-- The effect that an instruction of a run puts on the list, or the bytes it changes (R401, R402). -/
def crillEffect (r : Run) : Instr → Option Run
  | .crillStp d imm => some { r with words := r.words.set (imm.toNat / 8) (r.q' d) }
  | .crillSts d imm => some { r with scratch := r.scratch.set (imm.toNat / 8) (r.q' d) }
  | .crillCancel a lvl => some { r with effects := r.effects ++ [.cancel lvl.toNat (r.q' a).toNat] }
  | .crillPsnFail => some { r with effects := r.effects ++ [.psn 0 0] }
  | .crillPsnSkip => some { r with effects := r.effects ++ [.psn 1 0] }
  | .crillPsnPlanes p => some { r with effects := r.effects ++ [.psn 2 p.toNat] }
  | .crillWeld w => some { r with effects := r.effects ++ [.weld (w = 1#1)] }
  | .crillSigc a imm => if 0 < (r.q' a).toNat ∧ (r.q' a).toNat < 1024 then
      some { r with effects := r.effects ++ [.sigc (r.q' a).toNat imm.toNat] } else none
  | .crillSetc d a => if 0 < (r.q' a).toNat ∧ (r.q' a).toNat < 1024 then
      some { r with effects := r.effects ++ [.setc (r.q' a).toNat (BitVec.ofNat 64 ((r.q' d).toNat % 2 ^ 63))] } else none
  | _ => none

/-- Whether a branch of a run is taken, and its distance. -/
def crillJump (r : Run) : Instr → Option (Prop × BitVec 16)
  | .crillBeq d a imm => some (r.q' d = r.q' a, imm)
  | .crillBne d a imm => some (r.q' d ≠ r.q' a, imm)
  | .crillBltu d a imm => some ((r.q' d).toNat < (r.q' a).toNat, imm)
  | .crillBgeu d a imm => some ((r.q' a).toNat ≤ (r.q' d).toNat, imm)
  | .crillJ imm => some (True, imm)
  | _ => none

/-- A run of queue q of a job moves, within its budget; one more instruction counts. -/
def crillMoves (s : State) (job q : Nat) (r : Run) : Prop :=
  s.who = .crill job q ∧ s.run? (qKey job q) = some r ∧ r.used < 512
def counted (r : Run) : Run := { r with used := r.used + 1 }

/-- The run of a queue has ended and left its packet as `p` (R396). -/
def runLeft (s t : State) (key : Nat) (p : Ready) : Prop :=
  t.run? key = none ∧ (∃ x, t.slot? key = some x ∧ x.ready = some p) ∧ t.mem = s.mem ∧ t.ctxs = s.ctxs

/-! The Hearth. -/

/-- The packet at the read position of a queue, as its program has left it with no effect. -/
def headPlain (q : QSlot) (ending : Option Nat) : Ready :=
  { index := q.read, words := sparseGet [] q.journal q.read, scratch := q.scratch, effects := [], ending := ending }

/-- A queue's slot after a take of one packet: it reads on, and holds the launch with its status (R340). -/
def took (t : State) (key : Nat) (rd : Ready) (status : Option Nat) : Prop :=
  ∃ y, t.slot? key = some y ∧ y.read = rd.index + 1 ∧ y.ready = none ∧
    ∃ l ∈ y.taken, l.index = rd.index ∧ l.words = rd.words ∧ l.status = status

/-! Translation and reset. -/

/-- What the walker reads at pa from the home slice: nothing where memory is not installed or the entry is poisoned (R360). -/
def entryAt (s : State) (pa : Nat) : Option Word :=
  if s.installed pa = true ∧ s.memPoisoned pa 8 = false then some (BitVec.ofNat 64 (s.memNat pa 8)) else none

/-- The malformed entries of R361 that no level allows, by masks: reserved bits, TIER 11, W without R, and a table pointer
with POISON, TIER, D, A, CONT or U. -/
def malformed (e : Word) : Prop :=
  e &&& 0x73F000000000FF00#64 ≠ 0#64 ∨ e &&& 0x0C00000000000000#64 = 0x0C00000000000000#64 ∨ e &&& 6#64 = 4#64 ∨
    (e &&& 14#64 = 0#64 ∧ e &&& 0x8C000000000000F0#64 ≠ 0#64)

/-- The page or table an entry points to. -/
def pageOf (e : Word) : Nat := (e &&& 0x000FFFFFFFFF0000#64).toNat

/-- What the slices of the core hold of the tables of a job for a VA's class, by level and index, and where they hold no copy
what memory holds (R360, R364). -/
def entryHeld (s : State) (sp : Space) (va : Word) (level index pa : Nat) : Option Word :=
  match s.tlb.find? fun t => t.core = sp.core && t.cls = classOf va.toNat && t.job = sp.job && t.level = level && t.va = index with
  | some t => some t.pte
  | none => entryAt s pa

/-- The walk of R360 over entries that `read` gives by level, index and address: the leaf, where it stands, and the physical
address. -/
def walkSays (read : Nat → Nat → Nat → Option Word) (root : Nat) (va : Word) (r : Except TErr (Word × Nat × Nat)) : Prop :=
  let i1 := va.toNat / 2 ^ 42 % 2 ^ 7
  let i2 := va.toNat / 2 ^ 29 % 2 ^ 20
  let i3 := va.toNat / 2 ^ 16 % 2 ^ 33
  (read 1 i1 (root + 8 * i1) = none → r = .error .access) ∧
  ∀ e1, read 1 i1 (root + 8 * i1) = some e1 →
    (e1 &&& 1#64 = 0#64 → r = .error .page) ∧
    (e1 &&& 1#64 = 1#64 → (e1 &&& 14#64 ≠ 0#64 ∨ malformed e1) → r = .error .access) ∧
    (e1 &&& 1#64 = 1#64 → e1 &&& 14#64 = 0#64 → ¬ malformed e1 →
      let a2 := pageOf e1 + 8 * (i2 % 8192)
      (read 2 i2 a2 = none → r = .error .access) ∧
      ∀ e2, read 2 i2 a2 = some e2 →
        (e2 &&& 1#64 = 0#64 → r = .error .page) ∧
        (e2 &&& 1#64 = 1#64 → malformed e2 → r = .error .access) ∧
        (e2 &&& 1#64 = 1#64 → ¬ malformed e2 → e2 &&& 14#64 ≠ 0#64 →
          r = if e2 &&& 0x1FFF0020#64 = 0#64 then .ok (e2, a2, pageOf e2 + va.toNat % 2 ^ 29) else .error .access) ∧
        (e2 &&& 1#64 = 1#64 → ¬ malformed e2 → e2 &&& 14#64 = 0#64 →
          let a3 := pageOf e2 + 8 * (i3 % 8192)
          (read 3 i3 a3 = none → r = .error .access) ∧
          ∀ e3, read 3 i3 a3 = some e3 →
            (e3 &&& 1#64 = 0#64 → r = .error .page) ∧
            (e3 &&& 1#64 = 1#64 → (e3 &&& 14#64 = 0#64 ∨ malformed e3) → r = .error .access) ∧
            (e3 &&& 1#64 = 1#64 → e3 &&& 14#64 ≠ 0#64 → ¬ malformed e3 → r = .ok (e3, a3, pageOf e3 + va.toNat % 2 ^ 16))))

/-- The permissions of R361; a store or an atomic that is only tested needs what it needs. -/
def allowed (e : Word) (user : Bool) (acc : Access) : Prop :=
  (user = true → e.getLsbD 4 = true) ∧
  (acc = .fetch → e.getLsbD 3 = true) ∧
  (acc = .load ∨ acc = .amo ∨ acc = .amoProbe → e.getLsbD 1 = true) ∧
  (acc = .store ∨ acc = .amo ∨ acc = .probe ∨ acc = .amoProbe → e.getLsbD 2 = true ∧ e.getLsbD 63 = false)

/-- The entry with A, and for a write D, set (R363). -/
def usedBy (e : Word) (acc : Access) : Word := e ||| 0x40#64 ||| if acc = .store ∨ acc = .amo then 0x80#64 else 0#64

/-- What a translation gives from where a walk leads: a missing permission or an address outside installed memory is an access
fault, and a successful access sets A, and D when it writes, in the leaf where it stands; nothing else of memory changes (R361,
R363, R365). The model's choice (log 100): an atomic that only POISON keeps from its leaf has a failure of its own. -/
def translatesTo (s : State) (user : Bool) (acc : Access) (r : Except TErr (Word × Nat × Nat)) (out : Except TErr Xl × State) : Prop :=
  match r with
  | .error e => out.1 = .error e ∧ out.2.mem = s.mem
  | .ok (e, a, pa) =>
    (¬ allowed e user acc → out.2.mem = s.mem ∧
      ((acc = .amo ∨ acc = .amoProbe) ∧ allowed (e &&& 0x7FFFFFFFFFFFFFFF) user acc → out.1 = .error .poison) ∧
      (¬ ((acc = .amo ∨ acc = .amoProbe) ∧ allowed (e &&& 0x7FFFFFFFFFFFFFFF) user acc) → out.1 = .error .access)) ∧
    (allowed e user acc → s.installed pa = false → out.1 = .error .access ∧ out.2.mem = s.mem) ∧
    (allowed e user acc → s.installed pa = true → out.1 = .ok { pa := pa, pois := e.getLsbD 63 } ∧
      (usedBy e acc = e → out.2.mem = s.mem) ∧
      (usedBy e acc ≠ e → out.2.mem = (s.homeWrite .other a (fullBytes (natLe 8 (usedBy e acc).toNat))).mem))

/-- A use of a leaf must update it and finds that memory no longer holds it (R363). -/
def stale (s : State) (user : Bool) (acc : Access) (r : Except TErr (Word × Nat × Nat)) : Prop :=
  ∃ e a pa, r = .ok (e, a, pa) ∧ allowed e user acc ∧ s.installed pa = true ∧ usedBy e acc ≠ e ∧ s.memNat a 8 ≠ e.toNat

/-- The invariant: device memory and the host memory behind extents list their bytes in rising order and no zero byte. -/
def memoryForm (s : State) : Prop := Memory.wf s.mem ∧ canonical (0#8) s.plat.hostMem = true

/-! The parts of statements. -/

/-- Every well-formed CT and MS instruction decodes from its encoding, whatever follows it: no bit of an operand is
dropped. The three `hcall` rows share one word (R318). -/
def DecodeEncode : Prop :=
  ∀ (i : Instr) (bs rest : List Byte), i.wellFormed = true → encode i = some bs → decode (bs ++ rest) = .ok (i.canon, rest)

/-- The same of the instructions of a block. -/
def DecodeEncodeBlock : Prop :=
  ∀ (i : Instr) (w : BitVec 64), i.wellFormed = true → encodeBlock i = some w → decodeBlock w = .ok i

/-- The same of the words of a queue program. -/
def DecodeEncodeQueue : Prop :=
  ∀ (i : Instr) (w : BitVec 32), encodeCrill i = some w → decodeQueue w = .ok i

/-- A step of a CT runs the instruction that the bytes at its address decode to: fetched, or outside the fetch in
the captured body of a loop. -/
def StepRunsInstruction : Prop :=
  ∀ (s a' : State) (h : Nat) (tl : List Turn) (i : Instr) (bs rest : List Byte),
    s.agenda = .agent (.ct h) :: tl → h < 512 → plain (moving s (.ct h) tl) h → decode bs = .ok (i, rest) →
    ((s.ctx h).inBody = true → bs = (s.ctx h).loop.body.drop ((s.ctx h).pc - (s.ctx h).loop.start).toNat →
      step s = thenStep (exec (selectRow (moving s (.ct h) tl) i) (moving s (.ct h) tl)) (stepped (moving s (.ct h) tl) h 16)) ∧
    ((s.ctx h).inBody = false →
      (moving s (.ct h) tl).fetchInstr (s.ctx h).pc = (.ok bs, a') →
      step s = thenStep (exec (selectRow a' i) a') (stepped (moving s (.ct h) tl) h 16))

/-- The same of the MS, of a strip's cluster, of a micro-thread and of a queue program's interpreter. -/
def StepRunsOthers : Prop :=
  ∀ (s : State) (tl : List Turn) (i : Instr),
    (∀ (g h : Nat) (bs rest : List Byte) (a' : State), s.agenda = .agent (.ms g) :: tl → g < 128 →
      (s.ms g).owner = some h → (s.ms g).run = .running → (s.ctx h).unit.isSome = true → (s.ctx h).dbgStop = false →
      (s.ctx h).park = .no → (moving s (.ms g) tl).overdue h = false → (moving s (.ms g) tl).traceStops h = false →
      (moving s (.ms g) tl).fetchInstr (s.ms g).pc = (.ok bs, a') → decode bs = .ok (i, rest) →
      step s = thenStep (exec (selectRow a' i) a') State.pass) ∧
    (∀ (h slot : Nat) (u : Strip) (rest : List Byte), s.agenda = .agent (.ind h slot) :: tl → h < 512 →
      stripOf (s.ctx h) slot = some u → u.stop = none → (s.ctx h).unit.isSome = true → (s.ctx h).loop.mode = .ind →
      (s.ctx h).inBody = true → (s.ctx h).dbgStop = false → (s.ctx h).park = .no → (moving s (.ind h slot) tl).overdue h = false →
      (moving s (.ind h slot) tl).traceStops h = false →
      (moving s (.ind h slot) tl).bpNow h slot = none → decode ((s.ctx h).loop.body.drop u.off) = .ok (i, rest) →
      step s = thenStep (exec (selectRow (moving s (.ind h slot) tl) i) (moving s (.ind h slot) tl))
        (stepped (moving s (.ind h slot) tl) h slot)) ∧
    (∀ (h k : Nat) (w : Word) (l : List Word), s.agenda = .agent (.mt h k) :: tl → h < 512 →
      (s.ctx h).unit.isSome = true → (s.ctx h).dbgStop = false → (s.ctx h).park = .no → (moving s (.mt h k) tl).overdue h = false →
      (moving s (.mt h k) tl).traceStops h = false →
      (s.thread h k).state = .running → (s.thread h k).block = w :: l → decodeBlock w = .ok i →
      step s = thenStep (exec i (moving s (.mt h k) tl)) State.pass) ∧
    (∀ (job q : Nat) (r : Run) (w : BitVec 32), s.agenda = .agent (.crill job q) :: tl →
      s.run? (qKey job q) = some r → (((s.slot? (qKey job q)).bind (·.prog)).getD [])[r.pc]? = some w → decodeQueue w = .ok i →
      step s = thenStep (exec i (moving s (.crill job q) tl)) State.pass)

/-- R173, R142: in user mode the privileged instructions and the SYS group raise illegal-instruction. -/
def PrivilegedInUser : Prop :=
  ∀ (s : State) (h : Nat) (o : T48) (a b : Reg), s.who = .ct h → (s.ctx h).mode = .user →
    (∃ t, exec .sret s = .next t ∧ traps s t h 2 0x10200073) ∧
    (∃ t, exec .wfi s = .next t ∧ traps s t h 2 0x10500073) ∧
    (∃ t, exec (.sfenceVma a b) s = .next t ∧ ∃ w, traps s t h 2 w) ∧
    (∃ t, exec (.xsave o) s = .next t ∧ ∃ w, traps s t h 2 w) ∧
    (∃ t, exec (.xrest o) s = .next t ∧ ∃ w, traps s t h 2 w) ∧
    (∃ t, exec (.mfset o) s = .next t ∧ ∃ w, traps s t h 2 w) ∧
    (∃ t, exec (.vrstset o) s = .next t ∧ ∃ w, traps s t h 2 w)

/-- R173: in supervisor mode `wfi` goes on once an enabled interrupt is pending, and `sfence.vma`, once the stores of
the job on the core have been performed, drops the job's entries from the core's slices: all of them where rs1 is
x0, else those that lead to the address in rs1; rs2 is ignored. -/
def WaitAndShootdown : Prop :=
  ∀ (s : State) (h : Nat) (b : Reg), s.who = .ct h → (s.ctx h).mode = .supervisor →
    ((s.ctx h).sie &&& (s.ctx h).sip ≠ 0 → ∃ t, exec .wfi s = .next t ∧ next s t 4 ∧ onlyScalars s t 4) ∧
    (s.jobQueued (coreOf h) (s.ctxJob h) = false → ∃ t, exec (.sfenceVma 0#5 b) s = .next t ∧ next s t 4 ∧
      (∀ e ∈ t.tlb, ¬ (e.core = coreOf h ∧ e.job = s.ctxJob h)) ∧
      (∀ e ∈ s.tlb, ¬ (e.core = coreOf h ∧ e.job = s.ctxJob h) → e ∈ t.tlb) ∧ t.mem = s.mem) ∧
    ((s.ctx h).sie &&& (s.ctx h).sip = 0 → ∃ t, exec .wfi s = .next t ∧ t.mem = s.mem ∧ (t.ctx h).pc = (s.ctx h).pc ∧
      (t.ctx h).x = (s.ctx h).x ∧ (t.ctx h).mode = .supervisor) ∧
    (∀ a, a ≠ 0#5 → s.jobQueued (coreOf h) (s.ctxJob h) = false → ∃ t, exec (.sfenceVma a b) s = .next t ∧ next s t 4 ∧ t.mem = s.mem ∧
      (∀ e ∈ t.tlb, e ∈ s.tlb) ∧
      (∀ e ∈ t.tlb, e.core = coreOf h → e.job = s.ctxJob h →
        (e.level = 3 → pteLeaf e.pte = true → e.va ≠ (s.rx a).toNat % 2 ^ 49 / 2 ^ 16) ∧
        (e.level = 2 → e.va ≠ (s.rx a).toNat % 2 ^ 49 / 2 ^ 29)) ∧
      (∀ e ∈ s.tlb, ¬ (e.core = coreOf h ∧ e.job = s.ctxJob h) → e ∈ t.tlb))

/-- R175, R177: a pending enabled supervisor interrupt is taken with bit 63 of scause set and sepc at the next
instruction; external before software before timer. With none, nothing happens. -/
def SupervisorInterrupts : Prop :=
  ∀ (s : State) (h : Nat),
    (∀ n, pendingIntr (s.ctx h) = some n → ∃ t, exec (.supervisorInterrupt h) s = .next t ∧ t = s.setCtx h (t.ctx h) ∧
      entered (s.ctx h) (t.ctx h) true n (s.ctx h).pc 0 ∧ keptByEntry (s.ctx h) (t.ctx h)) ∧
    (pendingIntr (s.ctx h) = none → exec (.supervisorInterrupt h) s = .next s) ∧
    (∀ n, pendingIntr (s.ctx h) = some n → (n = 9 ∨ n = 1 ∨ n = 5) ∧ ((s.ctx h).sie &&& (s.ctx h).sip).getLsbD n = true ∧
      (n ≠ 9 → ((s.ctx h).sie &&& (s.ctx h).sip).getLsbD 9 = false) ∧
      ((s.ctx h).mode = .supervisor → (s.ctx h).sieBit = true))

/-- R180, R181, R83: the entry of a user-level interrupt, which where it observes a completion (events 1 to 3) acts as
`fence.acq.mod` and so drops the core's cache-way copies, and its end: from entry to `uiret` x10 to x17 are shadow copies,
and after `uiret` they read what they read before. -/
def UserInterrupts : Prop :=
  ∀ (s : State) (h : Nat),
    (∀ e, (s.ctx h).readyEvent = some e → (s.ctx h).unit.isSome = true → (s.ctx h).atEventPoint = true →
      ∃ t, exec (.userInterruptEntry h) s = .next t ∧
        t = (if 1 ≤ e.event ∧ e.event ≤ 3 then s.dropWays (coreOf h) else s).setCtx h (t.ctx h) ∧
        (1 ≤ e.event → e.event ≤ 3 → ∀ w ∈ t.ways, w.1 / 2 ^ 46 / 4 ≠ coreOf h) ∧
        (t.ctx h).pc = (s.ctx h).uivec &&& ~~~1#64 ∧ (t.ctx h).uiepc = (s.ctx h).pc ∧ (t.ctx h).handler = true ∧
        ((t.ctx h).uicause.extractLsb' 0 8).toNat = e.event % 256 ∧ ((t.ctx h).uicause.extractLsb' 8 24).toNat = e.tag % 2 ^ 24 ∧
        (∀ r, (t.ctx h).rx r = (s.ctx h).rx r) ∧ (t.ctx h).vty = (s.ctx h).vty ∧ (t.ctx h).mode = .user) ∧
    (∀ o, s.who = .ct h → (s.ctx h).handler = true →
      ∃ t, exec (.uiret o) s = .next t ∧ t = s.setCtx h (t.ctx h) ∧ (t.ctx h).pc = (s.ctx h).uiepc ∧
        (t.ctx h).handler = false ∧ (t.ctx h).vty = (s.ctx h).hVty ∧ (t.ctx h).ldst = (s.ctx h).hLdst ∧
        (∀ r, (t.ctx h).rx r = if r = 0#5 then 0 else (s.ctx h).x[r.toFin]) ∧ (t.ctx h).vrm = (s.ctx h).vrm)

/-- R67, R70: a load of an address that the mover has just stored to returns the stored value, though the store still
waits in its queue. -/
def LoadForwardsStore : Prop :=
  ∀ (s s1 s2 s3 : State) (x y : Xl) (va : Word) (n v : Nat), movesScalar s → n = 4 ∨ n = 8 → va.toNat % n = 0 →
    plainVa va → s.translate va .store = (.ok x, s1) → s.scalarWrite va n v = (.ok s2, s1) →
    s2.translate va .load = (.ok y, s3) → y.pa = x.pa → x.pa % n = 0 → y.pois = false →
    ∃ s4, s2.scalarRead va n = (.ok (v % 2 ^ (8 * n)), s4)

/-- R67, R70: a drain performs the store that has waited longest in its class, where no other party of the context has one
there (R65): its bytes change at home, no other
byte of memory does, and it leaves the queue. -/
def QueueDrains : Prop :=
  ∀ (s : State) (h cls : Nat) (p : Pending) (rest : List Pending), Memory.wf s.mem →
    takeClass cls (s.ctx h).queue = some (p, rest) → ((s.ms (coreOf h)).owner = some h → ∀ e ∈ (s.ms (coreOf h)).queue, e.cls ≠ cls) →
    (∀ k ∈ s.threadsOf h, ∀ e ∈ k.2.queue, e.cls ≠ cls) → p.bytes.length ≤ 64 → s.installed p.pa = true →
    ∃ t, exec (.classQueueDrain h cls) s = .next t ∧ (t.ctx h).queue = rest ∧
      (∀ i (hi : i < p.bytes.length), t.memByte (p.pa + i) = mergeByte (s.memByte (p.pa + i)) p.bytes[i].1 p.bytes[i].2) ∧
      (∀ a, a < p.pa ∨ p.pa + p.bytes.length ≤ a → t.memByte a = s.memByte a) ∧ Memory.wf t.mem

/-- R74, R150: an AMO on the CT is one read-modify-write at the home slice: rd gets the old value, memory the new one,
and no other byte changes. -/
def AmoResults : Prop :=
  ∀ (s s1 : State) (h n : Nat) (i : Instr) (aq rl : Bool) (rd a b : Reg)
    (f : BitVec (8 * n) → BitVec (8 * n) → BitVec (8 * n)) (x : Xl), s.who = .ct h → Memory.wf s1.mem →
    s1.plat.ckRegs = [] →
    amoResult n i = some (aq, rl, rd, a, b, f) → atomicAt s a n rl .amo x s1 → x.pois = false →
    s1.memPoisoned x.pa n = false →
    ∃ t, exec i s = .next t ∧
      wrote s t rd ((BitVec.ofNat (8 * n) (leNat (seen s1 x.pa n))).signExtend 64) ∧ next s t 4 ∧
      wroteMem s1 t x.pa (natLe n (f (BitVec.ofNat (8 * n) (leNat (seen s1 x.pa n))) ((s.rx b).setWidth (8 * n))).toNat)

/-- R150: a misaligned LR raises cause 4 and a misaligned SC or AMO cause 6, with the address, and changes nothing
else. -/
def MisalignedAtomics : Prop :=
  ∀ (s : State) (h n : Nat) (i : Instr) (aq rl : Bool) (rd a b : Reg)
    (f : BitVec (8 * n) → BitVec (8 * n) → BitVec (8 * n)), s.who = .ct h → plainVa (s.rx a) → (s.rx a).toNat % n ≠ 0 →
    (lrShape i = some (aq, rl, rd, a, n) → ∃ t, exec i s = .next t ∧ traps s t h 4 (s.rx a)) ∧
    (scShape i = some (aq, rl, rd, a, b, n) → ∃ t, exec i s = .next t ∧ traps s t h 6 (s.rx a)) ∧
    (amoResult n i = some (aq, rl, rd, a, b, f) → ∃ t, exec i s = .next t ∧ traps s t h 6 (s.rx a))

/-- R155: a CSR instruction on the CT reads the old value into rd and writes the new one by the CSR's own rule; a number
that is not there, a supervisor CSR in user mode, or a write of a read-only one is illegal. -/
def CsrAccess : Prop :=
  ∀ (s : State) (h : Nat) (i : Instr) (rd : Reg) (csr : BitVec 12) (new : Option (Word → Word)), s.who = .ct h →
    csrNew s i = some (rd, csr, new) →
    (∀ old, s.csrRead h csr = some old → new = none →
      ∃ t, exec i s = .next t ∧ wrote s t rd old ∧ next s t 4 ∧ onlyScalars s t 4) ∧
    (∀ old f c, s.csrRead h csr = some old → new = some f → csrWrite (s.ctx h) csr (f old) = some c →
      ∃ t, exec i s = .next t ∧ wrote (s.setCtx h c) t rd old ∧ next s t 4 ∧ onlyScalars (s.setCtx h c) t 4) ∧
    ((s.csrRead h csr = none ∨ ∃ old f, s.csrRead h csr = some old ∧ new = some f ∧ csrWrite (s.ctx h) csr (f old) = none) →
      ∃ t, exec i s = .next t ∧ ∃ bits, traps s t h 2 bits)

/-- R171, R174, R179, R42, R50, R53, R57, R366, R375: what a write of each writable CSR leaves, read back; and which are read-only. -/
def CsrFields : Prop :=
  ∀ (s : State) (h : Nat) (v : Word),
    (∀ c, csrWrite (s.ctx h) 0x105 v = some c → (s.setCtx h c).csrRead h 0x105 = some (v &&& ~~~3#64)) ∧
    (∀ c, csrWrite (s.ctx h) 0x141 v = some c → (s.setCtx h c).csrRead h 0x141 = some (v &&& ~~~1#64)) ∧
    (∀ c, csrWrite (s.ctx h) 0x807 v = some c → (s.setCtx h c).csrRead h 0x807 = some (v &&& ~~~1#64)) ∧
    (∀ c, csrWrite (s.ctx h) 0x808 v = some c → (s.setCtx h c).csrRead h 0x808 = some (v &&& ~~~1#64)) ∧
    (∀ c, csrWrite (s.ctx h) 0x804 v = some c → (s.setCtx h c).csrRead h 0x804 = some (v &&& 0xFFFFFFFF)) ∧
    (∀ c, csrWrite (s.ctx h) 0x805 v = some c → (s.setCtx h c).csrRead h 0x805 = some (v &&& 0x7FFFFFFF)) ∧
    (∀ c, csrWrite (s.ctx h) 0x100 v = some c → (s.setCtx h c).csrRead h 0x100 = some (v &&& 0x122) ∨ (s.ctx h).mode = .user) ∧
    (∀ c, csrWrite (s.ctx h) 0x800 v = some c → (s.setCtx h c).csrRead h 0x800 =
      some (if 1 ≤ (v.extractLsb' 0 3).toNat ∧ (v.extractLsb' 0 3).toNat ≤ 5 then v &&& 0xF
        else (v &&& 8) ||| ((s.ctx h).vrm &&& 7))) ∧
    (∀ c, csrWrite (s.ctx h) 0x801 v = some c → (s.setCtx h c).csrRead h 0x801 = some ((v &&& 0x0000FFFFFFFFFFFF) |||
      BitVec.ofNat 64 ((if 9 ≤ (v.extractLsb' 60 4).toNat then 8 else (v.extractLsb' 60 4).toNat) * 2 ^ 60))) ∧
    (∀ p ∈ keptFields, ∀ c, csrWrite (s.ctx h) p.1 v = some c → (s.setCtx h c).csrRead h p.1 = some (v &&& p.2)) ∧
    (∀ c, csrWrite (s.ctx h) 0x144 v = some c → (s.setCtx h c).csrRead h 0x144 = some (((s.ctx h).sip &&& 0x220) ||| (v &&& 2))) ∧
    ((s.ctx h).mode = .supervisor → ∀ n ∈ [0x100, 0x104, 0x105, 0x140, 0x141, 0x142, 0x143, 0x144, 0x5C0, 0x5C1, 0x5C7],
      (csrWrite (s.ctx h) (BitVec.ofNat 12 n) v).isSome = true) ∧
    (∀ n ∈ [0x800, 0x801, 0x802, 0x803, 0x804, 0x805, 0x806, 0x807, 0x808, 0x809],
      (csrWrite (s.ctx h) (BitVec.ofNat 12 n) v).isSome = true) ∧
    (∀ n ∈ [0xC00, 0xC01, 0xC02, 0xCC0, 0xCC1, 0xCC2, 0xCC3, 0xCC4, 0xCC5, 0xCC6, 0xCC7, 0xCC8, 0x5C2, 0x5C3, 0x5C4, 0x5C5, 0x5C6],
      csrWrite (s.ctx h) (BitVec.ofNat 12 n) v = none) ∧
    ((s.ctx h).mode = .user → ∀ n ∈ [0x100, 0x104, 0x105, 0x140, 0x141, 0x142, 0x143, 0x144, 0x5C0, 0x5C1, 0x5C7],
      s.csrRead h (BitVec.ofNat 12 n) = none ∧ csrWrite (s.ctx h) (BitVec.ofNat 12 n) v = none)

/-- R72, R73, R152: a fence with an empty set, and an acquire, complete at once; a release, a full fence and `fence.i`
complete once every earlier store of the mover that they cover has been performed, and wait until then (R66: below
`.sys` a fence covers no store to a peer; `fence.i` covers all); an acquire at `.die` or wider
drops the core's cache-way copies; `fence.i` discards the fetched instructions (R153). -/
def Fences : Prop :=
  ∀ (s : State) (h : Nat) (fm pr su : BitVec 4) (rd a : Reg) (imm : BitVec 12), s.who = .ct h →
    ((pr = 0#4 ∨ su = 0#4) → ∃ t, exec (.fence fm pr su rd a) s = .next t ∧ next s t 4 ∧ onlyScalars s t 4) ∧
    (pr ≠ 0#4 → su ≠ 0#4 → ((s.ctx h).queue = [] ∨ (pr.extractLsb' 2 2 = 0#2 ∧ su.extractLsb' 2 2 = 0#2 ∧ ∀ p ∈ (s.ctx h).queue, 2 ^ 51 ≤ p.pa)) → ∃ t, exec (.fence fm pr su rd a) s = .next t ∧ next s t 4 ∧
      onlyScalars (s.dropWays (coreOf h)) t 4) ∧
    ((∀ p ∈ (s.ctx h).queue, 2 ^ 51 ≤ p.pa) → ∃ t, exec (.fenceTso rd a) s = .next t ∧ next s t 4 ∧ onlyScalars (s.dropWays (coreOf h)) t 4) ∧
    ((s.ctx h).queue = [] → ∃ t, exec (.fenceI rd a imm) s = .next t ∧ next s t 4 ∧ (t.ctx h).ibuf = [] ∧
      (t.ctx h).x = (s.ctx h).x ∧ t.mem = s.mem) ∧
    ((∃ p ∈ (s.ctx h).queue, p.pa < 2 ^ 51) → pr ≠ 0#4 → su ≠ 0#4 → exec (.fence fm pr su rd a) s = .next s.stall ∧
      exec (.fenceTso rd a) s = .next s.stall) ∧
    ((s.ctx h).queue ≠ [] → (pr.extractLsb' 2 2 ≠ 0#2 ∨ su.extractLsb' 2 2 ≠ 0#2) → pr ≠ 0#4 → su ≠ 0#4 →
      exec (.fence fm pr su rd a) s = .next s.stall) ∧
    ((s.ctx h).queue ≠ [] → exec (.fenceI rd a imm) s = .next s.stall)

/-- R196, R197: a compare writes bit e of a mask for each active element, and leaves the destination mask's other bits
to the policy. -/
def VectorCompares : Prop :=
  ∀ (s : State) (i : Instr) (o : T48) (f : BitVec 32 → BitVec 32 → Bool), compareOp s i = some (o, f) →
    vecPlain s (regsAB o) →
    exec i s = .next (maskDone s o.gm.toNat o.d.toNat 6 fun e =>
      (f (s.elem s.view o.a.toNat e).1 (operandB s o false e).1,
       (s.elem s.view o.a.toNat e).2 || (operandB s o false e).2 || tainted s o.gm.toNat e))

/-- R201 to R207, R132: the instructions that move elements; a unit on one die has one permute domain, in which the
local index is the element's own. -/
def VectorMoves : Prop :=
  ∀ (s : State) (i : Instr),
    (∀ o regs val, permElem s i = some (o, regs, val) → vecPlain s (o.d.toNat :: regs) →
      (i = .vrgather o → o.d.toNat ∉ regs) → (i = .vexpand o → o.d ≠ o.a) →
      exec i s = .next (vecDone s o.gm.toNat o.d.toNat 6 true fun e => poisonedBy (val e) (tainted s o.gm.toNat e))) ∧
    (s.view.oneDie = true → ∀ e k, s.view.local e = e ∧ s.view.vlOf e = s.view.vl ∧
      s.view.ofLocal e k = if k < s.view.vlmax then some k else none) ∧
    (∀ vs : Reg, vecPlain s [s.vlast.toNat, vs.toNat] →
      exec (.vmvK vs) s = .next (vecDone s 0 vs.toNat 2 true fun e => s.elem s.view s.vlast.toNat e)) ∧
    (∀ n : BitVec 5, vecPlain s [s.vlast.toNat] →
      exec (.vslideupK n) s = .next (vecDone s 0 s.vlast.toNat 2 true fun e => elemOr s s.vlast.toNat 0
        (if s.view.local e < n.toNat then none else s.view.ofLocal e (s.view.local e - n.toNat))) ∧
      exec (.vslidednK n) s = .next (vecDone s 0 s.vlast.toNat 2 true fun e => elemOr s s.vlast.toNat 0
        (if s.view.local e + n.toNat < s.view.vlOf e then s.view.ofLocal e (s.view.local e + n.toNat) else none)))

/-- R199: `vmerge` chooses by a mask that governs nothing, and takes the chosen source's poison alone beside the bit's. R200: `vmvs` writes a scalar to every
active element; `vmvx` reads element 0 whatever `vl` holds, sign-extended, 0 without a cluster. The model's choice (log 107): a repeated source that is the destination is
read in turn. -/
def MergeAndMoves : Prop :=
  ∀ (s : State) (o : T48),
    (vecPlain s (o.d.toNat :: regsAB o) →
      exec (.vmerge o) s = .next (vecTurns s 0 o (ownSource o) fun t e => (
        if (s.maskBit s.view o.gm.toNat e).1 then (operandIn s o false t e).1 else (t.elem s.view o.a.toNat e).1,
        (if (s.maskBit s.view o.gm.toNat e).1 then (operandIn s o false t e).2 else (t.elem s.view o.a.toNat e).2) ||
          (s.maskBit s.view o.gm.toNat e).2))) ∧
    (vecPlain s [o.d.toNat] → o.kind ≠ 0 →
      exec (.vmvs o) s = .next (vecDone s o.gm.toNat o.d.toNat 6 true fun e => poisonedBy (operandB s o false e) (tainted s o.gm.toNat e))) ∧
    (vecPlain s [o.a.toNat] → s.view.n ≠ 0 → (s.elem s.view o.a.toNat 0).2 = false →
      exec (.vmvx o) s = .next (((s.clearMf s.view).wx o.d
        (((s.elem s.view o.a.toNat 0).1.setWidth (8 * s.view.sb)).signExtend 64)).retire 6)) ∧
    (vecPlain s [o.a.toNat] → s.view.n = 0 → exec (.vmvx o) s = .next ((s.wx o.d 0).retire 6))

/-- R210, R188: the mask operations; `mpopc` and `mfirst` give a scalar, and a poisoned bit they read raises cause 26
with its index. -/
def MaskOperations : Prop :=
  ∀ (s : State) (i : Instr), vecPlain s [] →
    (∀ o val, bitResult s i = some (o, val) → exec i s = .next (maskDone s o.gm.toNat o.d.toNat 6 val)) ∧
    (∀ o : T48, (∀ e ∈ s.actives s.view o.gm.toNat, (s.maskBit s.view o.a.toNat e).2 = false ∧ tainted s o.gm.toNat e = false) →
      exec (.mpopc o) s = .next (((s.clearMf s.view).wx o.d (BitVec.ofNat 64
        ((s.actives s.view o.gm.toNat).filter fun e => (s.maskBit s.view o.a.toNat e).1).length)).retire 6) ∧
      exec (.mfirst o) s = .next (((s.clearMf s.view).wx o.d
        (match (s.actives s.view o.gm.toNat).find? fun e => (s.maskBit s.view o.a.toNat e).1 with
          | some e => BitVec.ofNat 64 e
          | none => 0xFFFFFFFFFFFFFFFF)).retire 6)) ∧
    (∀ (h : Nat) (o : T48) (e : Nat), s.who = .ct h →
      (s.actives s.view o.gm.toNat).find? (fun e => (s.maskBit s.view o.a.toNat e).2 || tainted s o.gm.toNat e) = some e →
      ∃ t, exec (.mpopc o) s = .next t ∧ traps s t h 26 (BitVec.ofNat 64 e))

/-- R160, R14: `vsetl` and `vsetlr` on the CT, with no micro-thread running: a configuration that is not valid sets VILL
and `vl` 0; a valid one is granted min(AVL, VLMAX, CCAP × n), where AVL x0 asks for VLMAX. -/
def VectorConfiguration : Prop :=
  ∀ (s : State) (h n : Nat) (i : Instr) (o : T48) (new : Word), s.who = .ct h → asksFor s i = some (o, new) →
    s.runningThread h = none → n = ((s.boundary h).order h).length →
    ∃ t, exec i s = .next t ∧ next s t 6 ∧ t.mem = s.mem ∧
      (vtyValid new = false → (t.ctx h).vty = 0x8000000000000000 ∧ (t.ctx h).vl = 0 ∧ wrote s t o.d 0) ∧
      (vtyValid new = true → (t.ctx h).vty = new ∧
        (t.ctx h).vl = granted (s.ctx h).ccap n (if o.a = 0#5 then lanesOf n new else (s.rx o.a).toNat) (lanesOf n new) ∧
        wrote s t o.d (BitVec.ofNat 64 (t.ctx h).vl))

/-- R167, R168, R169: `vsidx` writes the strip base plus the element index, `vidx` the index, wrapped to SEW; `wbase`
gives a window's first address; `lpset` towards a context outside the unit's gang gives 0, and else names the clusters
it sends. -/
def IndicesAndLanes : Prop :=
  ∀ (s : State) (o : T48),
    (vecPlain s [o.d.toNat] →
      exec (.vsidx o) s = .next (vecDone s o.gm.toNat o.d.toNat 6 true fun e =>
        (BitVec.ofNat 32 ((s.view.base + e) % 2 ^ (8 * s.view.sb)), tainted s o.gm.toNat e)) ∧
      exec (.vidx o) s = .next (vecDone s o.gm.toNat o.d.toNat 6 true fun e =>
        (BitVec.ofNat 32 (e % 2 ^ (8 * s.view.sb)), tainted s o.gm.toNat e))) ∧
    (movesCt s → ∃ t, exec (.wbase o) s = .next t ∧ next s t 6 ∧ onlyScalars s t 6 ∧
      wrote s t o.d (BitVec.ofNat 64 (0xFFFFF00000000000 + o.a.toNat * 2 ^ 40))) ∧
    (∀ h, s.who = .ct h → ∃ t, exec (.lpset o) s = .next t ∧ next s t 6 ∧ t.clus = s.clus ∧ t.mem = s.mem ∧
      (s.sameGang h (4 * coreOf h + ((s.rx o.b).extractLsb' 0 2).toNat) = false → wrote s t o.d 0 ∧ t.cores = s.cores) ∧
      (s.sameGang h (4 * coreOf h + ((s.rx o.b).extractLsb' 0 2).toNat) = true → ∃ v : Word, wrote s t o.d v ∧
        ∀ n, n < 4 → (v.getLsbD n = true ↔ (s.rx o.a).getLsbD n = true ∧
          (s.cluster (4 * coreOf h + n)).left = none ∧ s.clusterFenced (4 * coreOf h + n) = false ∧ ∃ own, s.ownerSent (4 * coreOf h + n) = some own ∧ s.sameGang h own = true ∧
            own ≠ 4 * coreOf h + ((s.rx o.b).extractLsb' 0 2).toNat)))

/-- R162 to R165: a `vloop` whose body is captured and admitted begins its loop, `.seq` with its first strip; a count of
0 skips the body; a body that is not admitted raises cause 28. -/
def LoopsBegin : Prop :=
  ∀ (s s1 : State) (h : Nat) (o : T48) (i : Instr) (m : LoopMode) (body : List Byte) (is : List BodyOp), s.who = .ct h →
    (i = .vloopSeq o ∧ m = .seq) ∨ (i = .vloopInd o ∧ m = .ind) → vtyVill (s.ctx h).vty = false →
    captureBody h (vtyLmul (s.ctx h).vty) 64 ((s.ctx h).pc + 6) [] [] none s = (.ok (body, is, none, true), s1) →
    ((bodyBanned (m = .ind) is = true ∨ ((s.ctx h).handler = true ∧ (s.ctx h).loop.mode ≠ .off)) →
      exec i s = .next (s1.trap 28 0)) ∧
    (bodyBanned (m = .ind) is = false → ((s.ctx h).handler = false ∨ (s.ctx h).loop.mode = .off) → s1.spliceMate h = none →
      is.any bindsStream = false → (bodyStreams (s.ctx h) (vtyLmul (s.ctx h).vty) is (s.ctx h).ldst).eraseDups.length =
          (bodyStreams (s.ctx h) (vtyLmul (s.ctx h).vty) is (s.ctx h).ldst).length →
      ((s1.rx o.a).toNat = 0 → ∃ t, exec i s = .next t ∧ (t.ctx h).pc = (s1.ctx h).pc + 6 + BitVec.ofNat 64 body.length ∧
        (t.ctx h).vl = (s1.ctx h).vl ∧ (t.ctx h).loop = (s1.ctx h).loop ∧ (t.ctx h).x = (s1.ctx h).x ∧ t.mem = s1.mem) ∧
      ((s1.rx o.a).toNat ≠ 0 → ((s1.boundary h).order h).isEmpty = false → m = .ind →
        ∃ t, exec i s = .next t ∧ (t.ctx h).pc = (s1.ctx h).pc + 6 ∧ (t.ctx h).vl = (s1.ctx h).vl ∧ (t.ctx h).loop.mode = .ind ∧
          (t.ctx h).loop.rem = (s1.rx o.a).toNat ∧ (t.ctx h).loop.base = 0 ∧ (t.ctx h).loop.savedVl = (s1.ctx h).vl ∧
          (t.ctx h).loop.start = (s1.ctx h).pc + 6 ∧ (t.ctx h).loop.body = body ∧ (t.ctx h).loop.strips = []) ∧
      ((s1.rx o.a).toNat ≠ 0 → ((s1.boundary h).order h).isEmpty = false → m = .seq →
        ∃ t, exec i s = .next t ∧ (t.ctx h).pc = (s1.ctx h).pc + 6 ∧ (t.ctx h).loop.mode = .seq ∧
          (t.ctx h).loop.rem = (s1.rx o.a).toNat ∧ (t.ctx h).loop.base = 0 ∧ (t.ctx h).loop.savedVl = (s1.ctx h).vl ∧
          (t.ctx h).loop.start = (s1.ctx h).pc + 6 ∧ (t.ctx h).loop.body = body ∧
          ((t.ctx h).loop.gap = false → (t.ctx h).loop.size = (t.ctx h).vl ∧ (t.ctx h).vl = granted (t.ctx h).ccap
            (t.order h).length (s1.rx o.a).toNat (vlmaxOf (t.order h).length (t.ctx h).vty))))

/-- R163, R164: `vnext` ends the strip: `vl` iterations of a `.seq` loop are done, and it goes on at its start with those
that remain, its next strip to begin at the first of them; the last strip closes the loop: the saved `vl` is back and
control is after the body; a `.ind` strip is gone from the loop. Outside its body it raises cause 28. -/
def StripsEnd : Prop :=
  ∀ (s : State) (h : Nat) (o : T48), vtyVill (s.ctx h).vty = false →
    (s.spliceMate h = none → (s.ctx h).loop.mode = .seq → (s.ctx h).loop.gap = true → ((s.boundary h).order h).isEmpty = false →
      ((s.leaveGap h).ctx h).loop.base = ((s.boundary h).ctx h).loop.count - ((s.boundary h).ctx h).loop.rem ∧
      ((s.leaveGap h).ctx h).loop.gap = false ∧
      ((s.leaveGap h).ctx h).vl = granted ((s.boundary h).ctx h).ccap ((s.boundary h).order h).length ((s.boundary h).ctx h).loop.rem
        (vlmaxOf ((s.boundary h).order h).length ((s.boundary h).ctx h).vty)) ∧
    (s.who = .ct h → (s.ctx h).inBody = false → ∃ t, exec (.vnext o) s = .next t ∧ traps s t h 28 0) ∧
    (s.who = .ct h → (s.ctx h).inBody = true → s.spliceMate h = none → ∃ t, exec (.vnext o) s = .next t ∧
      t.mem = s.mem ∧ (t.ctx h).x = (s.ctx h).x ∧
      ((s.ctx h).vl < (s.ctx h).loop.rem → t = s.setCtx h (t.ctx h) ∧ (t.ctx h).pc = (s.ctx h).loop.start ∧
        (t.ctx h).loop.rem = (s.ctx h).loop.rem - (s.ctx h).vl ∧ (t.ctx h).loop.gap = true ∧
        (t.ctx h).loop.count = (s.ctx h).loop.count ∧ (t.ctx h).loop.body = (s.ctx h).loop.body) ∧
      ((s.ctx h).loop.rem ≤ (s.ctx h).vl → (t.ctx h).loop.mode = .off ∧ (t.ctx h).vl = (s.ctx h).loop.savedVl ∧
        (t.ctx h).pc = (s.ctx h).loop.start + BitVec.ofNat 64 (s.ctx h).loop.body.length)) ∧
    (∀ slot u, s.who = .ind h slot → (s.ctx h).inBody = true → s.spliceMate h = none → stripOf (s.ctx h) slot = some u →
      ∃ t, exec (.vnext o) s = .next t ∧ t.mem = s.mem ∧ stripOf (t.ctx h) slot = none ∧
        ((s.ctx h).loop.mode = .ind → (s.ctx h).loop.rem = 0 → (s.ctx h).loop.halt = false →
          (∀ w ∈ (s.ctx h).loop.strips, w.slot = slot) → (t.ctx h).loop.mode = .off ∧ (t.ctx h).vl = (s.ctx h).loop.savedVl))

/-- R243, R245, R250: `vfetch` and `vfetchr`, which find no micro-thread running that they touch, start the active elements'
micro-threads on a block with the arithmetic state captured; every other micro-thread is as before. -/
def ThreadsStart : Prop :=
  ∀ (s s1 : State) (h k gm : Nat) (o : T48) (i : Instr) (block : List Word), s.who = .ct h → (s1.order h).Nodup →
    (i = .vfetch o ∧ k = (o.aux ++ o.b ++ o.a ++ o.d).toNat) ∨ (i = .vfetchr o ∧ k = (s.rx o.a).toNat) → gm = o.gm.toNat →
    vtyVill (s.ctx h).vty = false → (s.ctx h).vty.extractLsb' 0 4 = 2#4 → k < 2 ^ 23 → (s.order h).isEmpty = false →
    (s.ctx h).fetching = none → s.enter h k = (.ok block, s1) →
    (∀ e, e < s.view.vl → gm ≠ 0 ∨ e ∈ s1.actives s.view gm → (s1.thread h e).state ≠ .running) →
    ∃ t, exec i s = .next t ∧ next s1 t 6 ∧ t.mem = s1.mem ∧ otherThreads s1 t h (s1.actives s.view gm) ∧
      ∀ e ∈ s1.actives s.view gm, (t.thread h e).state = .running ∧ (t.thread h e).next = k ∧ (t.thread h e).block = block ∧
        (t.thread h e).fault = none ∧ (t.thread h e).linkIn = (s1.thread h e).linkIn ∧
        (t.thread h e).rm = (s1.ctx h).vrm.extractLsb' 0 3 ∧ (t.thread h e).sat = (s1.ctx h).vrm.getLsbD 3 ∧
        (t.thread h e).fz = (s1.ctx h).vty.getLsbD 6 ∧ (t.thread h e).dz = (s1.ctx h).vty.getLsbD 7

/-- R246 to R249, R81: with no micro-thread running, `uwait` gives their faults as a mask or raises cause 30, and what
the stopped ones stored counts as the context's; `ufstat` reports them, `uresume` and `ukill` act on the ones a mask selects; the ends of the link chain. -/
def ThreadControl : Prop :=
  ∀ (s : State) (h : Nat) (o : T48), s.who = .ct h → vtyVill (s.ctx h).vty = false →
    ((∀ e, e < s.view.vlmax → (s.threadOf s.view e).state ≠ .running) →
      (o.d = 0#5 → (∀ e, e < s.view.vlmax → (s.threadOf s.view e).state ≠ .faulted) → exec (.uwait o) s = .next ((joinStopped s h).retire 6)) ∧
      (o.d = 0#5 → ∀ e, (List.range s.view.vlmax).find? (fun e => (s.threadOf s.view e).state = .faulted) = some e →
        ∃ t, exec (.uwait o) s = .next t ∧ traps s t h 30 (BitVec.ofNat 64 e)) ∧
      (o.d ≠ 0#5 → exec (.uwait o) s = .next ((joinStopped (s.setMaskBits s.view o.d.toNat ((List.range s.view.vlmax).map fun e =>
        (e, decide ((s.threadOf s.view e).state = .faulted), false))) h).retire 6)) ∧
      (∀ e, e < s.view.vlmax → e < 128 * (s.order h).length → ((joinStopped s h).thread h e).queue = []) ∧
      (∀ p ∈ (s.ctx h).queue, p ∈ ((joinStopped s h).ctx h).queue) ∧
      (o.b = 0#5 → o.d.toNat < 8 → exec (.ufstat o) s = .next ((s.setMaskBits s.view o.d.toNat
        ((List.range s.view.vlmax).map fun e => (e, decide ((s.threadOf s.view e).state = .faulted), false))).retire 6)) ∧
      (o.b ≠ 0#5 → o.d.toNat % s.view.lmul = 0 → ((s.ctx h).streamOf s.view.lmul o.d.toNat) = none → (s.ctx h).loading = [] →
        exec (.ufstat o) s = .next (((s.putElems s.view o.d.toNat ((List.range s.view.vlmax).map fun e => (e,
          (let w : BitVec 32 := match (s.threadOf s.view e).state, (s.threadOf s.view e).fault with
            | .faulted, some (cause, k, off) => if o.b = 1#5 then BitVec.ofNat 32 (k % 2 ^ 24 * 256 + cause) else off
            | _, _ => 0
          if s.view.sb = 2 then (w.setWidth 16).setWidth 32 else w), false))).modCtx h fun c => { c with ldst := o.d }).retire 6))) ∧
    ((∀ e, e < s.view.vlmax → (s.maskBit s.view o.a.toNat e).2 = false) → (s.order h).Nodup →
      let sel := ((List.range s.view.vlmax).filter fun e => (s.maskBit s.view o.a.toNat e).1).filter (· < 128 * (s.order h).length)
      (∃ t, exec (.uresume o) s = .next t ∧ next s t 6 ∧ t.mem = s.mem ∧ otherThreads s t h sel ∧
        ∀ e ∈ sel, ((s.thread h e).state = .faulted → ∀ c k off, (s.thread h e).fault = some (c, k, off) →
          (t.thread h e).state = .running ∧ (t.thread h e).next = k ∧ (t.thread h e).fault = none) ∧
          ((s.thread h e).state ≠ .faulted → t.thread h e = s.thread h e)) ∧
      (∃ t, exec (.ukill o) s = .next t ∧ next s t 6 ∧ t.mem = s.mem ∧ ∀ e ∈ sel, (t.thread h e).state = .stopped ∧
        ((s.thread h e).state ≠ .stopped → (t.thread h e).linkIn = [] ∧ t.linkFrom h e = []))) ∧
    (0 < s.view.vl → (s.linkQ h 0).length < 2 → ∃ t, exec (.vlinkin o) s = .next t ∧ next s t 6 ∧
      t.linkQ h 0 = s.linkQ h 0 ++ [((s.rx o.a).setWidth 32, false)] ∧ t.mem = s.mem) ∧
    (∀ x rest, 0 < s.view.vl → s.view.vl ≤ 128 * (s.order h).length → s.linkFrom h (s.view.vl - 1) = (x, false) :: rest →
      ∃ t, exec (.vlinkout o) s = .next t ∧ next s t 6 ∧ wrote s t o.d (x.signExtend 64) ∧ t.linkFrom h (s.view.vl - 1) = rest) ∧
    (∀ x rest, 128 * (s.order h).length < s.view.vl → s.linkQ h s.view.vl = (x, false) :: rest → ∃ t, exec (.vlinkout o) s = .next t ∧ next s t 6 ∧
      wrote s t o.d (x.signExtend 64) ∧ t.linkQ h s.view.vl = rest)

/-- R211 to R213: a vector load whose active elements can all be read writes them to its destination, with the policy's
zeros and its governing bits' poison; the destination is empty until the load delivers (R215). Its elements are read each in
its own time (R68, R358): a load may read some of them ahead of the rest, and stays at its instruction. -/
def VectorLoads : Prop :=
  ∀ (s s1 : State) (i : Instr) (o : T48) (row : List (Nat × Nat)) (vals : List (Nat × BitVec 32 × Bool)),
    i = .vld o ∨ i = .vlds o ∨ i = .vldx o → vecPlain s (o.d.toNat :: indexReg i) →
    laneTakes o.fmt s.view.sb = true → readRow s.view o row s = some (vals, s1) →
    ((s.ctx s.hart).ahead = [] → rowOf s i (s.actives s.view o.gm.toNat) row →
    exec i s = .next ((elemsAt s.view (loadIssued s s1 o.d.toNat) o.d.toNat true ((vals.map fun p => (p.1, p.2.1, p.2.2 || tainted s1 o.gm.toNat p.1)) ++
      (policyZeros s o.gm.toNat).map fun e => (e, 0, false))).retire 6)) ∧
    ((s.ctx s.hart).ahead ≠ [] → rowOf s i ((s.actives s.view o.gm.toNat).filter (s.ctx s.hart).ahead.contains) row →
      ∃ t, exec i s = .next t ∧ t.pc = s.pc ∧ t.mem = s1.mem ∧ t.vreg = s.vreg ∧ (t.ctx s.hart).ahead = [] ∧
        ∀ p ∈ vals, t.readAhead? p.1 = some p.2)

/-- R148, R366: a vector load of which some elements fault completes the others, sets the `mf` bits of the faulted ones
and traps with the cause and the address of the lowest. -/
def ElementFaults : Prop :=
  ∀ (s : State) (h e : Nat) (o : T48) (pre : List (Nat × Nat)) (s1 s2 : State) (vals : List (Nat × BitVec 32 × Bool)) (ba cause : Nat) (tv : Word),
    s.who = .ct h → vecPlain s [o.d.toNat] → laneTakes o.fmt s.view.sb = true → (s.order h).Nodup → s.mfSet s.view = false →
    (s.ctx h).skips = false → (s.ctx h).ahead = [] → s1.readAhead? e = none → cause < 64 → rowOf s (.vld o) (s.actives s.view o.gm.toNat) (pre ++ [(e, ba)]) →
    readRow s.view o pre s = some (vals, s1) →
    s1.readElem (s1.ctx h).cap o.fmt s.view.sb ba (s.view.loc e).1 (o.aux.getLsbD 7) = (.error (cause, tv), s2) →
    ∃ t, exec (.vld o) s = .next t ∧ (t.ctx h).sepc = (s.ctx h).pc ∧ (t.ctx h).mode = .supervisor ∧
      (t.ctx h).scause = BitVec.ofNat 64 cause ∧ (t.ctx h).stval = tv ∧ (t.maskBit s.view 8 e).1 = true ∧
      (∀ j, j < s.view.vlmax → j ≠ e → (t.maskBit s.view 8 j).1 = false) ∧
      ((t.ctx h).sfdesc.extractLsb' 48 16).toNat = 1 ∧ t.mem = s2.mem

/-- R227 to R233: `sbind` of a register that is no multiple of LMUL is illegal (R138), else it reads its descriptor and binds the
stream control block, or raises cause 29; on a bound block
`sunbind`, `ssync`, `sskip` and `spos` do what they say, on an unbound one they raise cause 29. -/
def StreamControl : Prop :=
  ∀ (s : State) (h : Nat) (o : T48), s.who = .ct h →
    (o.d.toNat % vtyLmul (s.ctx h).vty ≠ 0 → ∃ t bits, exec (.sbind o) s = .next t ∧ traps s t h 2 bits) ∧
    (∀ d s1, o.d.toNat % vtyLmul (s.ctx h).vty = 0 → readWords (s.rx o.a) 8 s = (.ok d, s1) →
      (streamOk (s1.ctx h) (s.rx o.a) d o.d o.b.toNat = false → exec (.sbind o) s = .next (s1.trap 29 0)) ∧
      (streamOk (s1.ctx h) (s.rx o.a) d o.d o.b.toNat = true → ((s1.ctx h).unit.bind (·.splice)) = none → o.b.toNat < 16 →
        ((s1.ctx h).stream o.b.toNat).bound = false → ∃ t, exec (.sbind o) s = .next t ∧ next s t 6 ∧
          boundAs s1 h ((t.ctx h).stream o.b.toNat) o.d d ∧ otherStreams s1 t h o.b.toNat ∧ t.mem = s1.mem)) ∧
    (((s.ctx h).stream o.b.toNat).bound = false →
      (∃ t, exec (.sunbind o) s = .next t ∧ traps s t h 29 0) ∧ (∃ t, exec (.ssync o) s = .next t ∧ traps s t h 29 0) ∧
      (∃ t, exec (.sskip o) s = .next t ∧ traps s t h 29 0) ∧ (∃ t, exec (.spos o) s = .next t ∧ traps s t h 29 0)) ∧
    (∀ t, t = (s.ctx h).stream o.b.toNat → t.bound = true →
      (t.isWrite = false → t.kept = none →
        (∃ u, exec (.sunbind o) s = .next u ∧ next s u 6 ∧ ((u.ctx h).stream o.b.toNat).bound = false ∧
          otherStreams s u h o.b.toNat ∧ u.mem = s.mem) ∧
        (∃ u, exec (.ssync o) s = .next u ∧ next s u 6 ∧ ((u.ctx h).stream o.b.toNat) = { t with fetched := [] } ∧
          otherStreams s u h o.b.toNat ∧ u.mem = s.mem)) ∧
      (t.isWrite = true → t.kept = none → t.fifo = none → t.accepted = [] → (s.ctx h).queue = [] →
        ∃ u, exec (.sunbind o) s = .next u ∧ next s u 6 ∧ ((u.ctx h).stream o.b.toNat).bound = false) ∧
      (t.fifo = none → t.pos + (s.rx o.a).toNat ≤ t.length →
        ∃ u, exec (.sskip o) s = .next u ∧ next s u 6 ∧ ((u.ctx h).stream o.b.toNat).pos = t.pos + (s.rx o.a).toNat ∧
          otherStreams s u h o.b.toNat ∧ u.mem = s.mem) ∧
      (t.fifo = none → t.length < t.pos + (s.rx o.a).toNat → ∃ u, exec (.sskip o) s = .next u ∧ traps s u h 29 0) ∧
      (∃ u, exec (.spos o) s = .next u ∧ next s u 6 ∧ onlyScalars s u 6 ∧ wrote s u o.d (BitVec.ofNat 64
        (if t.inLoop then t.loopPos + (if (s.ctx h).loop.gap then (s.ctx h).loop.count - (s.ctx h).loop.rem
          else (s.ctx h).loop.base + (s.ctx h).loop.size) else t.pos))))

/-- R231, R232: the Bellows fetch the next position of a read stream ahead, and move the accepted element at the lowest
position into its class queue, scaled by the byte that its acceptance read (R56); an element that cannot be stored is kept, and so
is one that an error has struck since it was accepted, unwritten (the model's choice, log 113). -/
def StreamsMove : Prop :=
  ∀ (s : State) (h n p : Nat) (t : Stream), t = (s.ctx h).stream n → n < 16 → t.bound = true →
    (t.isWrite = false → t.fifo = none → isClusterLocal (bitVa (t.bitAddr p)) = false →
      ((List.range ((fetchRange (s.ctx h) t).2 - (fetchRange (s.ctx h) t).1)).map (· + (fetchRange (s.ctx h) t).1)).find?
        (fun p => !t.fetched.any (·.pos = p)) = some p →
      ∀ raw pois s1, (s.asBellows h).readRaw (t.cap (s.ctx h)) t.fmt (t.bitAddr p) 0 t.nt = (.ok (raw, pois), s1) →
        (s1.ctx h).stream n = t → ∃ u, exec (.streamPrefetch h n) s = .next u ∧ u.mem = s1.mem ∧ u.who = s.who ∧
          ((u.ctx h).stream n).fetched = t.fetched ++ [{ pos := p, raw := raw, pois := pois }]) ∧
    (∀ a, t.kept = none → firstAccepted t = some a → a.pois = true → ∃ u, exec (.streamDrain h n) s = .next u ∧ u.mem = s.mem ∧
      (u.ctx h).queue = (s.ctx h).queue ∧ ((u.ctx h).stream n).kept = some (bitVa (t.bitAddr a.pos)) ∧ ((u.ctx h).stream n).accepted = t.accepted) ∧
    (∀ a, t.kept = none → firstAccepted t = some a → a.pois = false → ∀ r s1,
      (s.asBellows h).writeScaled (t.cap (s.ctx h)) t.fmt t.sb (t.bitAddr a.pos) a.clus a.lane a.scale = (r, s1) → (s1.ctx h).stream n = t →
      ∃ u, exec (.streamDrain h n) s = .next u ∧ u.who = s.who ∧ u.mem = s1.mem ∧
        (r = .ok () → ((u.ctx h).stream n).accepted = t.accepted.filter (·.pos ≠ a.pos) ∧ ((u.ctx h).stream n).kept = none) ∧
        (∀ cause tv, r = .error (cause, tv) → ((u.ctx h).stream n).kept = some tv ∧
          ((u.ctx h).stream n).accepted = t.accepted)) ∧
    (t.isWrite = true → exec (.streamPrefetch h n) s = .next s)

/-- R72, R73, R302, R303, R307: an acquire completes at once; a release, a full fence, `lsync` and `msig` complete once
every earlier store that they cover has been performed (`.sys` and `lsync` cover those to peers too) and wait until then, honouring a pre-emption request; an acquire at `.die` or wider
drops the core's cache-way copies; `msig` sets its flag, and `mwaitv` completes once its flag has reached the value. -/
def FencesAndFlags : Prop :=
  ∀ (s : State) (h : Nat) (o : T48), s.who = .ct h →
    (∃ t, exec (.fenceAcq o) s = .next t ∧ next s t 6 ∧ onlyScalars (acquired s (coreOf h) o.aux.toNat) t 6) ∧
    (performedFor s h o.aux.toNat →
      (∃ t, exec (.fenceRel o) s = .next t ∧ next s t 6 ∧ onlyScalars s t 6) ∧
      (∃ t, exec (.fenceSc o) s = .next t ∧ next s t 6 ∧ onlyScalars (acquired s (coreOf h) o.aux.toNat) t 6)) ∧
    ((s.ctx h).queue = [] → ∃ t, exec (.lsync o) s = .next t ∧ next s t 6 ∧ onlyScalars s t 6) ∧
    (performedFor s h 1 → o.aux.toNat < 16 → ∃ t, exec (.msig o) s = .next t ∧ (∀ r, t.rx r = s.rx r) ∧
        ctxDone s t h fun c => { c with flags := c.flags.setIfInBounds o.aux.toNat (s.rx o.a) }) ∧
    (¬ performedFor s h o.aux.toNat → ∀ i ∈ [Instr.fenceRel o, .fenceSc o], ∃ t, exec i s = .next t ∧ waits s t h) ∧
    ((s.ctx h).queue ≠ [] → ∃ t, exec (.lsync o) s = .next t ∧ waits s t h) ∧
    (¬ performedFor s h 1 → ∃ t, exec (.msig o) s = .next t ∧ waits s t h) ∧
    ((s.rx o.a).toNat ≤ ((s.ctx h).flags.toArray.getD o.aux.toNat 0).toNat →
      ∃ t, exec (.mwaitv o) s = .next t ∧ next s t 6 ∧ onlyScalars s t 6) ∧
    (((s.ctx h).flags.toArray.getD o.aux.toNat 0).toNat < (s.rx o.a).toNat → ∃ t, exec (.mwaitv o) s = .next t ∧ waits s t h)

/-- R304 to R306: `pwait` waits while the launch runs ahead of its predecessor, `ppt` acts on a pending request alone, and
`ubar` passes once every unit of the launch has arrived. -/
def UnitPoints : Prop :=
  ∀ (s : State) (h : Nat) (o : T48), s.who = .ct h → h < 512 →
    ((s.launchOf h = none ∨ (∃ k l, s.launchOf h = some (k, l) ∧ l.early = false) ∨ (s.ctx h).pwaited = true) →
      ∃ t, exec (.pwait o) s = .next t ∧ (∀ r, t.rx r = s.rx r) ∧
        ctxDone (s.dropWays (coreOf h)) t h fun c => { c with pwaited := true }) ∧
    (∀ k l, s.launchOf h = some (k, l) → l.early = true → (s.ctx h).pwaited = false →
      ∃ t, exec (.pwait o) s = .next t ∧ waits s t h) ∧
    ((s.ctx h).preempt = false → ∃ t, exec (.ppt o) s = .next t ∧ next s t 6 ∧ onlyScalars s t 6) ∧
    ((s.ctx h).preempt = true → s.spliceMate h = none →
      ((s.ctx h).loop.mode = .off → (s.ctx h).ckpt = false → ∃ t, exec (.ppt o) s = .next t ∧ (t.ctx h).unit = none ∧
        t = ((s.retire 6).modCtx h fun c => { c with live := (s.rx o.a).setWidth 32 }).takeRequest h true) ∧
      ((s.ctx h).loop.mode ≠ .off → ∃ t, exec (.ppt o) s = .next t ∧ ctxDone s t h fun c =>
        { c with live := (s.rx o.a).setWidth 32, pointDue := true
                 loop := { c.loop with halt := c.loop.halt || c.loop.mode = .ind } })) ∧
    (¬ performedFor s h 3 → ∃ t, exec (.ubar o) s = .next t ∧ waits s t h) ∧
    (performedFor s h 3 →
      ((s.setCtx h { s.ctx h with ubarAt := true }).allArrived h = true → ∃ t, exec (.ubar o) s = .next t ∧
        (∀ r, t.rx r = s.rx r) ∧
        ctxDone (s.dropWays (coreOf h)) t h fun c => { c with ubars := c.ubars + 1, ubarAt := false }) ∧
      ((s.setCtx h { s.ctx h with ubarAt := true }).allArrived h = false → ∃ t, exec (.ubar o) s = .next t ∧
        waits (s.setCtx h { s.ctx h with ubarAt := true }) t h))

/-- R31, R308: the end of a unit. On a CT `kend` waits for what the unit has in flight, raises what the unit left behind
without ending it (a faulted micro-thread first), and else retires the unit and releases its context; on the MS it
leaves the MS idle; a strip's cluster may not execute it. -/
def UnitsEnd : Prop :=
  ∀ (s : State) (h : Nat) (o : T48),
    (s.who = .ct h → s.runningThread h = none →
      (s.unitBusy h = true → exec (.kend o) s = .next s) ∧
      (s.unitBusy h = false →
        (∀ i, s.faultedThread h = some i → ∃ t, exec (.kend o) s = .next t ∧ traps s t h 30 (BitVec.ofNat 64 i)) ∧
        (∀ cause a, s.faultedThread h = none → (∀ n, n < 16 → ((s.ctx h).stream n).kept = none) →
          (∀ k ∈ s.grantKeys h, (s.handle k).fault = none) → (s.ctx h).engFail = some (cause, a) → cause < 64 →
          ∃ t, exec (.kend o) s = .next t ∧ (t.ctx h).engFail = none ∧
            entered (s.ctx h) (t.ctx h) false cause (s.ctx h).pc a) ∧
        (s.endTrap h = none → s.storesWait h = false → s.spliceMate h = none → ∀ u, (s.ctx h).unit = some u →
          ∃ t, exec (.kend o) s = .next t ∧ (t.ctx h).unit = none ∧ t.mem = s.mem ∧
            (∀ n, n < 16 → ((t.ctx h).stream n).bound = false ∧ ((t.ctx h).win n).bound = false) ∧
            (∀ l, s.launch? (qKey u.job u.queue) u.index = some l → ∃ l', t.launch? (qKey u.job u.queue) u.index = some l' ∧
              l'.retired = l.retired ++ [u.num] ∧
              (l.status = none → l.retired.length + 1 = pktUnits l.words → l'.status = some 0))))) ∧
    (∀ g, s.who = .ms g → ∃ t, exec (.kend o) s = .next t ∧ (t.ms g).run = .idle ∧ (t.ms g).pc = (s.ms g).pc + 6 ∧
      (t.ms g).x = (s.ms g).x ∧ t.mem = s.mem ∧ t.ctxs = s.ctxs) ∧
    (∀ slot, s.who = .ind h slot → exec (.kend o) s = .next (s.trap 28 0))

/-- R291 to R295: at SEW 32, with a level of a GRID window and no point that faults, `gld` gives every active point the
features interpolated from the entries of its cell's corners, its destinations empty until the load delivers (R215), and
`gsc` adds weight times gradient to the entries of the
corners of nonzero weight, in point order, at their home slices. Where xA selects no level, both raise cause 25. The model's choices:
`gsc` is performed whole at its issue (log 7), and the stval of that cause 25 (log 38). -/
def GridResults : Prop :=
  ∀ (s s1 : State) (o : T48), vecPlain s [o.d.toNat, o.b.toNat] → s.view.sb = 4 →
    (∀ g row, gridOf (s.ctx s.hart) (s.rx o.a) o.d.toNat o.b.toNat s.view.lmul = some g →
      (gatherRow g (coordsAt s o g) (s.actives s.view o.gm.toNat) s = some (row, s1) →
        exec (.gld o) s = .next ((((List.range g.feat).foldl (fun (u : State) f => loadIssued s u (o.d.toNat + f * s.view.lmul))
          (((List.range g.feat).foldl (fun (u : State) f =>
            u.putElems s.view (o.d.toNat + f * s.view.lmul)
              ((row.map fun p => (p.1, (p.2.getD f (0, false)).1, (p.2.getD f (0, false)).2 || tainted s o.gm.toNat p.1)) ++
                (policyZeros s o.gm.toNat).map fun e => (e, 0, false))) s1).modCtx s.hart fun c => { c with ldst := o.d })).clearMf
                  s.view).retire 6)) ∧
      (∀ rows, cornersRow g (coordsAt s o g) (s.actives s.view o.gm.toNat) s = some (rows, s1) →
        (∀ e ∈ s.actives s.view o.gm.toNat, tainted s o.gm.toNat e = false ∧
          ∀ f, f < g.feat → (s.elem s.view (o.d.toNat + f * s.view.lmul) e).2 = false) →
        (∀ p ∈ rows, ∀ t ∈ p.2, ∀ q ∈ t.2, s1.classEmpty q.2.2.pa = true ∧ q.2.2.pois = false ∧ s1.memPoisoned q.2.2.pa q.2.1 = false) →
        ∀ s2, scatterRow g (coordsAt s o g) (fun e f => (s.elem s.view (o.d.toNat + f * s.view.lmul) e).1)
          (s.actives s.view o.gm.toNat) s1 = some s2 →
        exec (.gsc o) s = .next ((s2.clearMf s.view).retire 6))) ∧
    (∀ h, s.who = .ct h → gridOf (s.ctx h) (s.rx o.a) o.d.toNat o.b.toNat s.view.lmul = none → s.actives s.view o.gm.toNat ≠ [] →
      ∀ i ∈ [Instr.gld o, .gsc o], ∃ t, exec i s = .next t ∧ (t.ctx h).scause = 25 ∧
        (let w := (s.ctx h).win ((s.rx o.a).toNat / 2 ^ 40 % 16)
        (t.ctx h).stval = if isAperture (s.rx o.a) = true ∧ w.bound = true then w.desc.getD 0 0 + BitVec.ofNat 64 ((s.rx o.a).toNat % 2 ^ 40)
          else s.rx o.a) ∧
        (t.ctx h).sepc = (s.ctx h).pc ∧ (t.ctx h).mode = .supervisor ∧ t.mem = s.mem)

/-- R296 to R301: with a KVB window and sound indices, `kvld` reads each element through the block table, zero where an
entry names no block; `kvst`, once earlier stores are performed and no descriptor is held by the migration engine,
stores entry by entry in ascending order; `kvfork` copies its entries, and where one fails nothing of it remains. An empty
free ring raises cause 32 with the address of the entry that needs a block. -/
def PoolResults : Prop :=
  ∀ (s s1 : State) (o : T48) (k : Kv) (off : Nat), kvOf (s.ctx s.hart) (s.rx o.a) = some (k, off) →
    (vecPlain s [o.d.toNat, o.b.toNat] → poolSound s o k off →
      (∀ vals, poolRow s.view.sb k ((s.actives s.view o.gm.toNat).map fun e => (e, poolByte s o off e)) s = some (vals, s1) →
        exec (.kvld o) s = .next ((elemsAt s.view (loadIssued s s1 o.d.toNat) o.d.toNat true ((vals.map fun p => (p.1, p.2.1, p.2.2 || tainted s1 o.gm.toNat p.1)) ++
          (policyZeros s o.gm.toNat).map fun e => (e, 0, false))).retire 6)) ∧
      (∀ els ens, s.queue = [] →
        els = ((s.actives s.view o.gm.toNat).map fun e => KvElem.mk e (poolByte s o off e / 2 ^ k.log)
          (poolByte s o off e % 2 ^ k.log) (s.elem s.view o.d.toNat e).1) →
        ens = ((els.map (·.entry)).eraseDups).mergeSort (· ≤ ·) →
        (∀ e ∈ s.actives s.view o.gm.toNat, (s.elem s.view o.d.toNat e).2 = false ∧ tainted s o.gm.toNat e = false) →
        (∀ en ∈ ens, kvLocked k en s = false) →
        (entriesRow s.view.sb k els ens s = some s1 → exec (.kvst o) s = .next ((s1.clearMf s.view).retire 6)) ∧
        (∀ h en, s.who = .ct h → ens = [en] → (kvTarget k en s).1 = .error (32, k.entry en) → ∃ t, exec (.kvst o) s = .next t ∧
          (t.ctx h).scause = 32 ∧ (t.ctx h).stval = k.entry en ∧ (t.ctx h).mode = .supervisor ∧ t.mem = s.mem))) ∧
    (∀ h c src dst, s.who = .ct h → vtyVill (s.ctx h).vty = false → c = (s.rx o.d).toNat → src = ((s.rx o.b).extractLsb' 0 32).toNat →
      dst = ((s.rx o.b).extractLsb' 32 32).toNat →
      ((off ≠ 0 ∨ c = 0 ∨ 64 < c ∨ (src < dst + c ∧ dst < src + c) ∨ k.btn < src + c ∨ k.btn < dst + c) →
        ∃ t, exec (.kvfork o) s = .next t ∧ traps s t h 25 ((s.ctx h).under (s.rx o.a))) ∧
      (off = 0 → 0 < c → c ≤ 64 → (dst + c ≤ src ∨ src + c ≤ dst) → src + c ≤ k.btn → dst + c ≤ k.btn → s.queue = [] →
        (∀ j, j < c → kvLocked k (src + j) s = false) →
        (forkAll k src dst (List.range c) s = (.ok (), s1) → exec (.kvfork o) s = .next (s1.retire 6)) ∧
        (∀ cause tv, cause < 64 → forkAll k src dst (List.range c) s = (.error (cause, tv), s1) → ∃ t, exec (.kvfork o) s = .next t ∧
          traps s t h cause tv)))

/-- R309 to R313: `cpy` and `ebatch` queue commands, or wait or turn down a group where the engine queue is full; a command
of length 0 completes at once, or with its event held back where that finds no room; `ewait` waits for every command, then raises the failure of one or acquires. -/
def EngineCommands : Prop :=
  ∀ (s : State) (h : Nat) (o : T48), s.who = .ct h →
    ((s.rx o.b).toNat % 2 ^ 32 ≠ 0 →
      (((s.ctx h).cmds.filter (·.len ≠ 0)).length < 64 → ∃ t, exec (.cpy o) s = .next t ∧ (∀ r, t.rx r = s.rx r) ∧ ctxDone s t h fun c =>
        queuedCmd c none (s.rx o.a) (s.rx o.d) ((s.rx o.b).toNat % 2 ^ 32)
          (asksEvent ((s.rx o.b).getLsbD 63) 1 ((s.rx o.b).extractLsb' 32 24).toNat)) ∧
      (64 ≤ ((s.ctx h).cmds.filter (·.len ≠ 0)).length → exec (.cpy o) s = .next s)) ∧
    ((s.rx o.b).toNat % 2 ^ 32 = 0 → (s.rx o.b).getLsbD 63 = false → ∃ t, exec (.cpy o) s = .next t ∧ next s t 6 ∧ onlyScalars s t 6) ∧
    ((s.rx o.b).toNat % 2 ^ 32 = 0 → (s.rx o.b).getLsbD 63 = true →
      ((s.ctx h).events.length < 16 → (s.ctx h).held = [] → ∃ t, exec (.cpy o) s = .next t ∧ (∀ r, t.rx r = s.rx r) ∧ ctxDone s t h fun c =>
        { c with events := c.events ++ [{ event := 1, tag := ((s.rx o.b).extractLsb' 32 24).toNat }] }) ∧
      ((16 ≤ (s.ctx h).events.length ∨ (s.ctx h).held ≠ []) → ∃ t k, exec (.cpy o) s = .next t ∧ next s t 6 ∧ t.mem = s.mem ∧
        (t.ctx h).events = (s.ctx h).events ∧ (t.ctx h).held = (s.ctx h).held ++ [.cmd k] ∧ (t.ctx h).cmds.any (·.id = k) = true)) ∧
    ((s.ctx h).cmds ≠ [] → exec (.ewait o) s = .next s) ∧
    ((s.ctx h).cmds = [] → (s.ctx h).engFail = none →
      ∃ t, exec (.ewait o) s = .next t ∧ next s t 6 ∧ onlyScalars (s.dropWays (coreOf h)) t 6) ∧
    (∀ cause a, (s.ctx h).cmds = [] → (s.ctx h).engFail = some (cause, a) → cause < 64 → ∃ t, exec (.ewait o) s = .next t ∧
      (t.ctx h).engFail = none ∧ entered (s.ctx h) (t.ctx h) false cause (s.ctx h).pc a) ∧
    (∀ w : Nat → BitVec 32, vecPlain s [o.a.toNat] → s.view.sb = 4 → (s.order h).Nodup → o.d.toNat < 8 →
      (s.actives s.view o.gm.toNat).filter (· % 8 = 0) = [0] → tainted s o.gm.toNat 0 = false →
      (∀ k, k < 8 → s.elem s.view o.a.toNat k = (w k, false)) →
      (((w 0).extractLsb' 4 3 = 0 ∧ w 7 = 0 ∧ ((w 0).extractLsb' 0 4 = 1 ∨ ((w 0).extractLsb' 0 4 = 2 ∧ (w 5).toNat % 4 = 0)) ∧
          w 5 ≠ 0 ∧ ((s.ctx h).cmds.filter (·.len ≠ 0)).length < 64) → ∃ t, exec (.ebatch o) s = .next t ∧ next s t 6 ∧ (t.maskBit s.view o.d.toNat 0).1 = true ∧
        (t.ctx h).cmds = (queuedCmd (s.ctx h) (if (w 0).extractLsb' 0 4 = 2 then some (w 6) else none) (w 2 ++ w 1) (w 4 ++ w 3)
          (w 5).toNat (asksEvent ((w 0).getLsbD 7) 3 ((w 0).toNat / 256))).cmds) ∧
      (((w 0).extractLsb' 4 3 ≠ 0 ∨ w 7 ≠ 0 ∨ ((w 0).extractLsb' 0 4 ≠ 1 ∧ (w 0).extractLsb' 0 4 ≠ 2) ∨
          ((w 0).extractLsb' 0 4 = 2 ∧ (w 5).toNat % 4 ≠ 0) ∨ (w 5 ≠ 0 ∧ 64 ≤ ((s.ctx h).cmds.filter (·.len ≠ 0)).length)) →
        ∃ t, exec (.ebatch o) s = .next t ∧ next s t 6 ∧ (t.maskBit s.view o.d.toNat 0).1 = false ∧ (t.ctx h).cmds = (s.ctx h).cmds))

/-- R310, R314, R315: the engine runs a command whose pieces all resolve, byte for byte and with its poison, as its source
held them before, credited to checkpoints (R417), and it is then finished; a finished command completes with its event; a watch whose commands are gone raises EVENT 3. `uiset` and
`uimask`. -/
def EngineProgress : Prop :=
  ∀ (s : State) (h : Nat),
    (∀ o, s.who = .ct h →
      (∃ t, exec (.uiset o) s = .next t ∧ (∀ r, t.rx r = s.rx r) ∧ ctxDone s t h fun c =>
        { c with watches := c.watches ++ [{ ids := c.cmds.map (·.id), tag := (s.rx o.a).toNat % 2 ^ 24 }] }) ∧
      (∃ t, exec (.uimask o) s = .next t ∧ wrote s t o.d ((s.ctx h).uimask.setWidth 64) ∧ ctxDone s t h fun c =>
        { c with uimask := (s.rx o.a &&& 0x3E).setWidth 6 })) ∧
    (∀ k c, (s.ctx h).cmds.find? (·.id = k) = some c →
      (c.done = false → c.sofar = 0 → c.buf = [] → ∀ srcs dsts t0, resolveCmd c (s.asBellows h) = (srcs, dsts, none, t0) →
        ∃ t, exec (.engineCommandRun h k) s = .next t ∧ t.who = s.who ∧ (∀ x, (t.ctx h).cmds.find? (·.id = k) = some x → x.done = true) ∧
          t.mem = ((dsts.zip ((srcs.take dsts.length).map fun p => match c.fill with
            | some f => (List.range p.2.1).map fun i => (f.extractLsb' (8 * ((p.1 + i) % 4)) 8, false)
            | none => t0.chunkBytes p)).foldl (fun (u : State) x => u.putChunk x.1 x.2)
              (if c.fill.isSome then t0 else (srcs.take dsts.length).foldl State.creditChunk t0)).mem) ∧
      (c.done = true → c.event = none → exec (.engineCommandComplete h k) s =
        .next (s.setCtx h { s.ctx h with cmds := (s.ctx h).cmds.filter (·.id ≠ k) })) ∧
      (c.done = false → exec (.engineCommandComplete h k) s = .next s) ∧
      (∀ e, c.done = true → c.event = some e → (s.ctx h).held = [] → (s.ctx h).events.length < 16 →
        ∃ t, exec (.engineCommandComplete h k) s = .next t ∧ t = s.setCtx h { s.ctx h with
          cmds := (s.ctx h).cmds.filter (·.id ≠ k), events := (s.ctx h).events ++ [e] })) ∧
    (∀ w l, (s.ctx h).watches = w :: l → (∀ i ∈ w.ids, ∀ c ∈ (s.ctx h).cmds, c.id ≠ i) → (s.ctx h).held = [] →
      (s.ctx h).events.length < 16 → ∃ t, exec (.uisetWatchFire h) s = .next t ∧ t = s.setCtx h { s.ctx h with
        watches := l, events := (s.ctx h).events ++ [{ event := 3, tag := w.tag }] })

/-- R316: `qput` writes its packet into the slot of the index it takes, its first word last, and announces it, or gives
all ones where the ring is full; `qtail` announces a tail; `qwait` waits until the packet has left its slot. A queue that is
not mapped raises cause 7. The model's choice (log 47): a misaligned packet raises cause 4 before the queue is looked at. -/
def QueueInstructions : Prop :=
  ∀ (s s1 : State) (h : Nat) (o : T48), s.who = .ct h →
    ((s.rx o.a).toNat % 128 ≠ 0 → ∃ t, exec (.qput o) s = .next t ∧ traps s t h 4 (s.rx o.a)) ∧
    (s.queueOn (keyOf s h (s.rx o.b)) = (none, s1) →
      ∀ i ∈ [Instr.qtail o, .qwait o] ++ (if (s.rx o.a).toNat % 128 = 0 then [Instr.qput o] else []),
        exec i s = .next (s1.trap 7 (BitVec.ofNat 64 ((s.rx o.b).toNat % 65536)))) ∧
    (∀ w, s.queueOn (keyOf s h (s.rx o.b)) = (some w, s1) →
      (s1.queue = [] → exec (.qtail o) s = .next ((s1.announce (keyOf s h (s.rx o.b)) (s1.rx o.a).toNat).retire 6)) ∧
      (∀ r s2, s1.hubWord (keyOf s h (s.rx o.b) / 65536) (s1.qRecord (keyOf s h (s.rx o.b)) + 8) = (some r, s2) →
        ((s2.rx o.a).toNat < r.toNat + w48Cap w → exec (.qwait o) s = .next ((s2.dropWays (coreOf h)).retire 6)) ∧
        (r.toNat + w48Cap w ≤ (s2.rx o.a).toNat → ∃ t, exec (.qwait o) s = .next t ∧ waits s2 t h)) ∧
      (∀ ws s2 l s3, (s.rx o.a).toNat % 128 = 0 → readWords (s.rx o.a) 16 s1 = (.ok ws, s2) → s2.queue = [] →
        s2.hubWords (keyOf s h (s.rx o.b) / 65536) (s2.qRecord (keyOf s h (s.rx o.b))) 7 = (some l, s3) →
        (w48Cap w ≤ (l.getD 0 0 - l.getD 1 0).toNat → exec (.qput o) s = .next ((s3.wx o.d 0xFFFFFFFFFFFFFFFF).retire 6)) ∧
        ((l.getD 0 0 - l.getD 1 0).toNat < w48Cap w → ∀ j r at' s4, j = keyOf s h (s.rx o.b) / 65536 →
          r = s2.qRecord (keyOf s h (s.rx o.b)) → at' = l.getD 6 0 + BitVec.ofNat 64 (128 * ((l.getD 0 0).toNat % w48Cap w)) →
          s4 = (((s3.hubPut j r (l.getD 0 0 + 1)).hubPuts j (at' + 8) (ws.drop 1)).hubPut j at' (l.getD 0 0 + 1)).announce
            (keyOf s h (s.rx o.b)) ((l.getD 0 0).toNat + 1) → exec (.qput o) s = .next ((s4.wx o.d (l.getD 0 0)).retire 6))))

/-- R22, R23, R317, R318: `bkset` switches the banks that nothing holds, on every cluster of the context, and says which
stand in the mode on all of them; the functions of `hcall`. -/
def BanksAndCalls : Prop :=
  ∀ (s : State) (h : Nat) (o : T48), s.who = .ct h →
    (((s.rx o.b).toNat % 4 = 3 ∨ s.order h = []) → ∃ t, exec (.bkset o) s = .next t ∧ next s t 6 ∧ onlyScalars s t 6 ∧ wrote s t o.d 0) ∧
    ((s.rx o.b).toNat % 4 ≠ 3 → s.order h ≠ [] → ∃ t v, exec (.bkset o) s = .next t ∧ next s t 6 ∧ wrote s t o.d v ∧ t.mem = s.mem ∧
      (∀ q b, banksOf s h q b → (s.rx o.a).getLsbD b = true → s.bankHeld (16 * q + b) = false → canonical 0 s.bankMode = true →
        t.bankModeOf q b = (s.rx o.b).toNat % 4) ∧
      (∀ q b, b < 16 → (q ∉ s.order h ∨ (s.rx o.a).getLsbD b = false) → canonical 0 s.bankMode = true →
        t.bankModeOf q b = s.bankModeOf q b) ∧
      (∀ b, b < 16 → (v.getLsbD b = true ↔ (s.rx o.a).getLsbD b = true ∧ ∀ q ∈ s.order h, t.bankModeOf q b = (s.rx o.b).toNat % 4)) ∧
      (∀ b, 16 ≤ b → v.getLsbD b = false)) ∧
    (∃ t, exec (.hcallOther o) s = .next t ∧ next s t 6 ∧ onlyScalars s t 6 ∧ wrote s t o.d 0xFFFFFFFFFFFFFFFF) ∧
    (s.spliceMate h = none → ∃ t, exec (.hcallPreempt o) s = .next t ∧ next s t 6 ∧ wrote s t o.d 0 ∧ (t.ctx h).preempt = true ∧
      (t.ctx h).unit = (s.ctx h).unit ∧ t.mem = s.mem) ∧
    (∀ u q l, (s.ctx h).unit = some u → s.slot? (qKey u.job u.queue) = some q → u.index < q.read →
      q.launch? u.index = some l → l.status = none → ∃ t l', exec (.hcallCancel o) s = .next t ∧ (t.ctx h).unit = none ∧
        t.launch? (qKey u.job u.queue) u.index = some l' ∧ l'.status = some 2 ∧ l'.ustat = (s.rx o.b).toNat % 65536)

/-- R394, R396, R401: each instruction of a run writes its register or leaves its effect, counts against the budget and goes
on at the next one; `rep` runs its body its number of passes; the 513th instruction of a run ends the packet BUDGET. -/
def RunInstructions : Prop :=
  ∀ (s : State) (job q : Nat) (r : Run) (i : Instr),
    (crillMoves s job q r →
      (∀ d v, crillValue r i = some (d, v) →
        exec i s = .next (s.goOn (qKey job q) (((counted r).setQ d v).goto (r.pc + 1) false))) ∧
      (∀ r', crillEffect r i = some r' → exec i s = .next (s.goOn (qKey job q) ((counted r').goto (r.pc + 1) false))) ∧
      (∀ c imm, crillJump r i = some (c, imm) →
        (c → exec i s = .next (s.goOn (qKey job q) ((counted r).goto (r.pc + 1 + imm.toNat) true))) ∧
        (¬ c → exec i s = .next (s.goOn (qKey job q) ((counted r).goto (r.pc + 1) false)))) ∧
      (∀ d, i = .crillTime d → exec i s = .next (s.goOn (qKey job q) (((counted r).setQ d s.time).goto (r.pc + 1) false))) ∧
      (∀ d n len, i = .crillRep d n len → exec i s = .next (s.goOn (qKey job q)
        (Run.setQ { counted r with pc := r.pc + 1, rep := some (r.pc + 1, len.toNat, n.toNat + 1, 0, d.toNat) } d 0)))) ∧
    (s.who = .crill job q → s.run? (qKey job q) = some r → 512 ≤ r.used → isCrill i = true →
      exec i s = .next (s.endRun (qKey job q) r (.discard 6))) ∧
    (r.q.length = 16 → ∀ d e v, (r.setQ d v).q' e = if e = d ∧ d ≠ 0#4 then v else r.q' e) ∧
    (∀ t jump, r.rep = none → r.goto t jump = { r with pc := t }) ∧
    (∀ t first len n k d jump, r.rep = some (first, len, n, k, d) →
      (t < first + len → r.goto t jump = { r with pc := t }) ∧
      (first + len ≤ t → jump = false → k + 1 < n → r.goto t jump =
        Run.setQ { r with pc := first, rep := some (first, len, n, k + 1, d) } (BitVec.ofNat 4 d) (BitVec.ofNat 64 (k + 1))) ∧
      (first + len ≤ t → (jump = true ∨ n ≤ k + 1) → r.goto t jump = { r with pc := t, rep := none })) ∧
    (∀ k, (r.pc < s.progLen k → s.goOn k r = s.setRun k r) ∧ (s.progLen k ≤ r.pc → s.goOn k r = s.endRun k r .carry))

/-- R388, R396, R400: reads of tables and counters, and how a run ends: carried out, cancelled, waiting on a counter, or
discarded with CANCELLED-DEP, BUDGET or BADPKT; a waiting packet's program runs again once its counter has changed, be it back
to what it was. -/
def RunEndings : Prop :=
  ∀ (s : State) (job q : Nat) (r : Run) (x : QSlot), q < 65536 → s.slot? (qKey job q) = some x →
    (crillMoves s job q r → r.consumer = false →
      (∃ t, exec .crillEnd s = .next t ∧ runLeft s t (qKey job q)
        { index := r.index, words := r.words, scratch := r.scratch, effects := r.effects }) ∧
      (∃ t, exec .crillEndCancel s = .next t ∧ runLeft s t (qKey job q)
        { index := r.index, words := r.words, scratch := r.scratch, effects := r.effects, ending := some 2 }) ∧
      (∀ d a, 1024 ≤ (r.q' a).toNat → ∀ i ∈ [Instr.crillRdc d a, .crillSetc d a, .crillWaitc d a, .crillSigc a 0#16],
        ∃ t, exec i s = .next t ∧ runLeft s t (qKey job q)
          { index := r.index, words := r.words, scratch := x.scratch, effects := [], ending := some 7 }) ∧
      (∀ d a imm, r.q' a = 0 → ∀ i ∈ [Instr.crillSetc d a, .crillSigc a imm], ∃ t, exec i s = .next t ∧ runLeft s t (qKey job q)
        { index := r.index, words := r.words, scratch := x.scratch, effects := [], ending := some 7 }) ∧
      (∀ d a, (r.q' a).toNat < 1024 →
        exec (.crillRdc d a) s = .next (s.goOn (qKey job q)
          (((counted r).setQ d (s.counter job (r.q' a).toNat)).goto (r.pc + 1) false))) ∧
      (∀ d a w, (r.q' a).toNat < 1024 → w = s.counter job (r.q' a).toNat →
        (w.getLsbD 63 = true → ∃ t, exec (.crillWaitc d a) s = .next t ∧ runLeft s t (qKey job q)
          { index := r.index, words := r.words, scratch := x.scratch, effects := [], ending := some 4 }) ∧
        (w.getLsbD 63 = false → (r.q' d).toNat ≤ w.toNat → exec (.crillWaitc d a) s = .next (s.goOn (qKey job q)
          ((counted r).goto (r.pc + 1) false))) ∧
        (w.getLsbD 63 = false → w.toNat < (r.q' d).toNat → ∃ t, exec (.crillWaitc d a) s = .next t ∧ t.run? (qKey job q) = none ∧
          ∃ y, t.slot? (qKey job q) = some y ∧ y.waits = some ((r.q' a).toNat, w) ∧ y.rerun = false ∧ y.ready = x.ready ∧ y.scratch = x.scratch)) ∧
      (∀ d a (tb : BitVec 2), ((r.q' a).toNat < (x.tables.getD tb.toNat (0, 0)).2.toNat →
          ∀ w s1, s.hubWord job ((x.tables.getD tb.toNat (0, 0)).1 + 8 * r.q' a) = (some w, s1) →
          exec (.crillLdt d a tb) s = .next (s1.goOn (qKey job q) (((counted r).setQ d w).goto (r.pc + 1) false))) ∧
        ((x.tables.getD tb.toNat (0, 0)).2.toNat ≤ (r.q' a).toNat → ∃ t, exec (.crillLdt d a tb) s = .next t ∧
          runLeft s t (qKey job q) { index := r.index, words := r.words, scratch := x.scratch, effects := [], ending := some 7 }))) ∧
    (∀ c w prog, x.waits = some (c, w) → x.prog = some prog →
      (∀ v, s.counter job c ≠ v → ∃ y, (s.setCounter job c v).slot? (qKey job q) = some y ∧ y.rerun = true) ∧
      (x.rerun = false → exec (.crillRerun job q) s = .next s) ∧
      (x.rerun = true → prog ≠ [] → s.hearth.runs.length < 8 → ∃ t, exec (.crillRerun job q) s = .next t ∧
        t.run? (qKey job q) = some { index := x.read, words := sparseGet [] x.journal x.read, scratch := x.scratch } ∧
        (∃ y, t.slot? (qKey job q) = some y ∧ y.waits = none) ∧ t.mem = s.mem))

/-- R382, R385, R398, R429: a doorbell is an announcement for a mapped queue of a running module; packets are accepted in index
order up to the first one that is not published, each into the journal and its two copies with a tag (R391, R438); a queue that asks for a slot takes a free one
with what its record says. -/
def QueuesAccept : Prop :=
  ∀ (s : State) (job q key : Nat) (v : Word), key = qKey job q →
    ((s.plat.mode ≠ 1 ∨ (s.job job).nq < (v.extractLsb' 48 16).toNat) → exec (.hostDoorbell job v) s = .next s) ∧
    (s.plat.mode = 1 → (v.extractLsb' 48 16).toNat ≤ (s.job job).nq → exec (.hostDoorbell job v) s =
      .next (s.announce (qKey job (v.extractLsb' 48 16).toNat) (v.extractLsb' 0 48).toNat)) ∧
    (s.slot? key = none → exec (.acceptReexamine job q) s = .next s) ∧
    (∀ x, s.slot? key = some x →
      (x.tail ≤ x.acc → exec (.acceptReexamine job q) s = .next s) ∧
      (∀ s1, x.acc < x.tail → s.published key x.acc = (none, s1) → exec (.acceptReexamine job q) s = .next s1) ∧
      (∀ ws s1, x.tail = x.acc + 1 → s.published key x.acc = (some ws, s1) → s1.slot? key = some x →
        ∃ t, exec (.acceptReexamine job q) s = .next t ∧
          t.slot? key = some { x with
            acc := x.acc + 1, journal := sparsePut x.journal x.acc ws
            copies := sparsePut x.copies x.acc
              ({ words := ws, tag := journalTag key x.acc ws }, { words := ws, tag := journalTag key x.acc ws }) })) ∧
    (s.hearth.waiting = [] → exec .queueSlotGrant s = .next s) ∧
    (∀ k rest, s.hearth.waiting = k :: rest → s.plat.mode ≠ 1 → exec .queueSlotGrant s = .next s) ∧
    (∀ k rest w l prog s1 s2 s3, s.plat.mode = 1 → s.hearth.waiting = k :: rest → s.hearth.slots.length < 64 →
      State.queueOn { s with hearth := { s.hearth with waiting := rest } } k = (some w, s1) →
      s1.hubWords (k / 65536) (s1.qRecord k) 26 = (some l, s2) →
      s2.loadProgram k (l.getD 8 0) ((List.range 4).map fun t => (l.getD (10 + 2 * t) 0, l.getD (11 + 2 * t) 0)) = (prog, s3) →
      ∃ t x, exec .queueSlotGrant s = .next t ∧ t.slot? k = some x ∧ t.hearth.waiting = rest ∧ x.ring = l.getD 6 0 ∧
        x.cring = l.getD 7 0 ∧ x.w48 = w ∧ x.read = (l.getD 1 0).toNat ∧ x.tail = (l.getD 2 0).toNat ∧
        (l.getD 3 0).toNat ≤ x.acc ∧ x.cdone = (l.getD 4 0).toNat ∧ x.prog = prog)

/-- R32, R340 to R346, R395 to R399: the packet at the read position of a queue runs the queue's program, or ends BADPKT
where the program was rejected; one that has been judged to end is taken with its status; a launch without units is taken
COMPLETED; an early start takes its launch, and that alone; a taken launch's units are placed where the cores offer room, and a saved unit
comes back where one does. A started unit has its code object's entry, its arguments in x10 and its number in x11, and zero
elsewhere. The model's choices: it starts in user mode (log 5), and an empty program carries its packet out as it stands (log 64). -/
def PacketsStart : Prop :=
  ∀ (s : State) (job q key : Nat), key = qKey job q →
    (s.slot? key = none → exec (.packetTake job q) s = .next s ∧ exec (.earlyStart job q) s = .next s) ∧
    (∀ x, s.slot? key = some x → s.refreshHead key = s → s.atHead key x = true →
      (x.ready = none → x.waits = none →
        (x.prog = none → ∃ t y, exec (.packetTake job q) s = .next t ∧ t.slot? key = some y ∧ y.ready = some (headPlain x (some 7))) ∧
        (x.prog = some [] → ∃ t y, exec (.packetTake job q) s = .next t ∧ t.slot? key = some y ∧ y.ready = some (headPlain x none)) ∧
        (∀ w l, x.prog = some (w :: l) → s.hearth.runs.length < 8 → ∃ t, exec (.packetTake job q) s = .next t ∧
          t.run? key = some { index := x.read, words := sparseGet [] x.journal x.read, scratch := x.scratch })) ∧
      (∀ rd s1, x.ready = some rd → s.chosenQueue = some key → s.traceHolds 3 job 32 = false → s1.slot? key = some x →
        (∀ st, rd.effects = [] → rd.mate = none → x.later = [] → st ≠ 0 → s.judge key x rd = (.ends st, s1) → ∃ t, exec (.packetTake job q) s = .next t ∧ took t key rd (some st)) ∧
        (∀ k, rd.effects = [] → rd.mate = none → x.later = [] → s.judge key x rd = (.goes k false, s1) → pktType rd.words = 1 →
          rd.decided = true → pktUnits rd.words = 0 →
          ∃ t, exec (.packetTake job q) s = .next t ∧ took t key rd (some 0)) ∧
        (∀ k, s.judge key x rd = (.goes k true, s1) →
          exec (.earlyStart job q) s = .next (s1.takeLaunch key { rd with mate := none } k true)))) ∧
    (∀ x l u, s.moveHomes job = s → s.refreshHead key = s → s.slot? key = some x → x.taken.find? (fun l => l.unplaced && !l.consumer) = some l →
      s.placeUnits key l.index = some u → exec (.unitPlace job q) s = .next u) ∧
    (∀ k, s.savedById k = none → exec (.unitResume k) s = .next s) ∧
    (∀ k r g harts order, s.savedById k = some r → r.journal = false → r.isMate = false → s.plat.mode = 1 → s.moveHomes r.job = s →
      (s.resumeCores r).find? (fun g => (s.canResume r g).isSome) = some g → s.canResume r g = some (harts, order) →
      exec (.unitResume k) s = .next (s.comeBack r harts order)) ∧
    (∀ l u h, l.kern.wins = [] → u.ownsMs = false → u.grants = [] →
      ((s.startUnit key l u h).ctx h).pc = l.kern.ct ∧ ((s.startUnit key l u h).ctx h).unit = some u ∧
      ((s.startUnit key l u h).ctx h).mode = .user ∧ ((s.startUnit key l u h).ctx h).vl = 0 ∧
      ((s.startUnit key l u h).ctx h).handler = false ∧ (s.startUnit key l u h).mem = s.mem ∧
      ∀ r, ((s.startUnit key l u h).ctx h).rx r =
        if r = 10#5 then pktArgs l.words else if r = 11#5 then BitVec.ofNat 64 u.num else 0)

/-- R388, R389, R391: the next completion of a queue is delivered once the record ring has room and every write of the launch
is performed: a completed launch that is not last in its graph advances counter 0 and its SIG, its record is written and
CDONE passes it. A phase barrier ends once every earlier packet of its queue has. -/
def CompletionsDelivered : Prop :=
  ∀ (s : State) (job q key : Nat) (x : QSlot) (l : Launch), key = qKey job q → q < 65536 → s.slot? key = some x →
    (x.launch? x.cdone = none → exec (.launchComplete job q) s = .next s) ∧
    (x.launch? x.cdone = some l → s.mayDeliver key x l.index = false → exec (.launchComplete job q) s = .next s) ∧
    (s.plat.mode ≠ 1 → exec (.launchComplete job q) s = .next s ∧ exec (.phaseBarrierComplete job q) s = .next s) ∧
    (s.plat.mode = 1 → x.launch? x.cdone = some l → s.mayDeliver key x l.index = true → s.traceHolds 3 job 32 = false → l.partner = none →
      (s.job job).state = 1 → ∃ t y, exec (.launchComplete job q) s = .next t ∧ t.slot? key = some y ∧ y.cdone = l.index + 1 ∧
        y.launch? l.index = none ∧ y.read = x.read ∧
        (canonical 0 (s.job job).counters = true → l.status = some 0 → pktType l.words = 1 → pktLast l.words = false → pktSig l.words ≠ 0 →
          pktSig l.words < 1024 → t.counter job (pktSig l.words) = (s.counter job (pktSig l.words) &&& 0x8000000000000000) |||
            BitVec.ofNat 64 (((s.counter job (pktSig l.words)).toNat % 2 ^ 63 + 1) % 2 ^ 63))) ∧
    (x.taken.find? (fun l => pktType l.words = 2 && l.status.isNone) = some l →
      (s.plat.mode = 1 → (∀ y ∈ x.taken, l.index ≤ y.index ∨ y.status.isSome = true) → ∃ t y, exec (.phaseBarrierComplete job q) s = .next t ∧
        t.launch? key l.index = some y ∧ y.status = some 0 ∧ t.mem = s.mem ∧ t.ctxs = s.ctxs) ∧
      ((∃ y ∈ x.taken, y.index < l.index ∧ y.status = none) → exec (.phaseBarrierComplete job q) s = .next s))

/-- R390, R428, R429, R439: the writes of a job control block's STATE and of a cancel register: a job is created, ended or
cancelled, and a launch is cancelled, before its take or after it; until stage 4 of the boot all of them are ignored. The model's
choices: a FAILED job's number may be created again (log 69), and a job ends once its records are delivered (log 70). -/
def JobsChange : Prop :=
  ∀ (s : State) (j : Nat) (w0 w1 : Word),
    ((256 ≤ j ∨ s.plat.mode ≠ 1 ∨ (s.job j).state = 1 ∨ (s.job j).state = 2) → exec (.jobCreate j) s = .next s) ∧
    (j < 256 → s.plat.mode = 1 → (s.job j).state = 0 ∨ (s.job j).state = 3 →
      (((s.job j).root % 1024 ≠ 0 ∨ (s.job j).qtab.toNat % 256 ≠ 0 ∨ (s.job j).cmir.toNat % 8192 ≠ 0) →
        ∃ t, exec (.jobCreate j) s = .next t ∧ (t.job j).state = 3 ∧ t.mem = s.mem) ∧
      ((s.job j).root % 1024 = 0 → (s.job j).qtab.toNat % 256 = 0 → (s.job j).cmir.toNat % 8192 = 0 →
        ∃ t, exec (.jobCreate j) s = .next t ∧ (t.job j).state = 1 ∧ (∀ c, t.counter j c = 0) ∧ (t.job j).homes = [] ∧
          (t.job j).root = (s.job j).root)) ∧
    (s.plat.mode ≠ 1 → ∀ i ∈ [Instr.jobEnd j, .jobCancel j, .hostCancel j w0 w1], exec i s = .next s) ∧
    (s.plat.mode = 1 → (s.job j).state = 1 →
      ((∃ p ∈ s.ctxs, ∃ u, p.2.unit = some u ∧ u.job = j) → ∃ t, exec (.jobEnd j) s = .next t ∧ (t.job j).state = 2 ∧
        t.ctxs = s.ctxs ∧ t.hearth.slots = s.hearth.slots) ∧
      ((∀ p ∈ s.ctxs, ∀ u, p.2.unit = some u → u.job ≠ j) → (∀ r ∈ s.hearth.saved, r.job ≠ j) →
        (∀ p ∈ s.hearth.slots, p.1 / 65536 = j → p.2.taken = []) → (∀ p ∈ s.handles, p.2.job = some j → p.2.drains = []) →
        ∃ t, exec (.jobEnd j) s = .next t ∧ (t.job j).state = 0 ∧
          (∀ p ∈ t.hearth.slots, p.1 / 65536 ≠ j) ∧ (∀ p ∈ t.handles, p.2.job ≠ some j) ∧ t.mem = s.mem)) ∧
    ((s.job j).state ≠ 1 → exec (.jobEnd j) s = .next s) ∧
    (s.plat.mode = 1 → ((s.job j).state = 1 ∨ (s.job j).state = 2) → ∃ t, exec (.jobCancel j) s = .next t ∧ (t.job j).state ≠ 1 ∧
      (∀ p ∈ t.hearth.slots, p.1 / 65536 ≠ j) ∧ ∀ p ∈ t.hearth.runs, p.1 / 65536 ≠ j) ∧
    ((s.job j).state ≠ 1 → (s.job j).state ≠ 2 → exec (.jobCancel j) s = .next s) ∧
    (s.plat.mode = 1 → ∃ t, exec (.hostCancel j w0 w1) s = .next t ∧ (t.job j).cancelWord = w0 ∧
      ((s.job j).state ≠ 1 ∧ (s.job j).state ≠ 2 → t.hearth.slots = s.hearth.slots ∧ t.ctxs = s.ctxs ∧ t.mem = s.mem) ∧
      (∀ x key, key = qKey j (w1.extractLsb' 16 16).toNat → ((s.job j).state = 1 ∨ (s.job j).state = 2) → w1.extractLsb' 0 2 = 0 →
        s.slot? key = some x →
        (x.read ≤ w0.toNat → t.ctxs = s.ctxs ∧ t.mem = s.mem ∧ ∃ y, t.slot? key = some y ∧ y.cancels.contains w0.toNat = true ∧
          y.taken = x.taken) ∧
        (∀ l, w0.toNat < x.read → x.launch? w0.toNat = some l → l.status = none → ∃ l', t.launch? key w0.toNat = some l' ∧
          l'.status = some 2)))

/-- R352, R353, R416 to R423, R453, R455, R456: the patrol, the record of corrected errors, TEMPER, a Temper window, a clock
step, SCRUBCTL, TRCTL, and the trace's records. The model's choices: a window's arithmetic (log 77), and CLEAR acts whatever
FREEZE says (log 12). -/
def PlatformUpkeep : Prop :=
  ∀ (s : State) (k : Nat) (v : Word) (step : BitVec 2),
    (s.plat.scrubctl.getLsbD 0 = false → ∀ e, exec (.patrolRead e) s = .next s) ∧
    (s.plat.scrubctl.getLsbD 0 = true → s.plat.ckRegs = [] → ckCount s.plat.scrubctl = 0 →
      (∃ t, exec (.patrolRead 0#2) s = .next t ∧ t.plat.patrol = patrolAfter (64 * s.plat.patrol) / 64 ∧ t.mem = s.mem ∧ t.memPois = s.memPois) ∧
      (∀ e, e = 2#2 ∨ e = 3#2 → s.plat.elog.toNat % 32 ≠ 0 → ∃ t n, exec (.patrolRead e) s = .next t ∧ n < 16 ∧ t.mem = s.mem ∧
        t.plat.patrol = patrolAfter (64 * s.plat.patrol) / 64 ∧ sparseGet false t.memPois (16 * s.plat.patrol + n) = true)) ∧
    (s.plat.ceTab[k]? = none → exec (.ceRecordFlush k) s = .next s) ∧
    (∀ e, s.plat.ceTab[k]? = some e → s.time.toNat < e.first.toNat + 1000000000 → exec (.ceRecordFlush k) s = .next s) ∧
    (∀ e, s.plat.ceTab[k]? = some e → e.first.toNat + 1000000000 ≤ s.time.toNat → ∃ t, exec (.ceRecordFlush k) s = .next t ∧
      t.plat.ceTab = s.plat.ceTab.eraseIdx k ∧ (s.plat.elog.toNat % 32 ≠ 0 → t.mem = s.mem)) ∧
    (∃ t, exec (.scrubctlWrite v) s = .next t ∧ (t.plat.scrubctl.extractLsb' 32 32).toNat = max 3600 (v.extractLsb' 32 32).toNat ∧
      (t.plat.scrubctl.extractLsb' 16 7).toNat = min 64 (v.extractLsb' 16 7).toNat ∧ t.plat.scrubctl.getLsbD 0 = v.getLsbD 0 ∧
      t = { s with plat := { s.plat with scrubctl := t.plat.scrubctl } }) ∧
    (s.plat.mode ≠ 2 → s.plat.cfg.derate ≤ 3 → ∃ t, exec (.temperWrite v) s = .next t ∧
      (t.plat.temper.extractLsb' 32 16).toNat = min (v.extractLsb' 32 16).toNat s.plat.cfg.power ∧
      (t.plat.temper.extractLsb' 12 2).toNat = max (v.extractLsb' 12 2).toNat s.plat.cfg.derate ∧
      (t.plat.temper.extractLsb' 0 11).toNat = min 1250 (max 64 (v.extractLsb' 0 11).toNat) ∧ t.mem = s.mem ∧ t.ctxs = s.ctxs) ∧
    (∃ t, exec (.temperWindow k) s = .next t ∧ t = s.setCore k (t.core k) ∧ (t.core k).busy = (s.core k).busy - 1250 ∧
      (t.core k).last = min 1250 (max (s.core k).busy ((s.core k).last - (s.core k).ramp))) ∧
    (k < 4 → canonical 0 s.plat.steps = true → ∃ t, exec (.clockStepChange k step) s = .next t ∧
      t.dieStep k = max step.toNat (s.plat.temper.extractLsb' 12 2).toNat ∧ (∀ d, d ≠ k → t.dieStep d = s.dieStep d) ∧
      t.mem = s.mem ∧ t.ctxs = s.ctxs) ∧
    (4 ≤ k → exec (.clockStepChange k step) s = .next s) ∧
    (∃ t, exec (.trctlWrite v) s = .next t ∧ t.plat.trctl.getLsbD 0 = v.getLsbD 0 ∧
      (t.plat.trctl.extractLsb' 22 5).toNat = (if 10 ≤ (v.extractLsb' 22 5).toNat ∧ (v.extractLsb' 22 5).toNat ≤ 26
        then (v.extractLsb' 22 5).toNat else 0) ∧ t.plat.traceBuf = s.plat.traceBuf ∧
      (v.getLsbD 0 = true → s.plat.trctl.getLsbD 0 = false → t.plat.dropped = 0) ∧ t.ctxs = s.ctxs ∧ t.mem = s.mem) ∧
    (((s.ctx k).unit = none ∨ (s.plat.trctl.extractLsb' 22 5).toNat = 0) → exec (.traceSample k) s = .next s) ∧
    (∀ u, (s.ctx k).unit = some u → (s.plat.trctl.extractLsb' 22 5).toNat ≠ 0 → s.plat.tracing 1 u.job = true → s.plat.drops = 0 →
      s.plat.traceRoom 64 = true → k < 512 → (s.order k).length ≤ 16 → ∃ t r, exec (.traceSample k) s = .next t ∧ t.plat.traceBuf = s.plat.traceBuf ++ [r] ∧ r.length = 64 ∧
        leNat (r.take 8) / 2 ^ 56 = 1 ∧ leNat ((r.drop 16).take 8) = (s.ctx k).pc.toNat ∧ t.ctxs = s.ctxs ∧ t.mem = s.mem) ∧
    (∀ u, (s.ctx k).unit = some u → (s.plat.trctl.extractLsb' 22 5).toNat ≠ 0 → s.traceHolds 1 u.job 64 = true →
      ∃ t, exec (.traceSample k) s = .next t ∧ (t.ctx k).sampleDue = true ∧ t.plat = s.plat ∧ t.mem = s.mem) ∧
    (s.plat.drops ≠ 0 → s.plat.traceRoom 32 = true → s.plat.trctl.getLsbD 21 = true → ∃ t r, exec .traceDropRecord s = .next t ∧
      t.plat.drops = 0 ∧ t.plat.traceBuf = s.plat.traceBuf ++ [r] ∧ r.length = 32 ∧ leNat (r.take 8) / 2 ^ 56 = 5) ∧
    ((s.plat.drops = 0 ∨ s.plat.traceRoom 32 = false) → exec .traceDropRecord s = .next s) ∧
    (k < 8 → ∀ up, ∃ t, exec (.traceLaneTraining k up) s = .next t ∧ t.plat.lanesUp.getLsbD k = up ∧
      ∀ n, n < 8 → n ≠ k → t.plat.lanesUp.getLsbD n = s.plat.lanesUp.getLsbD n) ∧
    (s.plat.mode ≠ 2 → ∃ t, exec (.stallClear v) s = .next t ∧ t.plat.stallctl = v &&& 0xFFFF800000000003 ∧
      (v.getLsbD 2 = true → t.plat.stalls = [] ∧ t.plat.stallOvf = []) ∧ (v.getLsbD 2 = false → t.plat.stalls = s.plat.stalls))

/-- R348 to R350, R392, R450, R457: writes of the fence registers, pre-emption that is forced after four distances, requests
for a committed point state, breakpoints, the commands of a debug session, and the `ebreak` of a context that one holds. The model's
choices: a match is reported once, a session that closes leaves its contexts stopped and one that opens replaces it (log 79), and
the context stops after the `ebreak` (log 13). -/
def FencesAndSessions : Prop :=
  ∀ (s : State) (h k m : Nat) (v : Word), h < 512 →
    (s.plat.mode = 2 → ∀ i ∈ [Instr.fenceDieWrite v, .fenceCoreWrite k v, .fenceClusterWrite k v, .debugSessionClose,
      .debugSessionOpen v, .debugDump v, .debugResume v, .temperWrite v, .stallClear v], exec i s = .next s) ∧
    (s.plat.mode ≠ 2 →
      (∃ t, exec (.fenceDieWrite v) s = .next t ∧ t.plat.fenceDie = v.extractLsb' 0 4 ∧ t.mem = s.mem ∧
        (∀ u, (s.ctx h).unit = some u → s.coreFenced (coreOf h) = false → v.getLsbD (coreOf h / 32) = true → s.spliceMate h = none →
          (h, s.ctx h) ∈ s.ctxs → (t.ctx h).preempt = true)) ∧
      (k < 2 → ∃ t, exec (.fenceCoreWrite k v) s = .next t ∧ t.mem = s.mem ∧
        (∀ b, b < 128 → t.plat.fenceCore.getLsbD b = if b / 64 = k then v.getLsbD (b % 64) else s.plat.fenceCore.getLsbD b)) ∧
      (k < 8 → ∃ t, exec (.fenceClusterWrite k v) s = .next t ∧ t.mem = s.mem ∧
        (∀ b, b < 512 → t.plat.fenceCl.getLsbD b = if b / 64 = k then v.getLsbD (b % 64) else s.plat.fenceCl.getLsbD b)) ∧
      (∃ t, exec .debugSessionClose s = .next t ∧ t = { s with plat := { s.plat with debug := none } }) ∧
      (v ≠ 0 → ∀ x, s.token v.toNat = some x → exec (.debugSessionOpen v) s = .next { s with plat := { s.plat with debug := some x } }) ∧
      (v ≠ 0 → s.token v.toNat = none → exec (.debugSessionOpen v) s = .next s.quench1) ∧
      (v.extractLsb' 10 2 = 2#2 → s.debugOpen (v.extractLsb' 0 9).toNat = true → ∃ t, exec (.debugResume v) s = .next t ∧
        (t.ctx (v.extractLsb' 0 9).toNat).dbgStop = false ∧ (t.ctx (v.extractLsb' 0 9).toNat).pc = (s.ctx (v.extractLsb' 0 9).toNat).pc ∧
        t.mem = s.mem) ∧
      (v.extractLsb' 10 2 = 1#2 → s.debugOpen (v.extractLsb' 0 9).toNat = true → ∃ t, exec (.debugDump v) s = .next t ∧
        t.who = s.who ∧ ∀ g, (t.ctx g).pc = (s.ctx g).pc ∧ (t.ctx g).x = (s.ctx g).x ∧ (t.ctx g).dbgStop = (s.ctx g).dbgStop)) ∧
    (∀ j e, s.plat.debug = some (j, e) → (e.toNat ≤ s.time.toNat → exec .debugSessionExpiry s =
        .next { s with plat := { s.plat with debug := none } }) ∧ (s.time.toNat < e.toNat → exec .debugSessionExpiry s = .next s)) ∧
    (((s.ctx h).unit = none ∨ (s.ctx h).preempt = false ∨ s.waited h < 4 * s.distance h * 64) → exec (.forcedPreemption h) s = .next s) ∧
    (((s.ctx h).unit.isSome = true ∧ (s.ctx h).preempt = true ∧ s.forcible h = true ∧ 4 * s.distance h * 64 ≤ s.waited h ∧ (s.ctx h).ckpt = false ∧
        s.spliceMate h = none ∧ (s.ctx h).fetching = none ∧ ∀ x ∈ (s.ctx h).loop.strips, x.fetching = none) →
      ∃ t, exec (.forcedPreemption h) s = .next t ∧ (t.ctx h).unit = none) ∧
    (∀ key l x, s.launchOf h = some (key, l) → s.slot? key = some x → l.ppd ≠ 0 → w48Ckpt x.w48 ≠ 0 → (s.ctx h).preempt = false →
      s.spliceMate h = none → ∃ t, exec (.checkpointPreempt h) s = .next t ∧ t = s.setCtx h
        { s.ctx h with preempt := true, preemptAt := s.tick, ckpt := true }) ∧
    (s.launchOf h = none → exec (.checkpointPreempt h) s = .next s) ∧
    (s.bpHits h m = [] → exec (.breakpointMatch h m) s = .next s) ∧
    (∀ x l, s.bpHits h m = x :: l → s.traceHolds 2 (s.bpJob m) 64 = false → ∃ t, exec (.breakpointMatch h m) s = .next t ∧
      (x.1, m, x.2) ∈ (t.ctx h).matched ∧ t.mem = s.mem ∧ (t.ctx h).pc = (s.ctx h).pc ∧
      (s.bpAction m = 2 → s.debugHolds h = true → (t.ctx h).dbgStop = true) ∧
      (s.bpAction m ≠ 2 → (t.ctx h).dbgStop = (s.ctx h).dbgStop)) ∧
    (s.who = .ct h → s.debugHolds h = true → ∃ t, exec .ebreak s = .next t ∧ (t.ctx h).dbgStop = true ∧
      (t.ctx h).pc = (s.ctx h).pc + 4 ∧ (t.ctx h).mode = (s.ctx h).mode ∧ (t.ctx h).x = (s.ctx h).x)

end Sys2Proof.Claims

open Sys2Proof Sys2Proof.Machine Sys2Proof.Claims

/-- The worked decode of R126, and one word of each other format written out from the spec's encoding: a 32-bit instruction (R125), a
T48 instruction (R132), the worked B64 word of R140, and a word of a queue program (R398). -/
def Obligations.DecodeWords : Prop :=
  decode [0x8C, 0x44, 0x13, 0x00] = .ok (.vfmaK 3#5 9#5, [0x13, 0x00]) ∧
  decode [0x13, 0x00, 0x00, 0x00, 0x1F] = .ok (.addi 0#5 0#5 0#12, [0x1F]) ∧
  decode [0x1F, 0x21, 0x14, 0x73, 0xB2, 0x02] =
    .ok (.vfmul { aux := 0x02#8, rep := 2#2, fb := true, fa := true, gm := 1#3, b := 7#5, a := 6#5, d := 5#5 }, []) ∧
  decodeBlock 0x0000000A0061440D#64 =
    .ok (.b64Fadd { imm := 0#24, fmt := 0#4, pneg := true, pred := 2#3, c := 0#6, b := 6#6, a := 5#6, d := 4#6 }) ∧
  decodeQueue 0x01900048#32 = .ok (.crillLi 9#4 0x48#16)

/-- Decoding what an encoding of a well-formed instruction holds gives the instruction back, whatever follows it: the CT and
MS instructions, the instructions of a block, and the words of a queue program. -/
def Obligations.DecodeOfEncode : Prop := DecodeEncode ∧ DecodeEncodeBlock ∧ DecodeEncodeQueue

/-- A decoded instruction is well formed: the decoder admits no reserved field. -/
def Obligations.DecodedWellFormed : Prop :=
  (∀ (bs rest : List Byte) (i : Instr), decode bs = .ok (i, rest) → i.wellFormed = true) ∧
  (∀ (w : BitVec 64) (i : Instr), decodeBlock w = .ok i → i.wellFormed = true)

/-- A step runs the instruction that the fetched bytes decode to: on a CT, on the MS, on a strip's cluster, on a
micro-thread and in a queue program. -/
def Obligations.StepRunsDecoded : Prop := StepRunsInstruction ∧ StepRunsOthers

/-- R125: bytes that do not decode raise illegal-instruction, with the instruction's bits as the trap value: the
first 32 of a prefix that is 64 bits or longer. R126: bytes that cannot be fetched raise cause 12 or 1, with the
address of the first of them, and nothing executes. So it is for each kind of agent that executes instructions: both
rows are these entries, and they complete for every one. -/
def Obligations.UndecodableTraps : Prop :=
  ∀ (s : State), executes s →
    (∀ bits : Word, ∃ t, exec (.illegalInstruction bits) s = .next t ∧ stopsAt s t 2 bits) ∧
    (∀ (cause : Nat) (a : Word), ∃ t, exec (.instructionFetchFault cause a) s = .next t ∧ stopsAt s t cause a)

/-- R176: `ecall` raises cause 8 in user mode and 9 in supervisor mode; `ebreak` raises cause 3, unless a debug
session holds the context. -/
def Obligations.CallsAndBreaks : Prop :=
  ∀ (s : State) (h : Nat), s.who = .ct h →
    (∃ t, exec .ecall s = .next t ∧ traps s t h (if (s.ctx h).mode = .user then 8 else 9) 0) ∧
    (s.debugHolds h = false → ∃ t, exec .ebreak s = .next t ∧ traps s t h 3 0) ∧
    (s.debugHolds h = true → ∃ t, exec .ebreak s = .next t ∧ (t.ctx h).scause = (s.ctx h).scause ∧ (t.ctx h).mode = (s.ctx h).mode)

/-- R178: what `sret` restores in supervisor mode. Inside an active loop body the loop resumes with its count, base, body and
remaining iterations; the elements that `mf` marks stay marked, so the instruction at sepc re-executes on them. (A halted
`.ind` loop of which nothing remains ends instead.) -/
def Obligations.SretReturns : Prop :=
  ∀ (s : State) (h : Nat), s.who = .ct h → (s.ctx h).mode = .supervisor →
    ∃ t, exec .sret s = .next t ∧ (t.ctx h).mode = (s.ctx h).spp ∧
      (t.ctx h).sieBit = (s.ctx h).spieBit ∧ (t.ctx h).spp = .user ∧ (t.ctx h).ldst = (s.ctx h).sldst ∧
      (vtyValid (s.ctx h).svty = true → (t.ctx h).vty = (s.ctx h).svty) ∧
      (vtyValid (s.ctx h).svty = false → (t.ctx h).vty.getLsbD 63 = true) ∧
      (t.ctx h).x = (s.ctx h).x ∧ t.mem = s.mem ∧ t.mbit = s.mbit ∧ t.mpois = s.mpois ∧ t.vreg = s.vreg ∧
      ((s.ctx h).loop.mode ≠ .ind ∨ (s.ctx h).loop.rem ≠ 0 → (t.ctx h).pc = (s.ctx h).sepc ∧
      (t.ctx h).vl = (if vtyValid (s.ctx h).svty then (s.ctx h).vl else 0) ∧
      (t.ctx h).loop.mode = (s.ctx h).loop.mode ∧ (t.ctx h).loop.count = (s.ctx h).loop.count ∧ (t.ctx h).loop.base = (s.ctx h).loop.base ∧
      (t.ctx h).loop.rem = (s.ctx h).loop.rem ∧ (t.ctx h).loop.body = (s.ctx h).loop.body)

/-- R173, R142, R182, R364: the privileged instructions. In user mode they and the SYS group raise illegal-instruction; in
supervisor mode `wfi` and `sfence.vma` have their effects. The model's choice (log 50): `sfence.vma` of an address drops the
level-2 pointers to it too. -/
def Obligations.PrivilegedInstructions : Prop := PrivilegedInUser ∧ WaitAndShootdown

/-- R175, R177, R180, R181: supervisor interrupts at instruction boundaries, and the entry and the end of a user-level one. -/
def Obligations.InterruptsTaken : Prop := SupervisorInterrupts ∧ UserInterrupts

/-- R149: every RV64I computation completes, for the CT, the MS and a strip, with the value the base ISA gives, and
changes nothing else. -/
def Obligations.ScalarResults : Prop :=
  ∀ (s : State) (i : Instr) (rd : Reg) (v : Word), movesScalar s → aluResult s i = some (rd, v) →
    ∃ t, exec i s = .next t ∧ wrote s t rd v ∧ next s t 4 ∧ onlyScalars s t 4

/-- R149: the M extension completes on the CT and in a strip; division by zero gives all ones and the dividend. -/
def Obligations.MultiplyDivide : Prop :=
  ∀ (s : State) (i : Instr) (rd : Reg) (v : Word), movesCt s → mulResult s i = some (rd, v) →
    ∃ t, exec i s = .next t ∧ wrote s t rd v ∧ next s t 4 ∧ onlyScalars s t 4

/-- Jumps write the return address and go to their target; branches go there exactly when their comparison holds. -/
def Obligations.ControlTransfers : Prop :=
  ∀ (s : State) (i : Instr), movesPc s →
    (∀ rd target, jumpResult s i = some (rd, target) →
      ∃ t, exec i s = .next t ∧ t.pc = target ∧ wrote s t rd (s.pc + 4) ∧ onlyScalars s t 4) ∧
    (∀ taken imm, branchResult s i = some (taken, imm) →
      ∃ t, exec i s = .next t ∧ (∀ r, t.rx r = s.rx r) ∧ onlyScalars s t 4 ∧
        (taken → t.pc = s.pc + ((imm ++ 0#1).signExtend 64)) ∧ (¬ taken → t.pc = s.pc + 4))

/-- R149, R150: a load completes with the value read, sign- or zero-extended; a read that faults traps with its cause
and address. The value of an aligned load outside the apertures is what the mover sees at the translated address. -/
def Obligations.LoadResults : Prop :=
  ∀ (s : State) (i : Instr) (rd a : Reg) (imm : BitVec 12) (n : Nat) (sg : Bool), movesScalar s →
    loadShape i = some (rd, a, imm, n, sg) →
    (∀ v s1, s.scalarRead (s.rx a + imm.signExtend 64) n = (.ok v, s1) →
      ∃ t, exec i s = .next t ∧ wrote s t rd (extended n sg v) ∧ next s t 4 ∧ onlyScalars s1 t 4) ∧
    (∀ c tv s1, s.scalarRead (s.rx a + imm.signExtend 64) n = (.error (c, tv), s1) → exec i s = .next (s1.trap c tv)) ∧
    (∀ x s1, plainVa (s.rx a + imm.signExtend 64) → (s.rx a + imm.signExtend 64).toNat % n = 0 →
      s.translate (s.rx a + imm.signExtend 64) .load = (.ok x, s1) → x.pois = false → s1.memPoisoned x.pa n = false →
      ∃ t, exec i s = .next t ∧ wrote s t rd (extended n sg (leNat (seen s1 x.pa n))) ∧ next s t 4 ∧
        (s1.plat.ckRegs = [] → t.mem = s1.mem))

/-- R150, R71: a store enters the class queue of its address, behind the mover's earlier stores, and completes; memory
changes when the queue is drained. A misaligned one enters byte by byte, each at the address its own translation gives. -/
def Obligations.StoreResults : Prop :=
  ∀ (s : State) (i : Instr) (a b : Reg) (imm : BitVec 12) (n : Nat), movesScalar s → storeShape i = some (a, b, imm, n) →
    (∀ x s1, plainVa (s.rx a + imm.signExtend 64) → (s.rx a + imm.signExtend 64).toNat % n = 0 →
      s.translate (s.rx a + imm.signExtend 64) .store = (.ok x, s1) →
      ∃ t, exec i s = .next t ∧ next s t 4 ∧ (∀ r, t.rx r = s.rx r) ∧ t.mem = s1.mem ∧
        t.queue = s.queue ++ [{ cls := x.pa / 512 % 4, pa := x.pa, bytes := fullBytes (natLe n (s.rx b).toNat) }]) ∧
    (∀ l s1, plainVa (s.rx a + imm.signExtend 64) → (s.rx a + imm.signExtend 64).toNat % n ≠ 0 →
      byteAddrs (s.rx a + imm.signExtend 64) 0 n s = some (l, s1) →
      ∃ t, exec i s = .next t ∧ next s t 4 ∧ (∀ r, t.rx r = s.rx r) ∧ t.mem = s1.mem ∧
        t.queue = s.queue ++ (l.zip (natLe n (s.rx b).toNat)).map fun (pa, x) => { cls := pa / 512 % 4, pa := pa, bytes := [(x, 0xFF#8)] }) ∧
    (∀ s1 s2, s.scalarWrite (s.rx a + imm.signExtend 64) n (s.rx b).toNat = (.ok s1, s2) →
      ∃ t, exec i s = .next t ∧ next s t 4 ∧ (∀ r, t.rx r = s.rx r) ∧ t.mem = s1.mem ∧ t.queue = s1.queue) ∧
    (∀ c tv s2, s.scalarWrite (s.rx a + imm.signExtend 64) n (s.rx b).toNat = (.error (c, tv), s2) →
      exec i s = .next (s2.trap c tv))

/-- R69 to R71: a load sees the context's own queued store, and a class queue performs its oldest store at home. -/
def Obligations.StoreQueues : Prop := LoadForwardsStore ∧ QueueDrains

/-- R150: the atomics' results, and their alignment. -/
def Obligations.Atomics : Prop := AmoResults ∧ MisalignedAtomics

/-- R151: LR reads and reserves the 64 B sector; SC writes exactly when the reservation still names its sector, answers
0 or 1, and ends the reservation either way. -/
def Obligations.LoadReserved : Prop :=
  ∀ (s s1 : State) (h n : Nat) (i : Instr) (aq rl : Bool) (rd a b : Reg) (x : Xl), s.who = .ct h → Memory.wf s1.mem →
    s1.plat.ckRegs = [] → onDevice x.pa = true →
    (lrShape i = some (aq, rl, rd, a, n) → atomicAt s a n rl .load x s1 → x.pois = false → s1.memPoisoned x.pa n = false →
      ∃ t, exec i s = .next t ∧ (t.ctx h).resv = some (x.pa / 64) ∧ next s t 4 ∧ t.mem = s1.mem ∧
        wrote s t rd ((BitVec.ofNat (8 * n) (leNat (seen s1 x.pa n))).signExtend 64)) ∧
    (scShape i = some (aq, rl, rd, a, b, n) → atomicAt s a n rl .store x s1 →
      ∃ t, exec i s = .next t ∧ (t.ctx h).resv = none ∧ next s t 4 ∧
        ((s1.ctx h).resv = some (x.pa / 64) → wrote s t rd 0 ∧ wroteMem s1 t x.pa (natLe n (s.rx b).toNat)) ∧
        ((s1.ctx h).resv ≠ some (x.pa / 64) → wrote s t rd 1 ∧ t.mem = s1.mem))

/-- The CSR instructions: what they read and write, and the fields of the CSRs. -/
def Obligations.CsrInstructions : Prop := CsrAccess ∧ CsrFields

/-- The fences, and the flag instructions. -/
def Obligations.FencesComplete : Prop := Fences ∧ FencesAndFlags

/-- R197, R198, R146: the integer operations on SEW-bit lanes; R132: their K16 forms on vLAST, which on a CT is the
register that `ldst` names (R131). The model's choice (log 107): where the destination is a repeated source the elements are taken in
turn. -/
def Obligations.VectorIntegers : Prop :=
  ∀ (s : State) (i : Instr),
    (∀ (o : T48) (shift : Bool) (f : (w : Nat) → BitVec w → BitVec w → BitVec w),
      (∀ w, intOp w i = some (o, shift, f w)) → vecPlain s (o.d.toNat :: regsAB o) →
      exec i s = .next (vecTurns s o.gm.toNat o (ownSource o) fun t e =>
        (inLane s f (t.elem s.view o.a.toNat e).1 (operandIn s o shift t e).1,
         (operandIn s o shift t e).2 || (t.elem s.view o.a.toNat e).2 || tainted s o.gm.toNat e))) ∧
    (∀ h, s.who = .ct h → s.vlast = (s.ctx h).ldst) ∧
    (∀ (regs : List Nat) (f : (w : Nat) → BitVec w → BitVec w → BitVec w), (∀ w, intLast w i = some (regs, f w)) →
      vecPlain s (s.vlast.toNat :: regs) →
      exec i s = .next (vecDone s 0 s.vlast.toNat 2 false fun e =>
        (inLane s f (s.elem s.view s.vlast.toNat e).1 (s.elem s.view (regs.headD 0) e).1,
         (s.elem s.view s.vlast.toNat e).2 || (!regs.isEmpty && (s.elem s.view (regs.headD 0) e).2))))

/-- R189 to R195, R43, R47: the floating-point operations, each of one exact result rounded once; `vfcvt` to BF16
precision is illegal at SEW 16; R132: their K16 forms. The model's choices: `vfexp2` and `vflog2` round an approximation (log 30), and
where the destination is a repeated source the elements are taken in turn (log 107). -/
def Obligations.VectorFloats : Prop :=
  ∀ (s : State) (i : Instr),
    (∀ o n f, floatOp s i = some (o, n, f) → ¬ (i = .vfcvt o ∧ (o.aux.extractLsb' 3 3).toNat = 4 ∧ s.view.sb = 2) →
      vecPlain s (o.d.toNat :: (if n = 1 then [o.a.toNat] else regsAB o)) →
      exec i s = .next (vecTurns s o.gm.toNat o (n != 1 && ownSource o) fun t e =>
        (f (roundMode s o.rm) (if n = 3 then (t.elem s.view o.d.toNat e).1 else 0) (t.elem s.view o.a.toNat e).1
          (if n = 1 then 0 else (operandIn s o false t e).1),
         (n == 3 && (t.elem s.view o.d.toNat e).2) || (n != 1 && (operandIn s o false t e).2) || (t.elem s.view o.a.toNat e).2 ||
           tainted s o.gm.toNat e))) ∧
    (∀ regs f, floatLast s i = some (regs, f) → vecPlain s (s.vlast.toNat :: regs) →
      exec i s = .next (vecDone s 0 s.vlast.toNat 2 false fun e =>
        (f (roundMode s 0#3) (s.elem s.view s.vlast.toNat e).1 (s.elem s.view (regs.getD 0 0) e).1
          (if regs.length = 2 then (s.elem s.view (regs.getD 1 0) e).1 else 0),
         (s.elem s.view s.vlast.toNat e).2 || regs.any fun r => (s.elem s.view r e).2))) ∧
    (∀ (h : Nat) (o : T48), s.who = .ct h → (o.aux.extractLsb' 3 3).toNat = 4 → s.view.sb = 2 →
      ∃ t bits, exec (.vfcvt o) s = .next t ∧ traps s t h 2 bits)

/-- The compares that write masks, and the mask instructions. -/
def Obligations.VectorMasks : Prop := VectorCompares ∧ MaskOperations

/-- The moves between vector and scalar registers, and the merges and copies. -/
def Obligations.VectorCopies : Prop := VectorMoves ∧ MergeAndMoves

/-- R205: `vcompress` packs the selected elements of each permute domain to its lowest local indices; on one die `vl`
becomes their number and TZ zeroes the rest, on several the rest of each domain is zeroed and `vl` stays. R208:
`vxchg` gives each cluster the register chunks of the cluster its map names; between dies the exchange is in flight for a
time, and raises cause 34 where a part has failed in between, as it does for a map field that names no cluster. -/
def Obligations.PackAndExchange : Prop :=
  ∀ (s : State) (o : T48), vecPlain s [o.d.toNat, o.a.toNat] → o.a ≠ o.d →
    (∀ sel packed rest, (∀ e, e < s.view.vl → o.gm ≠ 0#3 → (s.maskBit s.view o.gm.toNat e).2 = false) →
      sel = (List.range s.view.vl).filter (fun e => o.gm = 0#3 || (s.maskBit s.view o.gm.toNat e).1) →
      packed = ((s.view.order.map (· / 128)).eraseDups.flatMap fun d =>
        ((List.range s.view.vlmax).filter fun e => s.view.dieOf e = d).zip
          ((sel.filter fun e => s.view.dieOf e = d).map fun e => s.elem s.view o.a.toNat e)) →
      rest = ((List.range s.view.vlmax).filter fun e => !packed.any (·.1 = e)) →
      ∃ t, exec (.vcompress o) s = .next (t.retire 6) ∧
        (s.view.oneDie = true → t = (elemsWritten s o.d.toNat true
          (packed ++ (if s.view.vty.getLsbD 4 then rest else []).map fun e => (e, 0, false))).setVl sel.length) ∧
        (s.view.oneDie = false → t = elemsWritten s o.d.toNat true (packed ++ rest.map fun e => (e, 0, false)))) ∧
    (∀ h k, s.who = .ct h → (∀ i, i < s.view.n → ((s.rx o.b).extractLsb' (4 * i) 4).toNat < s.view.n) →
      (s.ctx h).exchg = some (some k) → ∃ t, exec (.vxchg o) s = .next t ∧ traps s t h 34 (BitVec.ofNat 64 k)) ∧
    (∀ h i, s.who = .ct h → (List.range s.view.n).find? (fun i => decide (s.view.n ≤ ((s.rx o.b).extractLsb' (4 * i) 4).toNat)) = some i →
      ∃ t, exec (.vxchg o) s = .next t ∧ traps s t h 34 (BitVec.ofNat 64 i)) ∧
    (∀ i, i < s.view.n → (∀ i, i < s.view.n → ((s.rx o.b).extractLsb' (4 * i) 4).toNat < s.view.n) →
      s.view.order.getD ((s.rx o.b).extractLsb' (4 * i) 4).toNat 0 / 128 ≠ s.view.order.getD i 0 / 128 →
      (s.ctx s.hart).exchg = none →
      exec (.vxchg o) s = .next (s.modCtx s.hart fun c => { c with exchg := some none })) ∧
    ((s.ctx s.hart).exchg = some none ∨ (s.ctx s.hart).exchg = none ∧ s.view.oneDie = true → s.view.order.Nodup → o.d.toNat + s.view.lmul ≤ 32 → o.a.toNat + s.view.lmul ≤ 32 →
      (∀ i, i < s.view.n → ((s.rx o.b).extractLsb' (4 * i) 4).toNat < s.view.n) →
      ∃ t, exec (.vxchg o) s = .next t ∧ next s t 6 ∧ t.mem = s.mem ∧ (t.ctx s.hart).ldst = o.d ∧ (∀ r, t.rx r = s.rx r) ∧
        (∀ i r j, i < s.view.n → r < s.view.lmul → j < 128 →
          let q := s.view.order.getD i 0
          let q' := s.view.order.getD ((s.rx o.b).extractLsb' (4 * i) 4).toNat 0
          sparseGet 0#32 t.vreg (chunkKey s.hart q (o.d.toNat + r) j) = sparseGet 0#32 s.vreg (chunkKey s.hart q' (o.a.toNat + r) j) ∧
          sparseGet false t.vpois (chunkKey s.hart q (o.d.toNat + r) j) = sparseGet false s.vpois (chunkKey s.hart q' (o.a.toNat + r) j)) ∧
        (∀ q r j, j < 128 → r < 32 → (r < o.d.toNat ∨ o.d.toNat + s.view.lmul ≤ r) →
          sparseGet 0#32 t.vreg (chunkKey s.hart q r j) = sparseGet 0#32 s.vreg (chunkKey s.hart q r j)))

/-- R209, R61, R62: the reductions: element 0 from the initial value and the active elements, ascending or as the
tree; with `vl` 0 no element is written. -/
def Obligations.VectorReductions : Prop :=
  ∀ (s : State) (i : Instr) (o : T48), vecPlain s (o.d.toNat :: regsAB o) →
    (∀ f, reducePair s i = some (o, f) →
      (0 < s.view.vl → exec i s = .next (reduced s o ((s.actives s.view o.gm.toNat).foldl
        (fun a e => f a (s.elem s.view o.a.toNat e).1) (((startValue s o).1.setWidth (8 * s.view.sb)).setWidth 32)) (reducePois s o))) ∧
      (s.view.vl = 0 → exec i s = .next ((s.clearMf s.view).retire 6))) ∧
    (∀ f, reduceFloat s i = some (o, f) →
      (0 < s.view.vl → exec i s = .next (reduced s o (f (roundMode s o.rm) (startValue s o).1 (s.actives s.view o.gm.toNat)) (reducePois s o))) ∧
      (s.view.vl = 0 → exec i s = .next ((s.clearMf s.view).retire 6)))

/-- R13: an element written reads back, and every other element of every register group reads as before. -/
def Obligations.ElementWrites : Prop :=
  ∀ (s : State) (v : View) (reg : Nat) (l : List (Nat × BitVec 32 × Bool)), v.order.Nodup → v.order ≠ [] →
    v.sb = 2 ∨ v.sb = 4 → v.lmul ∈ [1, 2, 4, 8] → reg + v.lmul ≤ 32 → (l.map (·.1)).Nodup →
    (∀ p ∈ l, p.1 < v.order.length * 512 * v.lmul / v.sb) →
    (∀ e x p, (e, x, p) ∈ l → ((s.putElems v reg l).elem v reg e).1 = (if v.sb = 2 then x &&& 0xFFFF else x) ∧
      (v.sb = 4 → ((s.putElems v reg l).elem v reg e).2 = p)) ∧
    (∀ reg' e', reg' + v.lmul ≤ 32 → e' < v.order.length * 512 * v.lmul / v.sb → (reg' = reg → e' ∉ l.map (·.1)) →
      (reg' ≠ reg → reg' + v.lmul ≤ reg ∨ reg + v.lmul ≤ reg') →
      ((s.putElems v reg l).elem v reg' e').1 = (s.elem v reg' e').1) ∧
    (s.putElems v reg l).mem = s.mem ∧ (s.putElems v reg l).ctxs = s.ctxs

/-- The instructions that set the vector length and type, and those that read indices and lanes. -/
def Obligations.VectorSettings : Prop := VectorConfiguration ∧ IndicesAndLanes

/-- The loop instructions: the start of a loop, and the end of its strips. -/
def Obligations.VectorLoops : Prop := LoopsBegin ∧ StripsEnd

/-- The start of micro-threads, and their control instructions. -/
def Obligations.MicroThreads : Prop := ThreadsStart ∧ ThreadControl

/-- R251 to R255: what a B64 arithmetic, compare or predicate instruction computes, writes and advances where it acts; where its
predicate does not hold it only advances, and where it names a stream-bound register it faults. -/
def Obligations.ThreadResults : Prop :=
  ∀ (s : State) (h i : Nat) (ins : Instr), s.who = .mt h i →
    (∀ o f, threadInt ins = some (o, f) → let t := threadAt s h i o
      (governedBy s t o (regsDAB o) → exec ins s = .next (t.done (t.setE s o.d (f (t.e s o.a).1 (srcB s t o).1)
        ((t.e s o.a).2 || (srcB s t o).2 || t.pp))))) ∧
    (∀ o regs, threadRegs ((threadAt s h i o).view s) (s.thread h i).sat ins = some (o, regs) → let t := threadAt s h i o
      (t.pp = false → (t.p s o.pred.toNat).1 = o.pneg → exec ins s = .next (t.done s)) ∧
      ((t.pp = true ∨ (t.p s o.pred.toNat).1 ≠ o.pneg) → regs.any (t.bound s) = true → exec ins s = .next (t.fault s 29 0))) ∧
    (∀ o imm f, threadCompare ((threadAt s h i o).view s) ins = some (o, imm, f) → let t := threadAt s h i o
      let b := if imm then srcB s t o else t.e s o.b
      governedBy s t o (o.a :: (if imm && o.c = 1#6 then [] else [o.b])) →
      exec ins s = .next (t.done (t.setP s o.d (f (t.e s o.a).1 b.1) ((t.e s o.a).2 || b.2 || t.pp)))) ∧
    (∀ o n f, threadFloat ((threadAt s h i o).view s) (s.thread h i).sat ins = some (o, n, f) → let t := threadAt s h i o
      let rm := if o.fmt.extractLsb' 0 3 = 0#3 then (s.thread h i).rm else o.fmt.extractLsb' 0 3
      governedBy s t o ([o.d, o.a, o.b, o.c].take (n + 1)) →
      exec ins s = .next (t.done (t.setE s o.d (f rm (t.e s o.a).1 (if 2 ≤ n then (t.e s o.b).1 else 0) (if n = 3 then (t.e s o.c).1 else 0))
        ((t.e s o.a).2 || (2 ≤ n && (t.e s o.b).2) || (n == 3 && (t.e s o.c).2) || t.pp)))) ∧
    (∀ o, let t := threadAt s h i o
      (governedBy s t o [o.d] → exec (.b64Li o) s = .next (t.done (t.setE s o.d (o.imm.signExtend 32) t.pp))) ∧
      (governedBy s t o [] →
        exec (.b64Pand o) s = .next (t.done (t.setP s o.d ((t.pn s o.a).1 && (t.pn s o.b).1) ((t.pn s o.a).2 || (t.pn s o.b).2 || t.pp))) ∧
        exec (.b64Por o) s = .next (t.done (t.setP s o.d ((t.pn s o.a).1 || (t.pn s o.b).1) ((t.pn s o.a).2 || (t.pn s o.b).2 || t.pp))) ∧
        exec (.b64Pnot o) s = .next (t.done (t.setP s o.d (!(t.pn s o.a).1) ((t.pn s o.a).2 || t.pp))) ∧
        exec (.b64Nop o) s = .next (t.done s)) ∧
      (governedBy s t o [o.d, o.a, o.b] → let x := if (t.pn s o.c).1 then t.e s o.a else t.e s o.b
        exec (.b64Sel o) s = .next (t.done (t.setE s o.d x.1 (x.2 || (t.pn s o.c).2 || t.pp)))))

/-- R256 to R259, R81: the loads, stores, atomics, links and terminators of micro-threads. The model's choice (log 101): an access
of a vector-fetched micro-thread waits while stores of its class that it made as a party of its own are queued. -/
def Obligations.ThreadMemory : Prop :=
  ∀ (s : State) (h i : Nat) (o : B64), s.who = .mt h i → let t := threadAt s h i o
    (∀ n sg, (n, sg) = widthOf o.fmt → governedBy s t o [o.d, o.a] →
      ((t.e s o.a).2 = true → exec (.b64Ld o) s = .next (t.fault s 26 0)) ∧
      ((t.e s o.a).2 = false → (offsetOf s t o).toNat % n ≠ 0 →
        exec (.b64Ld o) s = .next (t.fault s 4 (offsetOf s t o)) ∧
        ((t.e s o.d).2 = false → exec (.b64St o) s = .next (t.fault s 6 (offsetOf s t o)))) ∧
      (∀ pl s1 bs p s2, (t.e s o.a).2 = false → (offsetOf s t o).toNat % n = 0 →
        s.place (threadVa s t o) n t.q .load = (.ok pl, s1) → t.behindOwn s1 pl = false → s1.readPlace pl n false = ((bs, p), s2) →
        exec (.b64Ld o) s = .next (t.done (t.setE s2 o.d (if sg then (BitVec.ofNat (8 * n) (leNat bs)).signExtend 32
          else (BitVec.ofNat (8 * n) (leNat bs)).setWidth 32) (p || t.pp)))) ∧
      (∀ pl s1, (t.e s o.a).2 = false → (t.e s o.d).2 = false → (offsetOf s t o).toNat % n = 0 →
        s.place (threadVa s t o) n t.q .store = (.ok pl, s1) → t.behindOwn s1 pl = false →
        exec (.b64St o) s = .next (t.done (s1.writePlace pl (fullBytes (natLe n (t.e s o.d).1.toNat))))) ∧
      (∀ pl s1, (t.e s o.a).2 = false → (offsetOf s t o).toNat % n = 0 → t.behindOwn s1 pl = true →
        (s.place (threadVa s t o) n t.q .load = (.ok pl, s1) → exec (.b64Ld o) s = .next s1) ∧
        (s.place (threadVa s t o) n t.q .store = (.ok pl, s1) → (t.e s o.d).2 = false → exec (.b64St o) s = .next s1))) ∧
    (∀ x pm s1 bs s2, governedBy s t o [o.d, o.a, o.b] → (t.e s o.a).2 = false → (t.e s o.b).2 = false →
      (offsetOf s t o).toNat % 4 = 0 → s.place (threadVa s t o) 4 t.q .amo = (.ok (.mem x pm), s1) → t.behindOwn s1 (.mem x pm) = false → s1.classEmpty x.pa = true →
      s1.readUpdate x 4 = ((bs, false), s2) → let old := BitVec.ofNat 32 (leNat bs)
      let by' : Writer := if (s.thread h i).own then .mtOf (coreOf h) else .hart h
      exec (.b64Amoadd o) s = .next (t.done (t.setE (s2.homeWrite by' x.pa
        (fullBytes (natLe 4 (old + (t.e s o.b).1).toNat))) o.d old t.pp)) ∧
      exec (.b64Famoadd o) s = .next (t.done (t.setE (s2.homeWrite by' x.pa
        (fullBytes (natLe 4 (BitVec.ofNat 32 (atomicAdd fp32 old.toNat (t.e s o.b).1.toNat)).toNat))) o.d old t.pp))) ∧
    (governedBy s t o [o.a] → 2 ≤ (s.linkFrom h i).length → exec (.b64Lsend o) s = .next s) ∧
    (governedBy s t o [o.a] → (s.linkFrom h i).length < 2 → (t.m.strip && t.m.tail) = false →
      exec (.b64Lsend o) s = .next (t.done (s.setLink h i (s.linkFrom h i ++ [((t.e s o.a).1, (t.e s o.a).2 || t.pp)])))) ∧
    (governedBy s t o [o.a] → (s.linkFrom h i).length < 2 → (t.m.strip && t.m.tail) = true →
      exec (.b64Lsend o) s = .next (t.done (t.put s fun m => { m with linkOut := (s.thread h i).linkOut ++ [((t.e s o.a).1, (t.e s o.a).2 || t.pp)] }))) ∧
    (∀ x p rest, governedBy s t o [o.d] → (s.thread h i).linkIn = (x, p) :: rest →
      exec (.b64Lrecv o) s = .next (t.done (t.setE (t.put s fun m => { m with linkIn := rest }) o.d x (p || t.pp)))) ∧
    (∀ x p rest, governedBy s t o [o.d] → (s.thread h i).linkIn = [] → readsLink (s.thread h i) i = true →
      (s.thread h (i - 1)).linkOut = (x, p) :: rest → exec (.b64Lrecv o) s = .next (t.done (t.setE
        (s.setThread h (i - 1) { s.thread h (i - 1) with linkOut := rest }) o.d x (p || t.pp)))) ∧
    (governedBy s t o [o.d] → (s.thread h i).linkIn = [] →
      (readsLink (s.thread h i) i = false ∨ (s.thread h (i - 1)).linkOut = []) → exec (.b64Lrecv o) s = .next s) ∧
    (governedBy s t o [] → exec (.b64Stop o) s = .next (t.stop s)) ∧
    (∀ block s1, governedBy s t o (if o.c = 1#6 then [o.a] else []) → (o.c = 1#6 → (t.e s o.a).2 = false) →
      s.enter h (o.imm + (if o.c = 1#6 then (t.e s o.a).1.setWidth 24 else 0#24)).toNat = (.ok block, s1) →
      let on := t.put s1 fun m => { m with
        next := (o.imm + (if o.c = 1#6 then (t.e s o.a).1.setWidth 24 else 0#24)).toNat, block := block, own := true }
      exec (.b64Next o) s = .next on ∧ (t.pp = false → exec (.b64Nextif o) s = .next on)) ∧
    (t.pp = false → (t.p s o.pred.toNat).1 = o.pneg → (o.c = 1#6 → (t.e s o.a).2 = false ∧ t.bound s o.a = false) →
      exec (.b64Nextif o) s = .next (t.stop s))

/-- Vector loads, and what a fault of their elements leaves. -/
def Obligations.VectorLoadsAndFaults : Prop := VectorLoads ∧ ElementFaults

/-- R214, R218, R188: a vector store whose active elements hold no poison and can all be stored stores them in ascending
order, `vstx.o` only the highest-indexed of each address, and `vstx.u` all of them in some order; then it is
complete. -/
def Obligations.VectorStores : Prop :=
  ∀ (s s1 : State) (i : Instr) (o : T48) (row : List (Nat × Nat)),
    vecPlain s (o.d.toNat :: indexReg i) → laneTakes o.fmt s.view.sb = true →
    (∀ e ∈ s.actives s.view o.gm.toNat, (s.elem s.view o.d.toNat e).2 = false ∧ tainted s o.gm.toNat e = false) →
    (i = .vst o ∨ i = .vsts o → rowOf s i (s.actives s.view o.gm.toNat) row →
      storeRow s.view o (fun e => (s.elem s.view o.d.toNat e).1) row s = some s1 → exec i s = .next ((s1.clearMf s.view).retire 6)) ∧
    (i = .vstxO o → (∀ e ∈ s.actives s.view o.gm.toNat, (s.elem s.view o.b.toNat e).2 = false) →
      rowOf s i ((s.actives s.view o.gm.toNat).filter (winsAt s o)) row →
      storeRow s.view o (fun e => (s.elem s.view o.d.toNat e).1) row s = some s1 → exec i s = .next ((s1.clearMf s.view).retire 6)) ∧
    (i = .vstxU o → (∀ e ∈ s.actives s.view o.gm.toNat, (s.elem s.view o.b.toNat e).2 = false) →
      ∃ (es : List Nat) (n : Nat), es.Perm (s.actives s.view o.gm.toNat) ∧ ∀ row s1, rowOf s i es row →
        storeRow s.view o (fun e => (s.elem s.view o.d.toNat e).1) row { s with free := n } = some s1 →
        exec i s = .next ((s1.clearMf s.view).retire 6))

/-- R77, R219: `vgl` reads each element at its home slice and links its line; `vsc` tests its addresses, and stores line by
line exactly the elements whose line is still linked, the highest-indexed of an address, sets m0 to say which (a duplicate
reports with the one that stores for it), and ends the links. The model's choice (log 103): through a PARAM window `vgl` takes
the value that R80 allows and links the line. -/
def Obligations.LinkedAccesses : Prop :=
  ∀ (s s1 : State) (o : T48) (row : List (Nat × Xl)), vecPlain s [o.d.toNat, o.b.toNat] → exactLane o.fmt s.view.sb = true →
    (∀ e ∈ s.actives s.view o.gm.toNat, (s.elem s.view o.b.toNat e).2 = false) →
    (∀ vals, linkRow s.view ((s.actives s.view o.gm.toNat).map fun e => (e, indexedVa s o e)) s = some (vals, s1) →
      exec (.vgl o) s = .next ((elemsAt s.view (loadIssued s s1 o.d.toNat) o.d.toNat true
        ((vals.map fun p => (p.1, p.2.1, p.2.2 || tainted s1 o.gm.toNat p.1)) ++
          (policyZeros s o.gm.toNat).map fun e => (e, 0, false))).retire 6)) ∧
    ((∀ e ∈ s.actives s.view o.gm.toNat, (s.elem s.view o.d.toNat e).2 = false ∧ tainted s o.gm.toNat e = false) →
      homeRow s.view .probe (((s.actives s.view o.gm.toNat).filter (winsAt s o)).map fun e => (e, indexedVa s o e)) s = some (row, s1) →
      (∀ p ∈ row, s1.classEmpty p.2.pa = true) → (s.order s.hart).Nodup → s.mfSet s.view = false →
      ∀ (lines linked : List Nat) (s2 : State), lines.Pairwise (· < ·) → (∀ k, k ∈ lines ↔ ∃ p ∈ row, p.2.pa / 512 = k) →
      lineByLine s.view (indexedVa s o) (fun e => (s.elem s.view o.d.toNat e).1) row lines s1 = some (linked, s2) →
      ∃ t, exec (.vsc o) s = .next t ∧ next s t 6 ∧ t.mem = s2.mem ∧
        ((∀ p ∈ row, (s1.ctx s.hart).links.contains (p.2.pa / 512) = false) → t.mem = s1.mem) ∧
        (∀ e, e < s.view.vlmax → ((t.maskBit s.view 0 e).1 = true ↔ e ∈ s.actives s.view o.gm.toNat ∧ ∃ w x, (w, x) ∈ row ∧
          (s.elem s.view o.b.toNat w).1 = (s.elem s.view o.b.toNat e).1 ∧ x.pa / 512 ∈ linked)) ∧
        (∀ p ∈ row, (t.ctx s.hart).links.contains (p.2.pa / 512) = false))

/-- R220, R221, R188: `vcappend`, none of whose governing bits is poisoned, with room stores the active elements' indices into
the ring, advances its tail and gives the old tail; without room it changes no memory and gives all ones. The model's choices:
the header's page and the slots' are tested before D is set on any (log 104), and t − h is taken mod 2^64 (log 105). -/
def Obligations.CompactAppends : Prop :=
  ∀ (s s1 : State) (o : T48) (hx : Xl) (log n : Nat) (slots : List Word), vecPlain s [] → (s.rx o.a).toNat % 32 = 0 →
    s.precise (s.rx o.a) 32 .amoProbe = (.ok hx, s1) → s1.classEmpty hx.pa = true → hx.pois = false → s1.memPoisoned hx.pa 32 = false →
    (headWord s1 hx.pa 3).toNat = log → 4 ≤ log → log ≤ 28 → (headWord s1 hx.pa 2).toNat % 4 = 0 →
    n = (s.actives s.view o.gm.toNat).length → (∀ e ∈ s.actives s.view o.gm.toNat, tainted s o.gm.toNat e = false) →
    ((0 < n ∧ 2 ^ log < n + (headWord s1 hx.pa 0 - headWord s1 hx.pa 1).toNat) →
      exec (.vcappend o) s = .next (((s1.clearMf s.view).wx o.d 0xFFFFFFFFFFFFFFFF).retire 6)) ∧
    (¬ (0 < n ∧ 2 ^ log < n + (headWord s1 hx.pa 0 - headWord s1 hx.pa 1).toNat) →
      slots = ((List.range n).map fun k =>
        headWord s1 hx.pa 2 + BitVec.ofNat 64 (4 * (((headWord s1 hx.pa 0).toNat + k) % 2 ^ log))) →
      ∀ tested s2, preciseAll .probe 4 slots s1 = (.ok tested, s2) → (∀ y ∈ tested, s2.classEmpty y.pa = true) →
      ∀ hx' s3 xs s4, s2.precise (s.rx o.a) 32 .amo = (.ok hx', s3) → preciseAll .store 4 slots s3 = (.ok xs, s4) →
      ∃ t, exec (.vcappend o) s = .next t ∧ next s t 6 ∧ wrote s4 t o.d (headWord s1 hx.pa 0) ∧
        t.mem = (((xs.zip (s.actives s.view o.gm.toNat)).foldl (fun (u : State) p =>
          u.homeWrite u.writer p.1.pa (fullBytes (natLe 4 ((s.view.base + p.2) % 2 ^ 32)))) s4).homeWrite s.writer hx.pa
            (fullBytes (natLe 8 ((headWord s1 hx.pa 0).toNat + n)))).mem)

/-- R223 to R225, R75: the vector atomics: one read-modify-write an active element, by address and then by index; the
old values go to the destination, unless the form returns nothing. -/
def Obligations.VectorAtomics : Prop :=
  ∀ (s s1 s2 : State) (i : Instr) (o : T48) (f : (w : Nat) → BitVec w → BitVec w → BitVec w) (row : List (Nat × Xl))
    (olds : List (Nat × BitVec 32)), (∀ w, vamoOf w i = some (o, f w)) → vecPlain s [o.d.toNat, o.b.toNat] →
    exactLane o.fmt s.view.sb = true → (o.aux.getLsbD 6 = true → s.queue = []) →
    (∀ e ∈ s.actives s.view o.gm.toNat, (s.elem s.view o.b.toNat e).2 = false ∧ (s.elem s.view o.d.toNat e).2 = false ∧
      tainted s o.gm.toNat e = false) →
    homeRow s.view .amo ((s.actives s.view o.gm.toNat).map fun e => (e, indexedVa s o e)) s = some (row, s1) →
    (∀ p ∈ row, s1.classEmpty p.2.pa = true) →
    amoRow s.view (8 * s.view.sb) (f (8 * s.view.sb)) (fun e => (s.elem s.view o.d.toNat e).1) (sortedByAddr row) s1 = some (olds, s2) →
    (o.aux.getLsbD 7 = true → exec i s = .next ((s2.clearMf s.view).retire 6)) ∧
    (o.aux.getLsbD 7 = false → ∃ vals : List (Nat × BitVec 32 × Bool),
      (∀ e x p, (e, x, p) ∈ vals ↔ (e, x) ∈ olds ∧ p = false) ∧
      exec i s = .next ((elemsAt s.view s2 o.d.toNat true (vals ++ (policyZeros s o.gm.toNat).map fun e => (e, 0, false))).retire 6))

/-- The stream instructions, and the elements that streams move. -/
def Obligations.StreamInstructions : Prop := StreamControl ∧ StreamsMove

/-- R235 to R239: `wbind`, once the unit is quiet, reads its descriptor and binds the window, or raises cause 25 with
the descriptor's address; `wunbind`, `wquery`; and `winval`, after which the window's reads are ordinary ones. The model's choices (log 25): stval of `wbind` is the
descriptor's address, and that of a `winval` of an unbound window the base of its aperture. -/
def Obligations.WindowControl : Prop :=
  ∀ (s : State) (h : Nat) (o : T48), s.who = .ct h → o.b.toNat < 16 →
    (s.runningThread h = none → (s.ctx h).queue = [] → ∀ d s1 levels s2, readWords (s.rx o.a) 8 s = (.ok d, s1) →
      readLevels d s1 = (.ok levels, s2) →
      (((s.rx o.a).toNat % 64 = 0 ∧ windowOk (s2.ctx h) o.b.toNat d levels = true) →
        ∃ t, exec (.wbind o) s = .next t ∧ next s t 6 ∧ ((t.ctx h).win o.b.toNat).bound = true ∧
          ((t.ctx h).win o.b.toNat).desc = d ∧ ((t.ctx h).win o.b.toNat).levels = levels ∧
          (∀ m, m ≠ o.b.toNat → (t.ctx h).win m = (s2.ctx h).win m) ∧ t.mem = s2.mem) ∧
      (¬ ((s.rx o.a).toNat % 64 = 0 ∧ windowOk (s2.ctx h) o.b.toNat d levels = true) →
        exec (.wbind o) s = .next (s2.trap 25 (s.rx o.a)))) ∧
    (((s.ctx h).win o.b.toNat).bound = false → ∃ t, exec (.wunbind o) s = .next t ∧ next s t 6 ∧ onlyScalars s t 6) ∧
    (((s.ctx h).win o.b.toNat).bound = true → s.runningThread h = none → (s.ctx h).queue = [] →
      streamInWindow (s.ctx h) o.b.toNat = false →
      ∃ t, exec (.wunbind o) s = .next t ∧ next s t 6 ∧ ((t.ctx h).win o.b.toNat).bound = false ∧
        (∀ m, m ≠ o.b.toNat → (t.ctx h).win m = (s.ctx h).win m) ∧ t.mem = s.mem) ∧
    (((s.ctx h).win o.b.toNat).bound = true → ∃ t, exec (.winval o) s = .next t ∧ next s t 6 ∧
      ((t.ctx h).win o.b.toNat).desc = ((s.ctx h).win o.b.toNat).desc ∧ ((t.ctx h).win o.b.toNat).isParam = false ∧ ((t.ctx h).win o.b.toNat).since = s.memLog.length ∧
      t.mem = s.mem) ∧
    (((s.ctx h).win o.b.toNat).bound = false → ∃ t, exec (.winval o) s = .next t ∧
      traps s t h 25 (BitVec.ofNat 64 (0xFFFFF00000000000 + o.b.toNat * 2 ^ 40))) ∧
    (∃ t, exec (.wquery o) s = .next t ∧ next s t 6 ∧ onlyScalars s t 6 ∧ wrote s t o.d
      (if ((s.ctx h).win o.b.toNat).bound then
        ((((s.ctx h).win o.b.toNat).desc.getD 1 0) &&& 0x000700FFFFFFFFFF) ||| 0x8000000000000000 else 0))

/-- R263 to R270: the billet instructions on the CT of the unit that owns the MS; elsewhere they are illegal. The model's choices
(log 40): the order of their checks, and cause 35 beneath that of a `tcol` whose tag does not fit. -/
def Obligations.BilletResults : Prop :=
  ∀ (s : State) (h bd ba : Nat) (o : T48), s.who = .ct h → bd = 8 * coreOf h + o.d.toNat → ba = 8 * coreOf h + o.a.toNat →
    ((s.ctx h).ownsMs = false → ∀ i ∈ [Instr.trow o, .tcol o, .tld o, .tst o, .tzero o, .tfull o, .tempty o],
      ∃ t bits, exec i s = .next t ∧ traps s t h 2 bits) ∧
    ((s.ctx h).ownsMs = true →
      (∃ t, exec (.tfull o) s = .next t ∧ next s t 6 ∧ (t.billet bd).full = true ∧ (t.billet bd).tag = (s.billet bd).tag ∧
        onlyBillets s t ∧ t.brow = s.brow) ∧
      (∃ t, exec (.tempty o) s = .next t ∧ next s t 6 ∧ (t.billet bd).full = false ∧ onlyBillets s t ∧ t.brow = s.brow) ∧
      ((s.billet bd).full = false → ∃ t, exec (.tzero o) s = .next t ∧ next s t 6 ∧ onlyBillets s t ∧
        (∀ r c, r < 128 → c < 128 → t.rowByte bd r c = (0, false)) ∧ (∀ i, i < 1024 → t.billetScale bd i = 0x38) ∧
        (canonical 0#8 s.brow = true → canonical false s.bpois = true →
          ∀ b r c, b ≠ bd → r < 128 → c < 128 → t.rowByte b r c = s.rowByte b r c) ∧
        (t.billet bd).tag = (s.billet bd).tag ∧ (t.billet bd).axis = false ∧ (t.billet bd).nblk = 8) ∧
      ((s.billet bd).full = false → vecPlain s [o.a.toNat] → ∃ t, t = ((s.actives s.view o.gm.toNat).foldl (fun u e =>
          putRow bd ((s.rx o.b).extractLsb' 0 7).toNat s.view.sb e
            ((s.elem s.view o.a.toNat e).1, (s.elem s.view o.a.toNat e).2 || tainted s o.gm.toNat e) u) s) ∧
        exec (.trow o) s = .next (((t.setBillet bd { t.billet bd with tag := o.fmt }).clearMf s.view).retire 6)) ∧
      ((s.billet ba).full = true → vecPlain s [o.d.toNat] →
        (o.fmt = (s.billet ba).tag → exec (.tcol o) s = .next (vecDone s o.gm.toNat o.d.toNat 6 true fun e =>
          let l := (List.range s.view.sb).map fun q => s.rowByte ba (e % 128)
            ((((s.rx o.b).extractLsb' 0 7).toNat / s.view.sb * s.view.sb + s.view.sb * (e / 128)) % 128 + q)
          (BitVec.ofNat 32 (leNat (l.map (·.1))), l.any (·.2) || tainted s o.gm.toNat e))) ∧
        (o.fmt ≠ (s.billet ba).tag → ∃ t, exec (.tcol o) s = .next t ∧ traps s t h 35 35)) ∧
      (∀ w s1 rows s2 scales s3 sc s4 rb s5, (s.rx o.a).toNat % 32 = 0 →
        readWords (s.rx o.a) 4 s = (.ok w, s1) → billetDescOk o.fmt w →
        (anvilTag o.fmt = true → (s.billet bd).full = false → spanAll .load 128 (billetDesc w).rows s1 = (.ok rows, s2) →
          spanAll .load 1 ((billetDesc w).scales.map (·.2)) s2 = (.ok scales, s3) →
          readSpans (o.aux.getLsbD 7) scales s3 = (sc, s4) → (sc.any fun l => l.any (·.2)) = false →
          readSpans (o.aux.getLsbD 7) rows s4 = (rb, s5) → canonical 0#8 s5.brow = true → canonical false s5.bpois = true →
          ∃ t, exec (.tld o) s = .next t ∧ next s t 6 ∧ t.mem = s5.mem ∧ (t.billet bd).tag = o.fmt ∧
            (t.billet bd).axis = (billetDesc w).axis ∧ (t.billet bd).nblk = (billetDesc w).nblk ∧
            (∀ r c, r < 128 → c < 128 → ∀ x, (rb.getD r [])[c]? = some x → t.rowByte bd r c = x)) ∧
        ((s.billet bd).full = true → o.fmt = (s.billet bd).tag → (∀ i, i < 16384 → sparseGet false s.bpois (bd * 16384 + i) = false) →
          spanAll .store 128 (billetDesc w).rows s1 = (.ok rows, s2) →
          spanAll .store 1 ((billetDesc w).scales.map (·.2)) s2 = (.ok scales, s3) → s4 =
            (((billetDesc w).scales.zip scales).foldl (fun (u : State) p => u.writeSpan p.2 [(u.billetScale bd p.1.1, false)])
              (((List.range 128).zip rows).foldl (fun (u : State) p =>
                u.writeSpan p.2 ((List.range 128).map fun c => u.rowByte bd p.1 c)) s3)) →
          exec (.tst o) s = .next (s4.retire 6))))

/-- R271 to R281, R59: `mscl` sets the multipliers; `pzero` zeroes rows of the Plate; `pload` puts every byte of its
operand into the rows that its descriptor names, with their segments' tags, and leaves the other rows; `msync` and
`mwait` wait for nothing here (log 6). -/
def Obligations.PlateResults : Prop :=
  ∀ (s : State) (g : Nat) (o : T48), s.who = .ms g →
    (∃ t, exec (.mscl o) s = .next t ∧ next s t 6 ∧ (t.ms g).ta = (s.rx o.a).setWidth 32 ∧ (t.ms g).tb = (s.rx o.b).setWidth 32 ∧
      (t.ms g).x = (s.ms g).x ∧ t.mem = s.mem ∧ t.ctxs = s.ctxs) ∧
    (∃ t, exec (.msync o) s = .next t ∧ next s t 6 ∧ onlyScalars s t 6) ∧
    (∃ t, exec (.mwait o) s = .next t ∧ next s t 6 ∧ onlyScalars s t 6) ∧
    (∀ r n, r = ((s.rx o.a).extractLsb' 16 14).toNat → n = ((s.rx o.a).extractLsb' 0 16).toNat → n ≠ 0 → r + n ≤ 16384 →
      ∃ t, exec (.pzero o) s = .next t ∧ next s t 6 ∧ t.mem = s.mem ∧ t.segs = s.segs ∧
        (∀ row c, r ≤ row → row < r + n → c < 256 → t.plateByte g row c = (0, false)) ∧
        (canonical 0#8 s.plate = true → canonical false s.platePois = true → plateSame s t g fun row => row < r ∨ r + n ≤ row)) ∧
    (∀ w s1 d rows s2 srows s3 data s4 scales s5, (s.rx o.a).toNat % 64 = 0 → readWords (s.rx o.a) 8 s = (.ok w, s1) →
      ploadDesc w s1.planeCap = some d → spanAll .load d.rowBytes d.sources s1 = (.ok rows, s2) →
      spanAll .load (if d.axis then 8 else 256) ((List.range d.nscale).map fun j => d.sbase + BitVec.ofNat 64 j * d.sstride) s2 = (.ok srows, s3) →
      readSpans true rows s3 = (data, s4) → readSpans true srows s4 = (scales, s5) →
      canonical 0#8 s5.plate = true → canonical false s5.platePois = true →
      ∃ t, exec (.pload o) s = .next t ∧ next s t 6 ∧ t.mem = s5.mem ∧
        (∀ r c, r < d.rows → c < 256 → t.plateByte g (d.row + r) c = d.dataByte (byteOf data) r c) ∧
        (∀ j c, j < d.nscale → c < 256 → t.plateByte g (d.srow + j) c = byteOf scales j (if d.axis then c / 32 else c)) ∧
        plateSame s5 t g (fun row => ¬ (d.row ≤ row ∧ row < d.row + d.rows) ∧ ¬ (d.srow ≤ row ∧ row < d.srow + d.nscale)) ∧
        (∀ r, r < d.rows → (t.seg g ((d.row + r) / 256)).valid = true ∧ (t.seg g ((d.row + r) / 256)).fmt = d.fmt ∧
          (t.seg g ((d.row + r) / 256)).origin = d.row ∧ (t.seg g ((d.row + r) / 256)).spn = d.spn))

/-- R59, R60, R278 to R280, R284, R352: an `mma` or `mmas` whose checks pass and that no poison reaches adds its product
to every element of its handle and to no other, and with E empties its billet; for FP32 operands and K up to 32, whose rows begin
with the element that ROW lies in (log 33), an element is the old one plus TA × TB × the sum of the products, each rounded as R59 says. A handle that is not granted raises cause
33, and a check that fails stops the MS with its cause. -/
def Obligations.AnvilResults : Prop :=
  ∀ (s : State) (g b : Nat) (o : T48) (i : Instr) (sparse : Bool), s.who = .ms g → b = 8 * g + o.a.toNat →
    (i = .mma o ∧ sparse = false) ∨ (i = .mmas o ∧ sparse = true) →
    (grantedHandle s o.d = none → ∃ t, exec i s = .next t ∧ (t.ms g).run = .stopped ∧ (t.ms g).pc = (s.ms g).pc ∧
      (t.ms g).faultAddr = BitVec.ofNat 64 o.d.toNat ∧ ((t.ms g).faultWord.extractLsb' 0 8).toNat = 33) ∧
    (∀ key cause, grantedHandle s o.d = some key → (s.billet b).full = true → mmaCheck sparse b key (s.rx o.b) s = .error cause →
      exec i s = .next (s.trap cause 0)) ∧
    (∀ key m, grantedHandle s o.d = some key → (s.billet b).full = true → mmaCheck sparse b key (s.rx o.b) s = .ok m →
      (s.core g).busy < (s.core g).limit → canonical 0#32 s.cruc = true →
      (∀ r n, r < 128 → n < 256 → s.bPois m n = false ∧ (s.crucElem key r n).2 = false ∧
        ∀ p ∈ s.bElems m n, s.aPois m r p.1 = false) →
      ∃ t, exec i s = .next t ∧ next s t 6 ∧ t.mem = s.mem ∧ otherHandles s t key ∧ t.plate = s.plate ∧ t.brow = s.brow ∧
        (∀ r n, r < 128 → n < 256 → (t.crucElem key r n).1 = s.mmaElem m r n (s.bElems m n)) ∧
        (t.billet b).full = ((s.billet b).full && !(s.rx o.b).getLsbD 32) ∧
        (sparse = false → (s.billet b).tag = 0 → m.seg.fmt = 0 → 1 ≤ m.k → m.k ≤ 32 → ∀ r n, r < 128 → n < 256 →
          (t.crucElem key r n).1 = BitVec.ofNat 32 (fp32.lane 1#3 (xadd 1#3 (fp32.decode (s.crucElem key r n).1.toNat)
            ([.fin false 1 1, .fin false 1 1, fp32.decode (s.ms g).ta.toNat, fp32.decode (s.ms g).tb.toNat].foldl xmul
              (blockSum ((List.range m.k).map fun k => xmul (billetF32 s b r k) (plateF32 s g (m.seg.origin + (m.row - m.seg.origin) / 4 * 4) k n))))))))

/-- R284 to R290, R142: `czero` and `cdrain` on the MS, `cacc` and `cread` on the CT, `cwait` and `cquery` on either, for a
handle granted to the unit. `cdrain`, `cacc` and `cread` wait while a writer's results are on their way (R287); how many steps that
takes is free, the model's choice (log 115). -/
def Obligations.CrucibleResults : Prop :=
  ∀ (s : State) (o : T48) (key : Nat),
    (∀ g, s.who = .ms g → grantedHandle s o.d = some key →
      (∃ t, exec (.czero o) s = .next t ∧ next s t 6 ∧ t.mem = s.mem ∧
        (∀ r c, r < 128 → c < 256 → t.crucElem key r c = (0, false)) ∧
        (canonical 0#32 s.cruc = true → canonical false s.crucPois = true → otherHandles s t key)) ∧
      (s.tick < (s.handle key).busyTill → ∃ t, exec (.cdrain o) s = .next t ∧ keptWaiting s t) ∧
      (∀ w s1, (s.handle key).busyTill ≤ s.tick → (s.rx o.a).toNat % 64 = 0 → readWords (s.rx o.a) 8 s = (.ok w, s1) → drainOk w = true →
        ∃ t, exec (.cdrain o) s = .next t ∧ next s t 6 ∧ t.mem = s1.mem ∧ t.cruc = s1.cruc ∧
          ∃ d : Drain, (t.handle key).drains = (s1.handle key).drains ++ [d] ∧ d.desc = w ∧ d.data = s1.region key (drainDesc w))) ∧
    (movesCt s → s.tick < (s.handle key).busyTill →
      (grantedHandle s o.d = some key → vecPlain s [o.a.toNat] → ∃ t, exec (.cacc o) s = .next t ∧ keptWaiting s t) ∧
      (grantedHandle s o.a = some key → vecPlain s [o.d.toNat] → ∃ t, exec (.cread o) s = .next t ∧ keptWaiting s t)) ∧
    (movesCt s → (s.handle key).busyTill ≤ s.tick → grantedHandle s o.d = some key → vecPlain s [o.a.toNat] → s.view.vl ≤ 32768 → canonical 0#32 s.cruc = true →
      (∀ e ∈ s.actives s.view o.gm.toNat, (s.elem s.view o.a.toNat e).2 = false ∧ tainted s o.gm.toNat e = false) →
      ∃ t, exec (.cacc o) s = .next t ∧ next s t 6 ∧ t.mem = s.mem ∧ otherHandles s t key ∧
        (∀ e ∈ s.actives s.view o.gm.toNat, (t.crucElem key (crucAt (s.rx o.b) e).1 (crucAt (s.rx o.b) e).2).1 =
          BitVec.ofNat 32 (fp32.lane 1#3 (xadd 1#3
            (fp32.decode (s.crucElem key (crucAt (s.rx o.b) e).1 (crucAt (s.rx o.b) e).2).1.toNat)
            ((laneFp s.view.sb).decode (s.elem s.view o.a.toNat e).1.toNat)))) ∧
        (∀ r c, r < 128 → c < 256 → (∀ e ∈ s.actives s.view o.gm.toNat, crucAt (s.rx o.b) e ≠ (r, c)) →
          t.crucElem key r c = s.crucElem key r c)) ∧
    ((s.handle key).busyTill ≤ s.tick → grantedHandle s o.a = some key → vecPlain s [o.d.toNat] →
      exec (.cread o) s = .next ((elemsAt s.view (loadIssued s s o.d.toNat) o.d.toNat true
        (((s.actives s.view o.gm.toNat).map fun e =>
          let c := s.crucElem key (crucAt (s.rx o.b) e).1 (crucAt (s.rx o.b) e).2
          (e, if s.view.sb = 2 then BitVec.ofNat 32 (bf16.lane (roundMode s 0#3) (fp32.decode c.1.toNat)) else c.1,
           c.2 || tainted s o.gm.toNat e)) ++ (policyZeros s o.gm.toNat).map fun e => (e, 0, false))).retire 6)) ∧
    (movesBoth s → grantedHandle s o.d = some key → (s.handle key).drains = [] →
      ((s.handle key).fault = none → ∃ t, exec (.cwait o) s = .next t ∧ next s t 6 ∧ onlyScalars (s.dropWays s.issuerCore) t 6) ∧
      (∀ h cause i, s.who = .ct h → cause < 64 → (s.handle key).fault = some (cause, i) →
        ∃ t, exec (.cwait o) s = .next t ∧ (t.handle key).fault = none ∧ (t.ctx h).mode = .supervisor ∧
          (t.ctx h).scause = BitVec.ofNat 64 cause ∧ (t.ctx h).stval = BitVec.ofNat 64 i ∧ (t.ctx h).sepc = (s.ctx h).pc)) ∧
    (movesBoth s → grantedHandle s o.a = some key → ∃ t v, exec (.cquery o) s = .next t ∧ next s t 6 ∧ onlyScalars s t 6 ∧
      wrote s t o.d v ∧ v.getLsbD 63 = !(s.handle key).drains.isEmpty ∧ v.getLsbD 62 = (s.handle key).fault.isSome ∧
      (∀ cause i, (s.handle key).fault = some (cause, i) → v.extractLsb' 40 8 = BitVec.ofNat 8 cause ∧
        v.extractLsb' 0 32 = BitVec.ofNat 32 i))

/-- Pre-emption points and barriers of a unit, and its end. -/
def Obligations.UnitEnds : Prop := UnitPoints ∧ UnitsEnd

/-- The grid and key-value pool instructions. -/
def Obligations.RegionReads : Prop := GridResults ∧ PoolResults

/-- The engine instructions, and the commands that engines complete. -/
def Obligations.Engines : Prop := EngineCommands ∧ EngineProgress

/-- The queue instructions, the bank modes and the calls to the Hearth. -/
def Obligations.QueuesAndBanks : Prop := QueueInstructions ∧ BanksAndCalls

/-- The instructions of a queue program, and how its runs end. -/
def Obligations.QueuePrograms : Prop := RunInstructions ∧ RunEndings

/-- Queues accept packets, and packets place units. -/
def Obligations.PacketsAccepted : Prop := QueuesAccept ∧ PacketsStart

/-- Completion records, and the jobs' states. -/
def Obligations.JobsAndCompletions : Prop := CompletionsDelivered ∧ JobsChange

/-- The platform's upkeep, fences and debug sessions. -/
def Obligations.Platform : Prop := PlatformUpkeep ∧ FencesAndSessions

/-- R84, R424, R426, R432, R433: what the host and peers do at the home slices of a running module, where their bytes are device
memory: reads of at most 4,096 bytes, writes of at most 512, and atomics, each in one update; elsewhere, and before the
boot has ended or in recovery mode, the request ends unsupported and changes nothing. Chain
ports count failed flits and go down after sixteen replays; the host link trains at a legal generation and width. -/
def Obligations.HostRequests : Prop :=
  ∀ (s : State) (pa n peer port gen lanes : Nat) (bs : List Byte) (op : HostAtomic) (v cmp : Word) (cxl : Bool),
    ((4096 < n ∨ s.reaches pa n = false) → ∃ t, exec (.hostRead pa n) s = .next t ∧ t = { s with plat := { s.plat with answer := none } }) ∧
    ((512 < bs.length ∨ s.reaches pa bs.length = false) → ∃ t, exec (.hostWrite pa bs) s = .next t ∧
      t = { s with plat := { s.plat with answer := none } }) ∧
    ((n ≠ 4 ∧ n ≠ 8 ∨ s.reaches pa n = false ∨ pa % n ≠ 0) → ∃ t, exec (.hostAtomic op pa n v cmp) s = .next t ∧
      t = { s with plat := { s.plat with answer := none } }) ∧
    (n ≤ 4096 → s.reaches pa n = true → s.plat.ckRegs = [] → ∃ t, exec (.hostRead pa n) s = .next t ∧
      t = { s with plat := { s.plat with answer := some (s.memBytes pa n, s.memPoisoned pa n) } } ∧
      (peer < 64 → exec (.peerRequest peer (.load pa n)) s = .next t)) ∧
    (bs.length ≤ 512 → s.reaches pa bs.length = true → Memory.wf s.mem → ∃ t, exec (.hostWrite pa bs) s = .next t ∧ wroteMem s t pa bs ∧
      t.plat.answer = some ([], false) ∧ (peer < 64 → exec (.peerRequest peer (.store pa bs)) s = .next t)) ∧
    (s.reaches pa n = true → (n = 4 ∨ n = 8) → pa % n = 0 → s.memPoisoned pa n = false → s.plat.ckRegs = [] → Memory.wf s.mem →
      ∃ t, exec (.hostAtomic op pa n v cmp) s = .next t ∧ t.plat.answer = some (s.memBytes pa n, false) ∧
        wroteMem s t pa (natLe n ((match op with
          | .fetchAdd => s.memNat pa n + v.toNat
          | .swap => v.toNat
          | .cas => if s.memNat pa n = cmp.toNat % 2 ^ (8 * n) then v.toNat else s.memNat pa n) % 2 ^ (8 * n)))) ∧
    (peer < 64 → s.reaches pa 4 = true → pa % 4 = 0 → s.memPoisoned pa 4 = false → s.plat.ckRegs = [] → Memory.wf s.mem →
      (∃ t, exec (.peerRequest peer (.amo 0#3 false pa 4 v)) s = .next t ∧ t.plat.answer = some (s.memBytes pa 4, false) ∧
        wroteMem s t pa (natLe 4 ((s.memNat pa 4 + v.toNat) % 2 ^ 32))) ∧
      (∃ t, exec (.peerRequest peer (.famo false pa (v.setWidth 32))) s = .next t ∧
        wroteMem s t pa (natLe 4 (atomicAdd fp32 (s.memNat pa 4) (v.toNat % 2 ^ 32) % 2 ^ 32)))) ∧
    (port < 16 → s.plat.portsDown.contains port = false →
      (∃ t, exec (.chainFlit port false) s = .next t ∧ sparseGet 0 t.plat.replays port = sparseGet 0 s.plat.replays port + 1 ∧ t.mem = s.mem) ∧
      (∃ t, exec (.chainFlit port true) s = .next t ∧ (∀ p ∈ t.plat.replays, p.1 ≠ port) ∧ t.mem = s.mem)) ∧
    (17 ≤ sparseGet 0 s.plat.replays port → ∃ t, exec (.chainPortDown port) s = .next t ∧ port ∈ t.plat.portsDown ∧ t.mem = s.mem) ∧
    (sparseGet 0 s.plat.replays port < 17 → exec (.chainPortDown port) s = .next s) ∧
    (1 ≤ gen → gen ≤ 6 → lanes ∈ [1, 4, 8, 16] → ∃ t, exec (.hostLinkTraining gen lanes cxl) s = .next t ∧
      t = { s with plat := { s.plat with linkGen := gen, linkLanes := lanes, linkCxl := cxl } }) ∧
    ((gen = 0 ∨ 6 < gen ∨ lanes ∉ [1, 4, 8, 16]) → exec (.hostLinkTraining gen lanes cxl) s = .next s)

/-- R410 to R415, R430, R431: an extent is granted with its host memory's bytes where its entry is in form and meets no other that
is granted, and given back; a migration command in hand that may run ends with its status and the recopy rounds it used. The model's
choice (log 72): it goes on by stages, so that the operands of its rows but for its place in hand have no effect, and a record out of
form ends BADCMD before it begins. -/
def Obligations.ExtentsAndMigration : Prop :=
  ∀ (s : State) (k lo n hpa rounds : Nat), lo = (s.extent k).base.toNat → n = (s.extent k).len.toNat → hpa = (s.extent k).hpa.toNat →
    ((256 ≤ k ∨ s.plat.mode ≠ 1 ∨ (2 ≤ (s.extent k).state ∧ (s.extent k).state ≤ 4)) → exec (.extentGrant k) s = .next s) ∧
    (k < 256 → s.plat.mode = 1 → ((s.extent k).state < 2 ∨ 4 < (s.extent k).state) →
      ((lo % 0x200000 ≠ 0 ∨ n % 0x200000 ≠ 0 ∨ lo < 0x100000000000 ∨ 0x200000000000 < lo + n) → ∃ t, exec (.extentGrant k) s = .next t ∧
        (t.extent k).state = 5 ∧ t.mem = s.mem) ∧
      ((∃ p ∈ s.plat.extents, p.1 ≠ k ∧ 2 ≤ p.2.state ∧ p.2.state ≤ 4 ∧ lo < p.2.base.toNat + p.2.len.toNat ∧ p.2.base.toNat < lo + n) →
        ∃ t, exec (.extentGrant k) s = .next t ∧ (t.extent k).state = 5 ∧ t.mem = s.mem) ∧
      (lo % 0x200000 = 0 → n % 0x200000 = 0 → 0x100000000000 ≤ lo → lo + n ≤ 0x200000000000 →
        (∀ p ∈ s.plat.extents, p.1 ≠ k → p.2.state < 2 ∨ 4 < p.2.state) → Memory.wf s.mem → canonical 0 s.plat.hostMem = true →
        ∃ t, exec (.extentGrant k) s = .next t ∧ (t.extent k).state = 2 ∧
          (∀ i, i < n → t.memByte (lo + i) = sparseGet 0 s.plat.hostMem (hpa + i)) ∧
          (∀ a, a < lo ∨ lo + n ≤ a → t.memByte a = s.memByte a))) ∧
    ((s.plat.mode ≠ 1 ∨ (s.extent k).state ≠ 2) → exec (.extentReleaseNotice k) s = .next s ∧ exec (.extentForcedRelease k) s = .next s) ∧
    (s.plat.mode = 1 → (s.extent k).state = 2 → s.migHeader = none → Memory.wf s.mem →
      (∃ t, exec (.extentReleaseNotice k) s = .next t ∧ (t.extent k).state = 3 ∧ (∀ a, lo ≤ a → a < lo + n → t.memByte a = 0) ∧
        (∀ a, a < lo ∨ lo + n ≤ a → t.memByte a = s.memByte a)) ∧
      (∃ t, exec (.extentForcedRelease k) s = .next t ∧ (t.extent k).state = 4 ∧ t.plat.hostMem = s.plat.hostMem)) ∧
    (((s.extent k).state = 3 ∨ (s.extent k).state = 4) → ∃ t, exec (.extentReleaseComplete k) s = .next t ∧ (t.extent k).state = 6 ∧ t.mem = s.mem) ∧
    ((s.extent k).state ≠ 3 → (s.extent k).state ≠ 4 → exec (.extentReleaseComplete k) s = .next s) ∧
    (s.migHeader = none → ∀ v, exec (.migrationDoorbell v) s = .next s ∧ exec (.migratePage k rounds) s = .next s ∧
      exec (.migrateKvBlock k rounds) s = .next s) ∧
    (∀ r, s.migHeader = some r →
      (s.plat.mode = 1 → ∀ v, ∃ t, exec (.migrationDoorbell v) s = .next t ∧ t.mem = s.mem ∧
        (∀ i, r.head ≤ i → i < r.tail → i < r.head + r.cap → i ∈ t.plat.migJobs ∨ i ∈ s.plat.migDone)) ∧
      (∀ i rest m, s.plat.migJobs = i :: rest → m = s.migRecord r i →
        (m.ok = false → s.mig? i = none → exec (.migratePage 0 rounds) s = .next (s.migFinish r i m 3 0 none)) ∧
        (m.ok = true → m.kind = 1 → exec (.migrateKvBlock 0 rounds) s = .next s ∧
          (∀ st bad s1, s.migratePage m i = (some (st, bad), s1) → exec (.migratePage 0 rounds) s =
            .next (s1.migFinish r i m st (((s1.mig? i).map (·.rounds)).getD 0) bad)) ∧
          (∀ s1, s.migratePage m i = (none, s1) → exec (.migratePage 0 rounds) s = .next s1)) ∧
        (m.ok = true → m.kind = 2 → exec (.migratePage 0 rounds) s = .next s ∧
          (∀ st bad s1, s.migrateKv m i = (some (st, bad), s1) → exec (.migrateKvBlock 0 rounds) s =
            .next (s1.migFinish r i m st (((s1.mig? i).map (·.rounds)).getD 0) bad)) ∧
          (∀ s1, s.migrateKv m i = (none, s1) → exec (.migrateKvBlock 0 rounds) s = .next s1))))

/-- R441 to R444, R448: a write of MBCMD begins a command of the recovery mailbox, and CMDST is BUSY until it has run; while it is, a
write of MBCMD is ignored and no other command runs. Commands fail without an identity; ATTEST reports MBSTAT with BUSY. Writes of
registers that have a row of their own act as that row. The model's choice (log 82): nothing before boot has ended, EXTEND of another
register fails, and an INSTALL that fails writes 0 over MAGIC, but leaves the flash on a bad argument or the booted slot. -/
def Obligations.MailboxAndRegisters : Prop :=
  ∀ (s : State) (k : BitVec 8) (off : Nat) (v : Word),
    (s.plat.mode = 0 → ∀ i ∈ [Instr.mbCert, .mbAttest, .mbInstall k, .mbExtend k, .mbReset], exec i s = .next s) ∧
    (∀ i p, mailboxRow k i p → s.plat.cmdst = 1 → s.plat.mbcmd ≠ some p → exec i s = .next s) ∧
    (s.plat.mode ≠ 0 → s.plat.idLost = true → ∀ i p, mailboxRow k i p → p.1 ≠ 5 → mayRun s p → exec i s =
      .next { s with plat := { s.plat with cmdst := 4, mbcmd := none } }) ∧
    (s.plat.mode ≠ 0 → mayRun s (5, 0) → exec .mbReset s = .next s.warm) ∧
    (s.plat.mode ≠ 0 → s.plat.idLost = false → canonical 0 s.plat.mbdata = true →
      (mayRun s (1, 0) → ∃ t, exec .mbCert s = .next t ∧ t.plat.cmdst = 2 ∧ t.plat.mbcmd = none ∧
        ∀ i, i < 65536 → sparseGet 0 t.plat.mbdata i = s.flashByte (0x20000 + i)) ∧
      (mayRun s (2, 0) → ∃ t, exec .mbAttest s = .next t ∧ t.plat.cmdst = 2 ∧
        (∀ i, i < 32 → sparseGet 0 t.plat.mbdata (32 + i) = sparseGet 0 s.plat.mbnonce i) ∧ sparseGet 0 t.plat.mbdata 0 = 0x42#8 ∧
        (s.plat.mode ≤ 2 → sparseGet 0 t.plat.mbdata 4 &&& 0xF0#8 = 0x10#8))) ∧
    (s.plat.mode ≠ 0 → s.plat.idLost = false → mayRun s (3, k) →
      ((1 < k.toNat ∨ k.toNat = s.plat.bootSlot) → exec (.mbInstall k) s =
        .next { s with plat := { s.plat with cmdst := 3, mbcmd := none } }) ∧
      (k.toNat ≤ 1 → k.toNat ≠ s.plat.bootSlot → ∃ t, exec (.mbInstall k) s = .next t ∧ (t.plat.cmdst = 2 ∨ t.plat.cmdst = 3) ∧
        (imageReason s.imageToInstall (field s.record 0x28 4) ≠ 0 → t.plat.cmdst = 3 ∧ t.flashByte (0x1000000 * (k.toNat + 1)) = 0) ∧
        (t.plat.cmdst = 2 → t.slotReason k.toNat (field s.record 0x28 4) = 0))) ∧
    (s.plat.mode = 2 → s.plat.idLost = false → exec (.mbExtend k) s = .next s) ∧
    (s.plat.mode ≠ 0 → s.plat.idLost = false → mayRun s (4, k) →
      (s.plat.mode ≠ 2 → (k.toNat < 4 ∨ 7 < k.toNat) → exec (.mbExtend k) s =
        .next { s with plat := { s.plat with cmdst := 3, mbcmd := none } }) ∧
      (s.plat.mode ≠ 2 → 4 ≤ k.toNat → k.toNat ≤ 7 → ∃ t, exec (.mbExtend k) s = .next t ∧ t.plat.cmdst = 2 ∧
        sparseGet (List.replicate 64 0) t.plat.meas k.toNat = digest (sparseGet (List.replicate 64 0) s.plat.meas k.toNat ++
          (List.range 64).map fun i => sparseGet 0 s.plat.mbdata i))) ∧
    (s.plat.cmdst = 1 → exec (.registerWrite 0x3F00008 v) s = .next s) ∧
    (s.plat.mode ≠ 0 → s.plat.cmdst ≠ 1 → ∀ i p, mailboxRow (v.extractLsb' 8 8) i p → (v.extractLsb' 0 8).toNat = p.1 →
      (p.1 = 4 → s.plat.mode ≠ 2 ∨ s.plat.idLost = true) →
      exec (.registerWrite 0x3F00008 v) s = .next { s with plat := { s.plat with cmdst := 1, mbcmd := some p } }) ∧
    exec (.registerWrite 0x18 v) s = .next { s with plat := { s.plat with glost := v } } ∧
    (∃ t, exec (.registerWrite off v) s = .next t) ∧
    (off % 8 ≠ 0 → exec (.registerWrite off v) s = .next s) ∧
    exec (.registerWrite 0x1000000 v) s = exec (.temperWrite v) s ∧ exec (.registerWrite 0x1000010 v) s = exec (.fenceDieWrite v) s ∧
    (s.plat.mode ≠ 2 →
      (∀ j, j < 256 → exec (.registerWrite (0x100000 + 4096 * j) v) s = exec (.hostDoorbell j v) s) ∧
      exec (.registerWrite 0x1000300 v) s = exec (.trctlWrite v) s ∧ exec (.registerWrite 0x1000100 v) s = exec (.scrubctlWrite v) s)

/-- R392, R441, R445 to R447: what the resets, the Quench alarms, a function-level reset and the failure of a part leave; an INSTALL
that one of them interrupts leaves its target slot invalid. The model's choice: a failed core counts as fenced, every word of a failed
stack as poisoned, and a die takes its two stacks with it (log 78); a warm reset keeps the extents (log 80). -/
def Obligations.ResetsAndFailures : Prop :=
  ∀ (s : State) (vf g : Nat),
    (∃ t, exec .coldReset s = .next t ∧ t.ctxs = [] ∧ t.hearth = {} ∧ t.plat.mode = 0 ∧ (noInstall s → t.plat.flash = s.plat.flash) ∧
      t.plat.cfgsvn = s.plat.cfgsvn ∧ (Memory.wf s.mem → ∀ a, t.memByte a = if onDevice a then 0 else s.memByte a)) ∧
    (∃ t, exec .warmReset s = .next t ∧ exec .hearthWatchdog s = .next t ∧ t.mem = s.mem ∧ t.memPois = s.memPois ∧ t.plat.mode = 0 ∧
      t.plat.extents = s.plat.extents ∧ (noInstall s → t.plat.flash = s.plat.flash) ∧ ∀ h, h < 512 → t.ctx h = {}) ∧
    (∀ k : BitVec 8, s.plat.mbcmd = some (3, k) → k.toNat ≤ 1 → k.toNat ≠ s.plat.bootSlot →
      ∀ i ∈ [Instr.coldReset, .warmReset, .quenchLevel1, .quenchLevel2], ∃ t, exec i s = .next t ∧ t.flashByte (0x1000000 * (k.toNat + 1)) = 0) ∧
    (∃ t, exec .quenchLevel1 s = .next t ∧ t.plat.keys = false ∧ t.plat.qcount1 = s.plat.qcount1 + 1 ∧ t.mem = s.mem) ∧
    (∃ t, exec .quenchLevel2 s = .next t ∧ t.plat.keys = false ∧ t.plat.helperGone = true ∧ t.plat.qcount2 = s.plat.qcount2 + 1 ∧
      t.ctxs = [] ∧ (Memory.wf s.mem → ∀ a, onDevice a = true → t.memByte a = 0)) ∧
    (min 16 s.plat.cfg.nvf ≤ vf → exec (.vfFlr vf) s = .next s) ∧
    (vf < min 16 s.plat.cfg.nvf → ∃ t, exec (.vfFlr vf) s = .next t ∧ (∀ j, j / 16 = vf → (t.job j).state ≠ 1) ∧ (∀ j, j / 16 ≠ vf → t.job j = s.job j)) ∧
    (128 ≤ g → exec (.partFailure (.core g)) s = .next s) ∧
    (g < 128 → ∃ t, exec (.partFailure (.core g)) s = .next t ∧ t.coreFenced g = true ∧
      ∀ h, h < 512 → h / 4 = g → (t.ctx h).unit = none) ∧
    (g < 4 → ∃ t, exec (.partFailure (.die g)) s = .next t ∧ (∀ c, c / 32 = g → t.coreFenced c = true) ∧
      ∀ pa, pa < 0x8000000000 → pa / 2 ^ 37 = g → t.wordPois pa = true) ∧
    (g ≤ 8 → s.migHeader = none → (s.hearth.slots = [] ∨ (g ≠ 8 ∧ s.plat.deadStacks.contains 8 = false)) → ∃ t, exec (.partFailure (.stack g)) s = .next t ∧ t.mem = s.mem ∧ t.ctxs = s.ctxs ∧
      ∀ pa, pa < 0x40000000000 → memOf pa = g → t.wordPois pa = true) ∧
    (g < 16 → ∃ t, exec (.partFailure (.port g)) s = .next t ∧ g ∈ t.plat.portsDown ∧ t.mem = s.mem ∧ t.ctxs = s.ctxs)

/-- R10, R12, R23, R164, R282, R290, R367, R371: what the partition units, the banks, a `.ind` loop's clusters, drains and MS
faults do by themselves, and what the pager's and the host's answers do. -/
def Obligations.UnitsProgress : Prop :=
  ∀ (s : State) (core h slot : Nat),
    ((s.core core).moves = [] → exec (.partitionChange core) s = .next s) ∧
    (∀ m rest, (s.core core).moves = m :: rest →
      ((∃ q ∈ m.clus, (s.cluster q).pend = true) → exec (.partitionChange core) s = .next s) ∧
      ((∀ q ∈ m.clus, (s.cluster q).pend = false) → ∃ t, exec (.partitionChange core) s = .next t ∧ (t.core core).moves = rest ∧
        t.mem = s.mem ∧ t.ctxs = s.ctxs ∧ (∀ q, q ∉ m.clus → t.cluster q = s.cluster q) ∧
        ((s.ctx m.dest).unit.isSome = true → ∀ q ∈ m.clus, ∀ o, (s.cluster q).owner = some o → o ≠ m.dest → s.sameGang o m.dest = true →
          s.clusterFenced q = false → (t.cluster q).owner = some m.dest ∧ (t.cluster q).pend = true ∧ (t.cluster q).attached = (s.cluster q).attached) ∧
        ((s.ctx m.dest).unit.isSome = true → ∀ k t', m.heir = some (k, t') → s.sameGang k m.dest = true →
          (t.core core).heirs = (s.core core).heirs.setIfInBounds (ctxNo k) t') ∧
        (∀ q ∈ m.clus, s.clusterFenced q = true → t.cluster q = s.cluster q) ∧
        ((s.ctx m.dest).unit = none → t.clus = s.clus ∧ (t.core core).heirs = (s.core core).heirs))) ∧
    (((s.ctx h).loop.mode ≠ .ind ∨ (s.ctx h).loop.halt = true ∨ (s.ctx h).loop.rem = 0) → exec (.indStripTake h slot) s = .next s) ∧
    (∀ q g, (s.ctx h).loop.mode = .ind → (s.ctx h).loop.halt = false → (s.ctx h).loop.rem ≠ 0 → (s.ctx h).inBody = true →
      (s.ctx h).unit.bind (·.splice) = none → s.boundary h = s → (s.order h)[slot]? = some q →
      ((∃ j, j < slot ∧ s.slotFree h j = true) → exec (.indStripTake h slot) s = .next s) ∧
      ((s.cluster q).owner = some h → (∀ u ∈ (s.ctx h).loop.strips, u.slot ≠ slot) → (∀ j, j < slot → s.slotFree h j = false) →
        g = s.stripGrant h 1 (s.ctx h).loop.rem →
        exec (.indStripTake h slot) s = .next (s.setCtx h { s.ctx h with
          atWait := false
          loop := { (s.ctx h).loop with
            base := (s.ctx h).loop.base + g, rem := (s.ctx h).loop.rem - g
            strips := (s.ctx h).loop.strips ++ [{ slot := slot, base := (s.ctx h).loop.base, size := g, vl := g, off := 0
                                                  stop := none, first := (s.ctx h).loop.base, fin := (s.ctx h).loop.base + g }] } }))) ∧
    (∀ q b, ((s.bankReq.find? (·.1 = 16 * q + b) = none ∨ s.bankHeld (16 * q + b) = true) → exec (.bankSwitchDeferred q b) s = .next s) ∧
      (∀ k m, s.bankReq.find? (·.1 = 16 * q + b) = some (k, m) → s.bankHeld (16 * q + b) = false → canonical 0 s.bankMode = true → b < 16 →
        ∃ t, exec (.bankSwitchDeferred q b) s = .next t ∧ t.bankModeOf q b = m ∧ (∀ p ∈ t.bankReq, p.1 ≠ 16 * q + b) ∧ t.mem = s.mem)) ∧
    ((s.handle (24 * core + slot)).drains = [] → exec (.drainComplete core slot) s = .next s) ∧
    (∀ d l t0 r, (s.handle (24 * core + slot)).drains = d :: l → s.runDrain (24 * core + slot) = .ended t0 r →
      d.hart < 512 → (s.ctx d.hart).held = [] → (s.ctx d.hart).events.length < 16 → ∃ t, exec (.drainComplete core slot) s = .next t ∧
        t.mem = t0.mem ∧ (t.ctx d.hart).events = (s.ctx d.hart).events ++ [{ event := 2, tag := slot }] ∧
        (t.handle (24 * core + slot)).drains = l) ∧
    ((s.ms core).owner = none → exec (.msFaultReport core) s = .next s) ∧
    (∀ w l, (s.ms core).owner = some h → (s.ctx h).msFaults = w :: l → (s.ctx h).unit.isSome = true → (s.ctx h).mode = .user →
      (s.ctx h).loop.strips = [] → ∃ t, exec (.msFaultReport core) s = .next t ∧ t = s.setCtx h (t.ctx h) ∧ (t.ctx h).msFaults = l ∧
        entered (s.ctx h) (t.ctx h) false 35 (s.ctx h).pc w ∧ keptByEntry (s.ctx h) (t.ctx h)) ∧
    (∀ job pages, ∃ t, exec (.pagerReturn job pages) s = .next t) ∧
    (∀ job (va : Word) e1 e2 e3, canonicalVa va = true → Memory.wf s.mem → s.plat.ckRegs = [] →
      e1 = BitVec.ofNat 64 (s.memNat ((s.job job).root + 8 * (va.toNat / 2 ^ 42 % 128)) 8) → e1 &&& 15#64 = 1#64 →
      e2 = BitVec.ofNat 64 (s.memNat (pageOf e1 + 8 * (va.toNat / 2 ^ 29 % 8192)) 8) → e2 &&& 15#64 = 1#64 →
      e3 = BitVec.ofNat 64 (s.memNat (pageOf e2 + 8 * (va.toNat / 2 ^ 16 % 8192)) 8) → e3 &&& 14#64 ≠ 0#64 →
      (∀ p ∈ s.ctxs, p.2.pagerWait = false) → ∃ t, exec (.pagerReturn job [va]) s = .next t ∧
        t.memNat (pageOf e2 + 8 * (va.toNat / 2 ^ 16 % 8192)) 8 = (e3 ||| 1#64).toNat ∧
        ∀ g, (t.ctx g).pc = (s.ctx g).pc ∧ (t.ctx g).mode = (s.ctx g).mode) ∧
    (∀ c u, s.ctxs.filter (fun p => p.2.pagerWait && p.2.unit.any (·.job = u.job)) = [(h, c)] → s.ctx h = c → c.unit = some u →
      c.loop.mode ≠ .ind → (c.scause = 12 ∨ c.scause = 13 ∨ c.scause = 15) → s.resident u.job (c.stval.toNat / 65536) = true →
      s.hearth.unmapped.contains (u.job, c.stval.toNat / 65536) = false →
      ∃ t, exec (.pagerReturn u.job []) s = .next t ∧ (t.ctx h).pagerWait = false ∧ (t.ctx h).pc = c.sepc ∧ (t.ctx h).mode = c.spp ∧
        t.mem = s.mem) ∧
    ((∀ p ∈ s.ctxs, p.2.poolWait = false) → ∀ job, exec (.kvPoolRefill job) s =
      .next { s with hearth := { s.hearth with poolEvents := s.hearth.poolEvents.filter (· ≠ job) } }) ∧
    (∀ c u, s.ctxs.filter (fun p => p.2.poolWait && p.2.unit.any (·.job = u.job)) = [(h, c)] → s.ctx h = c → c.unit = some u →
      c.loop.mode ≠ .ind → c.scause = 32 → ∃ t, exec (.kvPoolRefill u.job) s = .next t ∧ (t.ctx h).poolWait = false ∧
        (t.ctx h).pc = c.sepc ∧ (t.ctx h).mode = c.spp ∧ t.mem = s.mem)

/-- R182 to R186, R377: the SYS group in supervisor mode. `xsave` writes the words of the save area once the earlier stores
are performed, and stops the unit's other agents; `xrest` puts back what an area holds; `mfset` exchanges through `mf`, and
`vrstset` a restart point. -/
def Obligations.SaveAndRestore : Prop :=
  ∀ (s : State) (h : Nat) (o : T48), s.who = .ct h → (s.ctx h).mode = .supervisor →
    ((s.rx o.a).toNat % 64 ≠ 0 → (∃ t, exec (.xsave o) s = .next t ∧ traps s t h 6 (s.rx o.a)) ∧
      ∃ t, exec (.xrest o) s = .next t ∧ traps s t h 4 (s.rx o.a)) ∧
    ((s.rx o.a).toNat % 64 = 0 → s.storesWait h = true → exec (.xsave o) s = .next s) ∧
    ((s.rx o.a).toNat % 64 = 0 → s.storesWait h = false → (∀ n, n < 16 → ((s.ctx h).stream n).bound = false) →
      ∀ words ps s1, words = (s.areaWords h ((s.rx o.b).setWidth 32) 0).mergeSort (fun a b => a.1 ≤ b.1) →
        resolveArea (s.rx o.a) .store (words.map (·.1)) s = (.ok ps, s1) → ∃ t, exec (.xsave o) s = .next t ∧ next s t 6 ∧
          (t.ctx h).park = .saved ∧ (t.ctx h).x = (s.ctx h).x ∧
          t.mem = ((ps.zip words).foldl (fun (u : State) p => match p.1 with
            | .mem x _ => u.homeWrite u.writer x.pa (fullBytes (natLe 8 p.2.2.toNat))
            | _ => u) s1).mem) ∧
    ((s.rx o.a).toNat % 64 = 0 → ∀ hd s1, loadWords (s.rx o.a) 2 s = (.ok hd, s1) →
      ((((hd.getD 1 0).extractLsb' 16 5).toNat ≠ (s.order h).length ∨ ((hd.getD 1 0).getLsbD 0 = true ∧ (s.ctx h).ownsMs = false)) → exec (.xrest o) s = .next (s1.trap 2 0)) ∧
      (∀ l s2 wins s3 body s4, ((hd.getD 1 0).extractLsb' 16 5).toNat = (s.order h).length → (hd.getD 1 0).getLsbD 0 = false →
        readRuns (s.rx o.a) (areaRuns (s.order h).length ((hd.getD 1 0).extractLsb' 32 32) false) s1 = (.ok l, s2) → areaWins (areaOf l) h true 16 s2 = (.ok wins, s3) →
        refetch ((areaOf l 0x278).getLsbD 33) (areaOf l 0x260)
          (if (areaOf l 0x258).toNat = 1 ∨ (areaOf l 0x258).toNat = 2 then min (areaOf l 0x268).toNat 512 else 0) s3 = (.ok body, s4) → ∃ t, exec (.xrest o) s = .next t ∧
            t = (s4.restore (areaOf l) h false (areaLoop (areaOf l) body) (winVec wins)).retire 6 ∧
            (t.ctx h).vl = (areaOf l 0x190).toNat ∧ (t.ctx h).vty = areaOf l 0x198 ∧ (t.ctx h).park = .restored)) ∧
    ((s.order h).Nodup → o.d.toNat < 8 → o.a.toNat < 8 → (∀ e, e < s.view.vlmax → s.mtRuns s.view e = false) → ∃ t, exec (.mfset o) s = .next t ∧ next s t 6 ∧ t.mem = s.mem ∧
      ∀ e, e < s.view.vlmax → t.maskBit s.view o.d.toNat e = s.maskBit s.view 8 e ∧
        t.maskBit s.view 8 e = if o.a = 0#5 then s.maskBit s.view 8 e else s.maskBit s.view o.a.toNat e) ∧
    ((s.order h).length ≤ (s.rx o.a).toNat % 16 → ∃ t, exec (.vrstset o) s = .next t ∧ next s t 6 ∧ onlyScalars s t 6 ∧
      wrote s t o.d 0xFFFFFFFFFFFFFFFF) ∧
    ((s.rx o.a).toNat % 16 < (s.order h).length → ∃ t, exec (.vrstset o) s = .next t ∧ next s t 6 ∧ t.mem = s.mem ∧
      wrote s t o.d ((s.ctx h).vrst.toArray.getD ((s.rx o.a).toNat % 16) 0xFFFFFFFFFFFFFFFF) ∧
      (t.ctx h).vrst.toArray.getD ((s.rx o.a).toNat % 16) 0xFFFFFFFFFFFFFFFF =
        if o.b = 0#5 then (s.ctx h).vrst.toArray.getD ((s.rx o.a).toNat % 16) 0xFFFFFFFFFFFFFFFF else s.rx o.b)

/-- R360 to R365: translation. A non-canonical VA is an access fault. A copy of another member of the page's CONT group
serves where the slice holds none of the page itself, and then memory does not change. Else the walk goes through the slice's
copies, or memory where it holds none, to the leaf; a leaf that must be updated and that memory no longer holds sends the walk
through memory alone. Memory changes only by A and D at the address of the leaf that the walk arrives at. The causes are those of R365; those of an
atomic that only POISON keeps from its leaf are the model's choice (log 100). -/
def Obligations.PageWalk : Prop :=
  ∀ (s : State) (sp : Space) (va : Word) (acc : Access),
    (canonicalVa va = true ↔ (va.toNat < 2 ^ 48 ∨ 2 ^ 64 - 2 ^ 48 ≤ va.toNat)) ∧
    (canonicalVa va = false → s.translateIn sp va acc = (.error .access, s)) ∧
    (canonicalVa va = true →
      let copied := ∃ t ∈ s.tlb, t.core = sp.core ∧ t.cls = classOf va.toNat ∧ t.job = sp.job ∧ t.level = 3 ∧ t.va = va.toNat / 2 ^ 16 % 2 ^ 33
      (∀ l, ¬ copied → contMember s sp va acc = some l → (s.translateIn sp va acc).2.mem = s.mem ∧
        translatesTo s sp.user acc (.ok (l.pte, l.addr, pageOf l.pte + va.toNat % 2 ^ 16)) (s.translateIn sp va acc)) ∧
      (copied ∨ contMember s sp va acc = none → ∀ r, walkSays (entryHeld s sp va) sp.root va r →
        (¬ stale s sp.user acc r → translatesTo s sp.user acc r (s.translateIn sp va acc)) ∧
        (stale s sp.user acc r → ∀ r', walkSays (fun _ _ a => entryAt s a) sp.root va r' →
          translatesTo s sp.user acc r' (s.translateIn sp va acc)))) ∧
    (scalarCause acc .page = if acc = .fetch then 12 else if acc = .load then 13 else 15) ∧
    (scalarCause acc .access = if acc = .fetch then 1 else if acc = .load then 5 else 7) ∧
    elementCause acc .page = 24 ∧
    (elementCause acc .access = if acc = .store ∨ acc = .amo ∨ acc = .probe ∨ acc = .amoProbe then 7 else 5) ∧
    scalarCause acc .poison = 26 ∧ elementCause acc .poison = 7

/-- The values that the spec's register tables give for reset (R42, R50, R53, R57, R156, R157, R174, R179, R186, R314, R366,
R375, R416, R423, R449, R453, R455, R461): the Tremel CSRs and the point slots of every context, and the platform's
registers. That the registers of R171, `ccap` without a unit, scalar registers, CKSET, ELOG, MIGRING, BAR2SEL and the fence
registers read 0 at reset is the model's choice (log 4), and so is that memory nothing has written reads 0 (log 3). -/
def Obligations.ResetValues : Prop :=
  (∀ h c, c = State.reset.ctx h →
    (c.vrm = 9 ∧ c.vpst = 0 ∧ c.vtb = 0 ∧ c.vsb = 0 ∧ c.vts = 0x3F800000 ∧ c.amax = 0 ∧ c.amaxn = 0 ∧ c.uivec = 0 ∧ c.uiepc = 0 ∧
      c.uicause = 0 ∧ c.vl = 0 ∧ c.vty = 2 ∧ c.ldst = 0 ∧ c.ccap = 0) ∧
    (c.sieBit = false ∧ c.spieBit = false ∧ c.sie = 0 ∧ c.sip = 0 ∧ c.stvec = 0 ∧ c.sscratch = 0 ∧ c.sepc = 0 ∧ c.scause = 0 ∧
      c.stval = 0 ∧ c.sfdesc = 0x0000F00000000000 ∧ c.sfbase = 0 ∧ c.sfstride = 0 ∧ c.sfrem = 0 ∧ c.spsn = 0) ∧
    (∀ k, k < 16 → c.vrst.toArray.getD k 0 = 0xFFFFFFFFFFFFFFFF ∧ (c.stream k).bound = false ∧ c.flags.toArray.getD k 1 = 0) ∧
    c.uimask = 0x1E ∧ c.events = [] ∧ c.queue = [] ∧ c.cmds = [] ∧ c.unit = none ∧ c.resv = none ∧ (∀ r, c.rx r = 0)) ∧
  State.reset.mem = [] ∧ (∀ a, State.reset.memByte a = 0) ∧ (∀ a n, State.reset.memPoisoned a n = false) ∧
  State.reset.plat.scrubctl = 0x0001518000000001 ∧ State.reset.plat.ckset = 0 ∧ State.reset.plat.temper.extractLsb' 0 11 = 1250#11 ∧
  State.reset.plat.trctl = 0x000000FF003E0000 ∧ State.reset.plat.stallctl = 0 ∧ State.reset.plat.elog = 0 ∧
  State.reset.plat.migring = 0 ∧ State.reset.plat.glost = 0 ∧ State.reset.plat.fenceDie = 0 ∧ State.reset.plat.fenceCore = 0 ∧
  State.reset.plat.fenceCl = 0 ∧ State.reset.plat.bar2sel = 0 ∧ State.reset.readBar 0 = 0

/-- The invariant of the memory's form holds at reset. -/
def Obligations.ResetMemoryForm : Prop := memoryForm State.reset

/-- Every step of the machine keeps the memory's form. -/
def Obligations.MemoryFormKept : Prop :=
  ∀ s t : State, memoryForm s → step s = .next t → memoryForm t
end

