-- ==== Sys2Proof/Laws/State.lean ====
section
/-! SUPPORT. What each update of the state leaves alone: one lemma per field and update, and reading back what a
sparse store was given. -/

namespace Sys2Proof.Machine
open Sys2Proof

/-! Sparse stores. -/

theorem sparseGet_put_self {α : Type} (d v : α) (m : Sparse α) (k : Nat) :
    sparseGet d (sparsePut m k v) k = v := by
  induction m with
  | nil => simp [sparsePut, sparseGet]
  | cons p t ih =>
    obtain ⟨k', v'⟩ := p
    unfold sparsePut
    split
    · simp [sparseGet]
    · split
      · simp [sparseGet]
      · (simp_all [sparseGet]) <;> omega

theorem sparseGet_put_ne {α : Type} (d v : α) (m : Sparse α) (k j : Nat) (h : j ≠ k) :
    sparseGet d (sparsePut m k v) j = sparseGet d m j := by
  induction m with
  | nil => simp [sparsePut, sparseGet, h]
  | cons p t ih =>
    obtain ⟨k', v'⟩ := p
    unfold sparsePut
    split
    · subst_vars; simp [sparseGet, h]
    · split
      · by_cases hj : j < k
        · have : j ≠ k' := by omega
          have : j < k' := by omega
          simp [sparseGet, *]
        · simp [sparseGet, *]
      · by_cases hj : j = k' <;> by_cases hk : j < k' <;> simp_all [sparseGet]

/-! Fields that an update leaves alone. -/

@[simp] theorem State.setCtx_who (s : State) (h : Nat) (c : Ctx) : (s.setCtx h c).who = s.who := rfl
@[simp] theorem State.setCtx_agenda (s : State) (h : Nat) (c : Ctx) : (s.setCtx h c).agenda = s.agenda := rfl
@[simp] theorem State.setCtx_tick (s : State) (h : Nat) (c : Ctx) : (s.setCtx h c).tick = s.tick := rfl
@[simp] theorem State.setCtx_free (s : State) (h : Nat) (c : Ctx) : (s.setCtx h c).free = s.free := rfl
@[simp] theorem State.setCtx_clus (s : State) (h : Nat) (c : Ctx) : (s.setCtx h c).clus = s.clus := rfl
@[simp] theorem State.setCtx_cores (s : State) (h : Nat) (c : Ctx) : (s.setCtx h c).cores = s.cores := rfl
@[simp] theorem State.setCtx_mss (s : State) (h : Nat) (c : Ctx) : (s.setCtx h c).mss = s.mss := rfl
@[simp] theorem State.setCtx_mem (s : State) (h : Nat) (c : Ctx) : (s.setCtx h c).mem = s.mem := rfl
@[simp] theorem State.setCtx_memPois (s : State) (h : Nat) (c : Ctx) : (s.setCtx h c).memPois = s.memPois := rfl
@[simp] theorem State.setCtx_memLog (s : State) (h : Nat) (c : Ctx) : (s.setCtx h c).memLog = s.memLog := rfl
@[simp] theorem State.setCtx_dirty (s : State) (h : Nat) (c : Ctx) : (s.setCtx h c).dirty = s.dirty := rfl
@[simp] theorem State.setCtx_migs (s : State) (h : Nat) (c : Ctx) : (s.setCtx h c).migs = s.migs := rfl
@[simp] theorem State.setCtx_ckNew (s : State) (h : Nat) (c : Ctx) : (s.setCtx h c).ckNew = s.ckNew := rfl
@[simp] theorem State.setCtx_vreg (s : State) (h : Nat) (c : Ctx) : (s.setCtx h c).vreg = s.vreg := rfl
@[simp] theorem State.setCtx_vpois (s : State) (h : Nat) (c : Ctx) : (s.setCtx h c).vpois = s.vpois := rfl
@[simp] theorem State.setCtx_mbit (s : State) (h : Nat) (c : Ctx) : (s.setCtx h c).mbit = s.mbit := rfl
@[simp] theorem State.setCtx_mpois (s : State) (h : Nat) (c : Ctx) : (s.setCtx h c).mpois = s.mpois := rfl
@[simp] theorem State.setCtx_mts (s : State) (h : Nat) (c : Ctx) : (s.setCtx h c).mts = s.mts := rfl
@[simp] theorem State.setCtx_splices (s : State) (h : Nat) (c : Ctx) : (s.setCtx h c).splices = s.splices := rfl
@[simp] theorem State.setCtx_bankMode (s : State) (h : Nat) (c : Ctx) : (s.setCtx h c).bankMode = s.bankMode := rfl
@[simp] theorem State.setCtx_bankReq (s : State) (h : Nat) (c : Ctx) : (s.setCtx h c).bankReq = s.bankReq := rfl
@[simp] theorem State.setCtx_scratch (s : State) (h : Nat) (c : Ctx) : (s.setCtx h c).scratch = s.scratch := rfl
@[simp] theorem State.setCtx_scratchPois (s : State) (h : Nat) (c : Ctx) : (s.setCtx h c).scratchPois = s.scratchPois := rfl
@[simp] theorem State.setCtx_ways (s : State) (h : Nat) (c : Ctx) : (s.setCtx h c).ways = s.ways := rfl
@[simp] theorem State.setCtx_tlb (s : State) (h : Nat) (c : Ctx) : (s.setCtx h c).tlb = s.tlb := rfl
@[simp] theorem State.setCtx_billets (s : State) (h : Nat) (c : Ctx) : (s.setCtx h c).billets = s.billets := rfl
@[simp] theorem State.setCtx_brow (s : State) (h : Nat) (c : Ctx) : (s.setCtx h c).brow = s.brow := rfl
@[simp] theorem State.setCtx_bpois (s : State) (h : Nat) (c : Ctx) : (s.setCtx h c).bpois = s.bpois := rfl
@[simp] theorem State.setCtx_bscale (s : State) (h : Nat) (c : Ctx) : (s.setCtx h c).bscale = s.bscale := rfl
@[simp] theorem State.setCtx_plate (s : State) (h : Nat) (c : Ctx) : (s.setCtx h c).plate = s.plate := rfl
@[simp] theorem State.setCtx_platePois (s : State) (h : Nat) (c : Ctx) : (s.setCtx h c).platePois = s.platePois := rfl
@[simp] theorem State.setCtx_segs (s : State) (h : Nat) (c : Ctx) : (s.setCtx h c).segs = s.segs := rfl
@[simp] theorem State.setCtx_cruc (s : State) (h : Nat) (c : Ctx) : (s.setCtx h c).cruc = s.cruc := rfl
@[simp] theorem State.setCtx_crucPois (s : State) (h : Nat) (c : Ctx) : (s.setCtx h c).crucPois = s.crucPois := rfl
@[simp] theorem State.setCtx_handles (s : State) (h : Nat) (c : Ctx) : (s.setCtx h c).handles = s.handles := rfl
@[simp] theorem State.setCtx_hearth (s : State) (h : Nat) (c : Ctx) : (s.setCtx h c).hearth = s.hearth := rfl
@[simp] theorem State.setCtx_plat (s : State) (h : Nat) (c : Ctx) : (s.setCtx h c).plat = s.plat := rfl

@[simp] theorem State.setMs_who (s : State) (g : Nat) (m : Ms) : (s.setMs g m).who = s.who := rfl
@[simp] theorem State.setMs_agenda (s : State) (g : Nat) (m : Ms) : (s.setMs g m).agenda = s.agenda := rfl
@[simp] theorem State.setMs_tick (s : State) (g : Nat) (m : Ms) : (s.setMs g m).tick = s.tick := rfl
@[simp] theorem State.setMs_free (s : State) (g : Nat) (m : Ms) : (s.setMs g m).free = s.free := rfl
@[simp] theorem State.setMs_ctxs (s : State) (g : Nat) (m : Ms) : (s.setMs g m).ctxs = s.ctxs := rfl
@[simp] theorem State.setMs_clus (s : State) (g : Nat) (m : Ms) : (s.setMs g m).clus = s.clus := rfl
@[simp] theorem State.setMs_cores (s : State) (g : Nat) (m : Ms) : (s.setMs g m).cores = s.cores := rfl
@[simp] theorem State.setMs_mem (s : State) (g : Nat) (m : Ms) : (s.setMs g m).mem = s.mem := rfl
@[simp] theorem State.setMs_memPois (s : State) (g : Nat) (m : Ms) : (s.setMs g m).memPois = s.memPois := rfl
@[simp] theorem State.setMs_memLog (s : State) (g : Nat) (m : Ms) : (s.setMs g m).memLog = s.memLog := rfl
@[simp] theorem State.setMs_dirty (s : State) (g : Nat) (m : Ms) : (s.setMs g m).dirty = s.dirty := rfl
@[simp] theorem State.setMs_migs (s : State) (g : Nat) (m : Ms) : (s.setMs g m).migs = s.migs := rfl
@[simp] theorem State.setMs_ckNew (s : State) (g : Nat) (m : Ms) : (s.setMs g m).ckNew = s.ckNew := rfl
@[simp] theorem State.setMs_vreg (s : State) (g : Nat) (m : Ms) : (s.setMs g m).vreg = s.vreg := rfl
@[simp] theorem State.setMs_vpois (s : State) (g : Nat) (m : Ms) : (s.setMs g m).vpois = s.vpois := rfl
@[simp] theorem State.setMs_mbit (s : State) (g : Nat) (m : Ms) : (s.setMs g m).mbit = s.mbit := rfl
@[simp] theorem State.setMs_mpois (s : State) (g : Nat) (m : Ms) : (s.setMs g m).mpois = s.mpois := rfl
@[simp] theorem State.setMs_mts (s : State) (g : Nat) (m : Ms) : (s.setMs g m).mts = s.mts := rfl
@[simp] theorem State.setMs_splices (s : State) (g : Nat) (m : Ms) : (s.setMs g m).splices = s.splices := rfl
@[simp] theorem State.setMs_bankMode (s : State) (g : Nat) (m : Ms) : (s.setMs g m).bankMode = s.bankMode := rfl
@[simp] theorem State.setMs_bankReq (s : State) (g : Nat) (m : Ms) : (s.setMs g m).bankReq = s.bankReq := rfl
@[simp] theorem State.setMs_scratch (s : State) (g : Nat) (m : Ms) : (s.setMs g m).scratch = s.scratch := rfl
@[simp] theorem State.setMs_scratchPois (s : State) (g : Nat) (m : Ms) : (s.setMs g m).scratchPois = s.scratchPois := rfl
@[simp] theorem State.setMs_ways (s : State) (g : Nat) (m : Ms) : (s.setMs g m).ways = s.ways := rfl
@[simp] theorem State.setMs_tlb (s : State) (g : Nat) (m : Ms) : (s.setMs g m).tlb = s.tlb := rfl
@[simp] theorem State.setMs_billets (s : State) (g : Nat) (m : Ms) : (s.setMs g m).billets = s.billets := rfl
@[simp] theorem State.setMs_brow (s : State) (g : Nat) (m : Ms) : (s.setMs g m).brow = s.brow := rfl
@[simp] theorem State.setMs_bpois (s : State) (g : Nat) (m : Ms) : (s.setMs g m).bpois = s.bpois := rfl
@[simp] theorem State.setMs_bscale (s : State) (g : Nat) (m : Ms) : (s.setMs g m).bscale = s.bscale := rfl
@[simp] theorem State.setMs_plate (s : State) (g : Nat) (m : Ms) : (s.setMs g m).plate = s.plate := rfl
@[simp] theorem State.setMs_platePois (s : State) (g : Nat) (m : Ms) : (s.setMs g m).platePois = s.platePois := rfl
@[simp] theorem State.setMs_segs (s : State) (g : Nat) (m : Ms) : (s.setMs g m).segs = s.segs := rfl
@[simp] theorem State.setMs_cruc (s : State) (g : Nat) (m : Ms) : (s.setMs g m).cruc = s.cruc := rfl
@[simp] theorem State.setMs_crucPois (s : State) (g : Nat) (m : Ms) : (s.setMs g m).crucPois = s.crucPois := rfl
@[simp] theorem State.setMs_handles (s : State) (g : Nat) (m : Ms) : (s.setMs g m).handles = s.handles := rfl
@[simp] theorem State.setMs_hearth (s : State) (g : Nat) (m : Ms) : (s.setMs g m).hearth = s.hearth := rfl
@[simp] theorem State.setMs_plat (s : State) (g : Nat) (m : Ms) : (s.setMs g m).plat = s.plat := rfl

@[simp] theorem State.setCore_who (s : State) (g : Nat) (c : Core) : (s.setCore g c).who = s.who := rfl
@[simp] theorem State.setCore_agenda (s : State) (g : Nat) (c : Core) : (s.setCore g c).agenda = s.agenda := rfl
@[simp] theorem State.setCore_tick (s : State) (g : Nat) (c : Core) : (s.setCore g c).tick = s.tick := rfl
@[simp] theorem State.setCore_free (s : State) (g : Nat) (c : Core) : (s.setCore g c).free = s.free := rfl
@[simp] theorem State.setCore_ctxs (s : State) (g : Nat) (c : Core) : (s.setCore g c).ctxs = s.ctxs := rfl
@[simp] theorem State.setCore_clus (s : State) (g : Nat) (c : Core) : (s.setCore g c).clus = s.clus := rfl
@[simp] theorem State.setCore_mss (s : State) (g : Nat) (c : Core) : (s.setCore g c).mss = s.mss := rfl
@[simp] theorem State.setCore_mem (s : State) (g : Nat) (c : Core) : (s.setCore g c).mem = s.mem := rfl
@[simp] theorem State.setCore_memPois (s : State) (g : Nat) (c : Core) : (s.setCore g c).memPois = s.memPois := rfl
@[simp] theorem State.setCore_memLog (s : State) (g : Nat) (c : Core) : (s.setCore g c).memLog = s.memLog := rfl
@[simp] theorem State.setCore_dirty (s : State) (g : Nat) (c : Core) : (s.setCore g c).dirty = s.dirty := rfl
@[simp] theorem State.setCore_migs (s : State) (g : Nat) (c : Core) : (s.setCore g c).migs = s.migs := rfl
@[simp] theorem State.setCore_ckNew (s : State) (g : Nat) (c : Core) : (s.setCore g c).ckNew = s.ckNew := rfl
@[simp] theorem State.setCore_vreg (s : State) (g : Nat) (c : Core) : (s.setCore g c).vreg = s.vreg := rfl
@[simp] theorem State.setCore_vpois (s : State) (g : Nat) (c : Core) : (s.setCore g c).vpois = s.vpois := rfl
@[simp] theorem State.setCore_mbit (s : State) (g : Nat) (c : Core) : (s.setCore g c).mbit = s.mbit := rfl
@[simp] theorem State.setCore_mpois (s : State) (g : Nat) (c : Core) : (s.setCore g c).mpois = s.mpois := rfl
@[simp] theorem State.setCore_mts (s : State) (g : Nat) (c : Core) : (s.setCore g c).mts = s.mts := rfl
@[simp] theorem State.setCore_splices (s : State) (g : Nat) (c : Core) : (s.setCore g c).splices = s.splices := rfl
@[simp] theorem State.setCore_bankMode (s : State) (g : Nat) (c : Core) : (s.setCore g c).bankMode = s.bankMode := rfl
@[simp] theorem State.setCore_bankReq (s : State) (g : Nat) (c : Core) : (s.setCore g c).bankReq = s.bankReq := rfl
@[simp] theorem State.setCore_scratch (s : State) (g : Nat) (c : Core) : (s.setCore g c).scratch = s.scratch := rfl
@[simp] theorem State.setCore_scratchPois (s : State) (g : Nat) (c : Core) : (s.setCore g c).scratchPois = s.scratchPois := rfl
@[simp] theorem State.setCore_ways (s : State) (g : Nat) (c : Core) : (s.setCore g c).ways = s.ways := rfl
@[simp] theorem State.setCore_tlb (s : State) (g : Nat) (c : Core) : (s.setCore g c).tlb = s.tlb := rfl
@[simp] theorem State.setCore_billets (s : State) (g : Nat) (c : Core) : (s.setCore g c).billets = s.billets := rfl
@[simp] theorem State.setCore_brow (s : State) (g : Nat) (c : Core) : (s.setCore g c).brow = s.brow := rfl
@[simp] theorem State.setCore_bpois (s : State) (g : Nat) (c : Core) : (s.setCore g c).bpois = s.bpois := rfl
@[simp] theorem State.setCore_bscale (s : State) (g : Nat) (c : Core) : (s.setCore g c).bscale = s.bscale := rfl
@[simp] theorem State.setCore_plate (s : State) (g : Nat) (c : Core) : (s.setCore g c).plate = s.plate := rfl
@[simp] theorem State.setCore_platePois (s : State) (g : Nat) (c : Core) : (s.setCore g c).platePois = s.platePois := rfl
@[simp] theorem State.setCore_segs (s : State) (g : Nat) (c : Core) : (s.setCore g c).segs = s.segs := rfl
@[simp] theorem State.setCore_cruc (s : State) (g : Nat) (c : Core) : (s.setCore g c).cruc = s.cruc := rfl
@[simp] theorem State.setCore_crucPois (s : State) (g : Nat) (c : Core) : (s.setCore g c).crucPois = s.crucPois := rfl
@[simp] theorem State.setCore_handles (s : State) (g : Nat) (c : Core) : (s.setCore g c).handles = s.handles := rfl
@[simp] theorem State.setCore_hearth (s : State) (g : Nat) (c : Core) : (s.setCore g c).hearth = s.hearth := rfl
@[simp] theorem State.setCore_plat (s : State) (g : Nat) (c : Core) : (s.setCore g c).plat = s.plat := rfl

@[simp] theorem State.setCluster_who (s : State) (q : Nat) (c : Clus) : (s.setCluster q c).who = s.who := rfl
@[simp] theorem State.setCluster_agenda (s : State) (q : Nat) (c : Clus) : (s.setCluster q c).agenda = s.agenda := rfl
@[simp] theorem State.setCluster_tick (s : State) (q : Nat) (c : Clus) : (s.setCluster q c).tick = s.tick := rfl
@[simp] theorem State.setCluster_free (s : State) (q : Nat) (c : Clus) : (s.setCluster q c).free = s.free := rfl
@[simp] theorem State.setCluster_ctxs (s : State) (q : Nat) (c : Clus) : (s.setCluster q c).ctxs = s.ctxs := rfl
@[simp] theorem State.setCluster_cores (s : State) (q : Nat) (c : Clus) : (s.setCluster q c).cores = s.cores := rfl
@[simp] theorem State.setCluster_mss (s : State) (q : Nat) (c : Clus) : (s.setCluster q c).mss = s.mss := rfl
@[simp] theorem State.setCluster_mem (s : State) (q : Nat) (c : Clus) : (s.setCluster q c).mem = s.mem := rfl
@[simp] theorem State.setCluster_memPois (s : State) (q : Nat) (c : Clus) : (s.setCluster q c).memPois = s.memPois := rfl
@[simp] theorem State.setCluster_memLog (s : State) (q : Nat) (c : Clus) : (s.setCluster q c).memLog = s.memLog := rfl
@[simp] theorem State.setCluster_dirty (s : State) (q : Nat) (c : Clus) : (s.setCluster q c).dirty = s.dirty := rfl
@[simp] theorem State.setCluster_migs (s : State) (q : Nat) (c : Clus) : (s.setCluster q c).migs = s.migs := rfl
@[simp] theorem State.setCluster_ckNew (s : State) (q : Nat) (c : Clus) : (s.setCluster q c).ckNew = s.ckNew := rfl
@[simp] theorem State.setCluster_vreg (s : State) (q : Nat) (c : Clus) : (s.setCluster q c).vreg = s.vreg := rfl
@[simp] theorem State.setCluster_vpois (s : State) (q : Nat) (c : Clus) : (s.setCluster q c).vpois = s.vpois := rfl
@[simp] theorem State.setCluster_mbit (s : State) (q : Nat) (c : Clus) : (s.setCluster q c).mbit = s.mbit := rfl
@[simp] theorem State.setCluster_mpois (s : State) (q : Nat) (c : Clus) : (s.setCluster q c).mpois = s.mpois := rfl
@[simp] theorem State.setCluster_mts (s : State) (q : Nat) (c : Clus) : (s.setCluster q c).mts = s.mts := rfl
@[simp] theorem State.setCluster_splices (s : State) (q : Nat) (c : Clus) : (s.setCluster q c).splices = s.splices := rfl
@[simp] theorem State.setCluster_bankMode (s : State) (q : Nat) (c : Clus) : (s.setCluster q c).bankMode = s.bankMode := rfl
@[simp] theorem State.setCluster_bankReq (s : State) (q : Nat) (c : Clus) : (s.setCluster q c).bankReq = s.bankReq := rfl
@[simp] theorem State.setCluster_scratch (s : State) (q : Nat) (c : Clus) : (s.setCluster q c).scratch = s.scratch := rfl
@[simp] theorem State.setCluster_scratchPois (s : State) (q : Nat) (c : Clus) : (s.setCluster q c).scratchPois = s.scratchPois := rfl
@[simp] theorem State.setCluster_ways (s : State) (q : Nat) (c : Clus) : (s.setCluster q c).ways = s.ways := rfl
@[simp] theorem State.setCluster_tlb (s : State) (q : Nat) (c : Clus) : (s.setCluster q c).tlb = s.tlb := rfl
@[simp] theorem State.setCluster_billets (s : State) (q : Nat) (c : Clus) : (s.setCluster q c).billets = s.billets := rfl
@[simp] theorem State.setCluster_brow (s : State) (q : Nat) (c : Clus) : (s.setCluster q c).brow = s.brow := rfl
@[simp] theorem State.setCluster_bpois (s : State) (q : Nat) (c : Clus) : (s.setCluster q c).bpois = s.bpois := rfl
@[simp] theorem State.setCluster_bscale (s : State) (q : Nat) (c : Clus) : (s.setCluster q c).bscale = s.bscale := rfl
@[simp] theorem State.setCluster_plate (s : State) (q : Nat) (c : Clus) : (s.setCluster q c).plate = s.plate := rfl
@[simp] theorem State.setCluster_platePois (s : State) (q : Nat) (c : Clus) : (s.setCluster q c).platePois = s.platePois := rfl
@[simp] theorem State.setCluster_segs (s : State) (q : Nat) (c : Clus) : (s.setCluster q c).segs = s.segs := rfl
@[simp] theorem State.setCluster_cruc (s : State) (q : Nat) (c : Clus) : (s.setCluster q c).cruc = s.cruc := rfl
@[simp] theorem State.setCluster_crucPois (s : State) (q : Nat) (c : Clus) : (s.setCluster q c).crucPois = s.crucPois := rfl
@[simp] theorem State.setCluster_handles (s : State) (q : Nat) (c : Clus) : (s.setCluster q c).handles = s.handles := rfl
@[simp] theorem State.setCluster_hearth (s : State) (q : Nat) (c : Clus) : (s.setCluster q c).hearth = s.hearth := rfl
@[simp] theorem State.setCluster_plat (s : State) (q : Nat) (c : Clus) : (s.setCluster q c).plat = s.plat := rfl

@[simp] theorem State.modCtx_who (s : State) (h : Nat) (f : Ctx → Ctx) : (s.modCtx h f).who = s.who := rfl
@[simp] theorem State.modCtx_agenda (s : State) (h : Nat) (f : Ctx → Ctx) : (s.modCtx h f).agenda = s.agenda := rfl
@[simp] theorem State.modCtx_tick (s : State) (h : Nat) (f : Ctx → Ctx) : (s.modCtx h f).tick = s.tick := rfl
@[simp] theorem State.modCtx_free (s : State) (h : Nat) (f : Ctx → Ctx) : (s.modCtx h f).free = s.free := rfl
@[simp] theorem State.modCtx_clus (s : State) (h : Nat) (f : Ctx → Ctx) : (s.modCtx h f).clus = s.clus := rfl
@[simp] theorem State.modCtx_cores (s : State) (h : Nat) (f : Ctx → Ctx) : (s.modCtx h f).cores = s.cores := rfl
@[simp] theorem State.modCtx_mss (s : State) (h : Nat) (f : Ctx → Ctx) : (s.modCtx h f).mss = s.mss := rfl
@[simp] theorem State.modCtx_mem (s : State) (h : Nat) (f : Ctx → Ctx) : (s.modCtx h f).mem = s.mem := rfl
@[simp] theorem State.modCtx_memPois (s : State) (h : Nat) (f : Ctx → Ctx) : (s.modCtx h f).memPois = s.memPois := rfl
@[simp] theorem State.modCtx_memLog (s : State) (h : Nat) (f : Ctx → Ctx) : (s.modCtx h f).memLog = s.memLog := rfl
@[simp] theorem State.modCtx_dirty (s : State) (h : Nat) (f : Ctx → Ctx) : (s.modCtx h f).dirty = s.dirty := rfl
@[simp] theorem State.modCtx_migs (s : State) (h : Nat) (f : Ctx → Ctx) : (s.modCtx h f).migs = s.migs := rfl
@[simp] theorem State.modCtx_ckNew (s : State) (h : Nat) (f : Ctx → Ctx) : (s.modCtx h f).ckNew = s.ckNew := rfl
@[simp] theorem State.modCtx_vreg (s : State) (h : Nat) (f : Ctx → Ctx) : (s.modCtx h f).vreg = s.vreg := rfl
@[simp] theorem State.modCtx_vpois (s : State) (h : Nat) (f : Ctx → Ctx) : (s.modCtx h f).vpois = s.vpois := rfl
@[simp] theorem State.modCtx_mbit (s : State) (h : Nat) (f : Ctx → Ctx) : (s.modCtx h f).mbit = s.mbit := rfl
@[simp] theorem State.modCtx_mpois (s : State) (h : Nat) (f : Ctx → Ctx) : (s.modCtx h f).mpois = s.mpois := rfl
@[simp] theorem State.modCtx_mts (s : State) (h : Nat) (f : Ctx → Ctx) : (s.modCtx h f).mts = s.mts := rfl
@[simp] theorem State.modCtx_splices (s : State) (h : Nat) (f : Ctx → Ctx) : (s.modCtx h f).splices = s.splices := rfl
@[simp] theorem State.modCtx_bankMode (s : State) (h : Nat) (f : Ctx → Ctx) : (s.modCtx h f).bankMode = s.bankMode := rfl
@[simp] theorem State.modCtx_bankReq (s : State) (h : Nat) (f : Ctx → Ctx) : (s.modCtx h f).bankReq = s.bankReq := rfl
@[simp] theorem State.modCtx_scratch (s : State) (h : Nat) (f : Ctx → Ctx) : (s.modCtx h f).scratch = s.scratch := rfl
@[simp] theorem State.modCtx_scratchPois (s : State) (h : Nat) (f : Ctx → Ctx) : (s.modCtx h f).scratchPois = s.scratchPois := rfl
@[simp] theorem State.modCtx_ways (s : State) (h : Nat) (f : Ctx → Ctx) : (s.modCtx h f).ways = s.ways := rfl
@[simp] theorem State.modCtx_tlb (s : State) (h : Nat) (f : Ctx → Ctx) : (s.modCtx h f).tlb = s.tlb := rfl
@[simp] theorem State.modCtx_billets (s : State) (h : Nat) (f : Ctx → Ctx) : (s.modCtx h f).billets = s.billets := rfl
@[simp] theorem State.modCtx_brow (s : State) (h : Nat) (f : Ctx → Ctx) : (s.modCtx h f).brow = s.brow := rfl
@[simp] theorem State.modCtx_bpois (s : State) (h : Nat) (f : Ctx → Ctx) : (s.modCtx h f).bpois = s.bpois := rfl
@[simp] theorem State.modCtx_bscale (s : State) (h : Nat) (f : Ctx → Ctx) : (s.modCtx h f).bscale = s.bscale := rfl
@[simp] theorem State.modCtx_plate (s : State) (h : Nat) (f : Ctx → Ctx) : (s.modCtx h f).plate = s.plate := rfl
@[simp] theorem State.modCtx_platePois (s : State) (h : Nat) (f : Ctx → Ctx) : (s.modCtx h f).platePois = s.platePois := rfl
@[simp] theorem State.modCtx_segs (s : State) (h : Nat) (f : Ctx → Ctx) : (s.modCtx h f).segs = s.segs := rfl
@[simp] theorem State.modCtx_cruc (s : State) (h : Nat) (f : Ctx → Ctx) : (s.modCtx h f).cruc = s.cruc := rfl
@[simp] theorem State.modCtx_crucPois (s : State) (h : Nat) (f : Ctx → Ctx) : (s.modCtx h f).crucPois = s.crucPois := rfl
@[simp] theorem State.modCtx_handles (s : State) (h : Nat) (f : Ctx → Ctx) : (s.modCtx h f).handles = s.handles := rfl
@[simp] theorem State.modCtx_hearth (s : State) (h : Nat) (f : Ctx → Ctx) : (s.modCtx h f).hearth = s.hearth := rfl
@[simp] theorem State.modCtx_plat (s : State) (h : Nat) (f : Ctx → Ctx) : (s.modCtx h f).plat = s.plat := rfl

@[simp] theorem State.modMs_who (s : State) (g : Nat) (f : Ms → Ms) : (s.modMs g f).who = s.who := rfl
@[simp] theorem State.modMs_agenda (s : State) (g : Nat) (f : Ms → Ms) : (s.modMs g f).agenda = s.agenda := rfl
@[simp] theorem State.modMs_tick (s : State) (g : Nat) (f : Ms → Ms) : (s.modMs g f).tick = s.tick := rfl
@[simp] theorem State.modMs_free (s : State) (g : Nat) (f : Ms → Ms) : (s.modMs g f).free = s.free := rfl
@[simp] theorem State.modMs_ctxs (s : State) (g : Nat) (f : Ms → Ms) : (s.modMs g f).ctxs = s.ctxs := rfl
@[simp] theorem State.modMs_clus (s : State) (g : Nat) (f : Ms → Ms) : (s.modMs g f).clus = s.clus := rfl
@[simp] theorem State.modMs_cores (s : State) (g : Nat) (f : Ms → Ms) : (s.modMs g f).cores = s.cores := rfl
@[simp] theorem State.modMs_mem (s : State) (g : Nat) (f : Ms → Ms) : (s.modMs g f).mem = s.mem := rfl
@[simp] theorem State.modMs_memPois (s : State) (g : Nat) (f : Ms → Ms) : (s.modMs g f).memPois = s.memPois := rfl
@[simp] theorem State.modMs_memLog (s : State) (g : Nat) (f : Ms → Ms) : (s.modMs g f).memLog = s.memLog := rfl
@[simp] theorem State.modMs_dirty (s : State) (g : Nat) (f : Ms → Ms) : (s.modMs g f).dirty = s.dirty := rfl
@[simp] theorem State.modMs_migs (s : State) (g : Nat) (f : Ms → Ms) : (s.modMs g f).migs = s.migs := rfl
@[simp] theorem State.modMs_ckNew (s : State) (g : Nat) (f : Ms → Ms) : (s.modMs g f).ckNew = s.ckNew := rfl
@[simp] theorem State.modMs_vreg (s : State) (g : Nat) (f : Ms → Ms) : (s.modMs g f).vreg = s.vreg := rfl
@[simp] theorem State.modMs_vpois (s : State) (g : Nat) (f : Ms → Ms) : (s.modMs g f).vpois = s.vpois := rfl
@[simp] theorem State.modMs_mbit (s : State) (g : Nat) (f : Ms → Ms) : (s.modMs g f).mbit = s.mbit := rfl
@[simp] theorem State.modMs_mpois (s : State) (g : Nat) (f : Ms → Ms) : (s.modMs g f).mpois = s.mpois := rfl
@[simp] theorem State.modMs_mts (s : State) (g : Nat) (f : Ms → Ms) : (s.modMs g f).mts = s.mts := rfl
@[simp] theorem State.modMs_splices (s : State) (g : Nat) (f : Ms → Ms) : (s.modMs g f).splices = s.splices := rfl
@[simp] theorem State.modMs_bankMode (s : State) (g : Nat) (f : Ms → Ms) : (s.modMs g f).bankMode = s.bankMode := rfl
@[simp] theorem State.modMs_bankReq (s : State) (g : Nat) (f : Ms → Ms) : (s.modMs g f).bankReq = s.bankReq := rfl
@[simp] theorem State.modMs_scratch (s : State) (g : Nat) (f : Ms → Ms) : (s.modMs g f).scratch = s.scratch := rfl
@[simp] theorem State.modMs_scratchPois (s : State) (g : Nat) (f : Ms → Ms) : (s.modMs g f).scratchPois = s.scratchPois := rfl
@[simp] theorem State.modMs_ways (s : State) (g : Nat) (f : Ms → Ms) : (s.modMs g f).ways = s.ways := rfl
@[simp] theorem State.modMs_tlb (s : State) (g : Nat) (f : Ms → Ms) : (s.modMs g f).tlb = s.tlb := rfl
@[simp] theorem State.modMs_billets (s : State) (g : Nat) (f : Ms → Ms) : (s.modMs g f).billets = s.billets := rfl
@[simp] theorem State.modMs_brow (s : State) (g : Nat) (f : Ms → Ms) : (s.modMs g f).brow = s.brow := rfl
@[simp] theorem State.modMs_bpois (s : State) (g : Nat) (f : Ms → Ms) : (s.modMs g f).bpois = s.bpois := rfl
@[simp] theorem State.modMs_bscale (s : State) (g : Nat) (f : Ms → Ms) : (s.modMs g f).bscale = s.bscale := rfl
@[simp] theorem State.modMs_plate (s : State) (g : Nat) (f : Ms → Ms) : (s.modMs g f).plate = s.plate := rfl
@[simp] theorem State.modMs_platePois (s : State) (g : Nat) (f : Ms → Ms) : (s.modMs g f).platePois = s.platePois := rfl
@[simp] theorem State.modMs_segs (s : State) (g : Nat) (f : Ms → Ms) : (s.modMs g f).segs = s.segs := rfl
@[simp] theorem State.modMs_cruc (s : State) (g : Nat) (f : Ms → Ms) : (s.modMs g f).cruc = s.cruc := rfl
@[simp] theorem State.modMs_crucPois (s : State) (g : Nat) (f : Ms → Ms) : (s.modMs g f).crucPois = s.crucPois := rfl
@[simp] theorem State.modMs_handles (s : State) (g : Nat) (f : Ms → Ms) : (s.modMs g f).handles = s.handles := rfl
@[simp] theorem State.modMs_hearth (s : State) (g : Nat) (f : Ms → Ms) : (s.modMs g f).hearth = s.hearth := rfl
@[simp] theorem State.modMs_plat (s : State) (g : Nat) (f : Ms → Ms) : (s.modMs g f).plat = s.plat := rfl

@[simp] theorem State.homeWrite_who (s : State) (w : Writer) (pa : Nat) (bs : List (Byte × Byte)) : (s.homeWrite w pa bs).who = s.who := rfl
@[simp] theorem State.homeWrite_agenda (s : State) (w : Writer) (pa : Nat) (bs : List (Byte × Byte)) : (s.homeWrite w pa bs).agenda = s.agenda := rfl
@[simp] theorem State.homeWrite_tick (s : State) (w : Writer) (pa : Nat) (bs : List (Byte × Byte)) : (s.homeWrite w pa bs).tick = s.tick := rfl
@[simp] theorem State.homeWrite_free (s : State) (w : Writer) (pa : Nat) (bs : List (Byte × Byte)) : (s.homeWrite w pa bs).free = s.free := rfl
@[simp] theorem State.homeWrite_clus (s : State) (w : Writer) (pa : Nat) (bs : List (Byte × Byte)) : (s.homeWrite w pa bs).clus = s.clus := rfl
@[simp] theorem State.homeWrite_cores (s : State) (w : Writer) (pa : Nat) (bs : List (Byte × Byte)) : (s.homeWrite w pa bs).cores = s.cores := rfl
@[simp] theorem State.homeWrite_mss (s : State) (w : Writer) (pa : Nat) (bs : List (Byte × Byte)) : (s.homeWrite w pa bs).mss = s.mss := rfl
@[simp] theorem State.homeWrite_vreg (s : State) (w : Writer) (pa : Nat) (bs : List (Byte × Byte)) : (s.homeWrite w pa bs).vreg = s.vreg := rfl
@[simp] theorem State.homeWrite_vpois (s : State) (w : Writer) (pa : Nat) (bs : List (Byte × Byte)) : (s.homeWrite w pa bs).vpois = s.vpois := rfl
@[simp] theorem State.homeWrite_mbit (s : State) (w : Writer) (pa : Nat) (bs : List (Byte × Byte)) : (s.homeWrite w pa bs).mbit = s.mbit := rfl
@[simp] theorem State.homeWrite_mpois (s : State) (w : Writer) (pa : Nat) (bs : List (Byte × Byte)) : (s.homeWrite w pa bs).mpois = s.mpois := rfl
@[simp] theorem State.homeWrite_mts (s : State) (w : Writer) (pa : Nat) (bs : List (Byte × Byte)) : (s.homeWrite w pa bs).mts = s.mts := rfl
@[simp] theorem State.homeWrite_splices (s : State) (w : Writer) (pa : Nat) (bs : List (Byte × Byte)) : (s.homeWrite w pa bs).splices = s.splices := rfl
@[simp] theorem State.homeWrite_bankMode (s : State) (w : Writer) (pa : Nat) (bs : List (Byte × Byte)) : (s.homeWrite w pa bs).bankMode = s.bankMode := rfl
@[simp] theorem State.homeWrite_bankReq (s : State) (w : Writer) (pa : Nat) (bs : List (Byte × Byte)) : (s.homeWrite w pa bs).bankReq = s.bankReq := rfl
@[simp] theorem State.homeWrite_scratch (s : State) (w : Writer) (pa : Nat) (bs : List (Byte × Byte)) : (s.homeWrite w pa bs).scratch = s.scratch := rfl
@[simp] theorem State.homeWrite_scratchPois (s : State) (w : Writer) (pa : Nat) (bs : List (Byte × Byte)) : (s.homeWrite w pa bs).scratchPois = s.scratchPois := rfl
@[simp] theorem State.homeWrite_tlb (s : State) (w : Writer) (pa : Nat) (bs : List (Byte × Byte)) : (s.homeWrite w pa bs).tlb = s.tlb := rfl
@[simp] theorem State.homeWrite_billets (s : State) (w : Writer) (pa : Nat) (bs : List (Byte × Byte)) : (s.homeWrite w pa bs).billets = s.billets := rfl
@[simp] theorem State.homeWrite_brow (s : State) (w : Writer) (pa : Nat) (bs : List (Byte × Byte)) : (s.homeWrite w pa bs).brow = s.brow := rfl
@[simp] theorem State.homeWrite_bpois (s : State) (w : Writer) (pa : Nat) (bs : List (Byte × Byte)) : (s.homeWrite w pa bs).bpois = s.bpois := rfl
@[simp] theorem State.homeWrite_bscale (s : State) (w : Writer) (pa : Nat) (bs : List (Byte × Byte)) : (s.homeWrite w pa bs).bscale = s.bscale := rfl
@[simp] theorem State.homeWrite_plate (s : State) (w : Writer) (pa : Nat) (bs : List (Byte × Byte)) : (s.homeWrite w pa bs).plate = s.plate := rfl
@[simp] theorem State.homeWrite_platePois (s : State) (w : Writer) (pa : Nat) (bs : List (Byte × Byte)) : (s.homeWrite w pa bs).platePois = s.platePois := rfl
@[simp] theorem State.homeWrite_segs (s : State) (w : Writer) (pa : Nat) (bs : List (Byte × Byte)) : (s.homeWrite w pa bs).segs = s.segs := rfl
@[simp] theorem State.homeWrite_cruc (s : State) (w : Writer) (pa : Nat) (bs : List (Byte × Byte)) : (s.homeWrite w pa bs).cruc = s.cruc := rfl
@[simp] theorem State.homeWrite_crucPois (s : State) (w : Writer) (pa : Nat) (bs : List (Byte × Byte)) : (s.homeWrite w pa bs).crucPois = s.crucPois := rfl
@[simp] theorem State.homeWrite_handles (s : State) (w : Writer) (pa : Nat) (bs : List (Byte × Byte)) : (s.homeWrite w pa bs).handles = s.handles := rfl
@[simp] theorem State.homeWrite_hearth (s : State) (w : Writer) (pa : Nat) (bs : List (Byte × Byte)) : (s.homeWrite w pa bs).hearth = s.hearth := rfl
@[simp] theorem State.homeWrite_plat (s : State) (w : Writer) (pa : Nat) (bs : List (Byte × Byte)) : (s.homeWrite w pa bs).plat = s.plat := rfl

@[simp] theorem State.setPois_who (s : State) (pa n : Nat) (p : Bool) : (s.setPois pa n p).who = s.who := rfl
@[simp] theorem State.setPois_agenda (s : State) (pa n : Nat) (p : Bool) : (s.setPois pa n p).agenda = s.agenda := rfl
@[simp] theorem State.setPois_tick (s : State) (pa n : Nat) (p : Bool) : (s.setPois pa n p).tick = s.tick := rfl
@[simp] theorem State.setPois_free (s : State) (pa n : Nat) (p : Bool) : (s.setPois pa n p).free = s.free := rfl
@[simp] theorem State.setPois_ctxs (s : State) (pa n : Nat) (p : Bool) : (s.setPois pa n p).ctxs = s.ctxs := rfl
@[simp] theorem State.setPois_clus (s : State) (pa n : Nat) (p : Bool) : (s.setPois pa n p).clus = s.clus := rfl
@[simp] theorem State.setPois_cores (s : State) (pa n : Nat) (p : Bool) : (s.setPois pa n p).cores = s.cores := rfl
@[simp] theorem State.setPois_mss (s : State) (pa n : Nat) (p : Bool) : (s.setPois pa n p).mss = s.mss := rfl
@[simp] theorem State.setPois_mem (s : State) (pa n : Nat) (p : Bool) : (s.setPois pa n p).mem = s.mem := rfl
@[simp] theorem State.setPois_memLog (s : State) (pa n : Nat) (p : Bool) : (s.setPois pa n p).memLog = s.memLog := rfl
@[simp] theorem State.setPois_dirty (s : State) (pa n : Nat) (p : Bool) : (s.setPois pa n p).dirty = s.dirty := rfl
@[simp] theorem State.setPois_migs (s : State) (pa n : Nat) (p : Bool) : (s.setPois pa n p).migs = s.migs := rfl
@[simp] theorem State.setPois_ckNew (s : State) (pa n : Nat) (p : Bool) : (s.setPois pa n p).ckNew = s.ckNew := rfl
@[simp] theorem State.setPois_vreg (s : State) (pa n : Nat) (p : Bool) : (s.setPois pa n p).vreg = s.vreg := rfl
@[simp] theorem State.setPois_vpois (s : State) (pa n : Nat) (p : Bool) : (s.setPois pa n p).vpois = s.vpois := rfl
@[simp] theorem State.setPois_mbit (s : State) (pa n : Nat) (p : Bool) : (s.setPois pa n p).mbit = s.mbit := rfl
@[simp] theorem State.setPois_mpois (s : State) (pa n : Nat) (p : Bool) : (s.setPois pa n p).mpois = s.mpois := rfl
@[simp] theorem State.setPois_mts (s : State) (pa n : Nat) (p : Bool) : (s.setPois pa n p).mts = s.mts := rfl
@[simp] theorem State.setPois_splices (s : State) (pa n : Nat) (p : Bool) : (s.setPois pa n p).splices = s.splices := rfl
@[simp] theorem State.setPois_bankMode (s : State) (pa n : Nat) (p : Bool) : (s.setPois pa n p).bankMode = s.bankMode := rfl
@[simp] theorem State.setPois_bankReq (s : State) (pa n : Nat) (p : Bool) : (s.setPois pa n p).bankReq = s.bankReq := rfl
@[simp] theorem State.setPois_scratch (s : State) (pa n : Nat) (p : Bool) : (s.setPois pa n p).scratch = s.scratch := rfl
@[simp] theorem State.setPois_scratchPois (s : State) (pa n : Nat) (p : Bool) : (s.setPois pa n p).scratchPois = s.scratchPois := rfl
@[simp] theorem State.setPois_ways (s : State) (pa n : Nat) (p : Bool) : (s.setPois pa n p).ways = s.ways := rfl
@[simp] theorem State.setPois_tlb (s : State) (pa n : Nat) (p : Bool) : (s.setPois pa n p).tlb = s.tlb := rfl
@[simp] theorem State.setPois_billets (s : State) (pa n : Nat) (p : Bool) : (s.setPois pa n p).billets = s.billets := rfl
@[simp] theorem State.setPois_brow (s : State) (pa n : Nat) (p : Bool) : (s.setPois pa n p).brow = s.brow := rfl
@[simp] theorem State.setPois_bpois (s : State) (pa n : Nat) (p : Bool) : (s.setPois pa n p).bpois = s.bpois := rfl
@[simp] theorem State.setPois_bscale (s : State) (pa n : Nat) (p : Bool) : (s.setPois pa n p).bscale = s.bscale := rfl
@[simp] theorem State.setPois_plate (s : State) (pa n : Nat) (p : Bool) : (s.setPois pa n p).plate = s.plate := rfl
@[simp] theorem State.setPois_platePois (s : State) (pa n : Nat) (p : Bool) : (s.setPois pa n p).platePois = s.platePois := rfl
@[simp] theorem State.setPois_segs (s : State) (pa n : Nat) (p : Bool) : (s.setPois pa n p).segs = s.segs := rfl
@[simp] theorem State.setPois_cruc (s : State) (pa n : Nat) (p : Bool) : (s.setPois pa n p).cruc = s.cruc := rfl
@[simp] theorem State.setPois_crucPois (s : State) (pa n : Nat) (p : Bool) : (s.setPois pa n p).crucPois = s.crucPois := rfl
@[simp] theorem State.setPois_handles (s : State) (pa n : Nat) (p : Bool) : (s.setPois pa n p).handles = s.handles := rfl
@[simp] theorem State.setPois_hearth (s : State) (pa n : Nat) (p : Bool) : (s.setPois pa n p).hearth = s.hearth := rfl
@[simp] theorem State.setPois_plat (s : State) (pa n : Nat) (p : Bool) : (s.setPois pa n p).plat = s.plat := rfl

@[simp] theorem State.dropWays_who (s : State) (g : Nat) : (s.dropWays g).who = s.who := rfl
@[simp] theorem State.dropWays_agenda (s : State) (g : Nat) : (s.dropWays g).agenda = s.agenda := rfl
@[simp] theorem State.dropWays_tick (s : State) (g : Nat) : (s.dropWays g).tick = s.tick := rfl
@[simp] theorem State.dropWays_free (s : State) (g : Nat) : (s.dropWays g).free = s.free := rfl
@[simp] theorem State.dropWays_ctxs (s : State) (g : Nat) : (s.dropWays g).ctxs = s.ctxs := rfl
@[simp] theorem State.dropWays_clus (s : State) (g : Nat) : (s.dropWays g).clus = s.clus := rfl
@[simp] theorem State.dropWays_cores (s : State) (g : Nat) : (s.dropWays g).cores = s.cores := rfl
@[simp] theorem State.dropWays_mss (s : State) (g : Nat) : (s.dropWays g).mss = s.mss := rfl
@[simp] theorem State.dropWays_mem (s : State) (g : Nat) : (s.dropWays g).mem = s.mem := rfl
@[simp] theorem State.dropWays_memPois (s : State) (g : Nat) : (s.dropWays g).memPois = s.memPois := rfl
@[simp] theorem State.dropWays_memLog (s : State) (g : Nat) : (s.dropWays g).memLog = s.memLog := rfl
@[simp] theorem State.dropWays_dirty (s : State) (g : Nat) : (s.dropWays g).dirty = s.dirty := rfl
@[simp] theorem State.dropWays_migs (s : State) (g : Nat) : (s.dropWays g).migs = s.migs := rfl
@[simp] theorem State.dropWays_ckNew (s : State) (g : Nat) : (s.dropWays g).ckNew = s.ckNew := rfl
@[simp] theorem State.dropWays_vreg (s : State) (g : Nat) : (s.dropWays g).vreg = s.vreg := rfl
@[simp] theorem State.dropWays_vpois (s : State) (g : Nat) : (s.dropWays g).vpois = s.vpois := rfl
@[simp] theorem State.dropWays_mbit (s : State) (g : Nat) : (s.dropWays g).mbit = s.mbit := rfl
@[simp] theorem State.dropWays_mpois (s : State) (g : Nat) : (s.dropWays g).mpois = s.mpois := rfl
@[simp] theorem State.dropWays_mts (s : State) (g : Nat) : (s.dropWays g).mts = s.mts := rfl
@[simp] theorem State.dropWays_splices (s : State) (g : Nat) : (s.dropWays g).splices = s.splices := rfl
@[simp] theorem State.dropWays_bankMode (s : State) (g : Nat) : (s.dropWays g).bankMode = s.bankMode := rfl
@[simp] theorem State.dropWays_bankReq (s : State) (g : Nat) : (s.dropWays g).bankReq = s.bankReq := rfl
@[simp] theorem State.dropWays_scratch (s : State) (g : Nat) : (s.dropWays g).scratch = s.scratch := rfl
@[simp] theorem State.dropWays_scratchPois (s : State) (g : Nat) : (s.dropWays g).scratchPois = s.scratchPois := rfl
@[simp] theorem State.dropWays_tlb (s : State) (g : Nat) : (s.dropWays g).tlb = s.tlb := rfl
@[simp] theorem State.dropWays_billets (s : State) (g : Nat) : (s.dropWays g).billets = s.billets := rfl
@[simp] theorem State.dropWays_brow (s : State) (g : Nat) : (s.dropWays g).brow = s.brow := rfl
@[simp] theorem State.dropWays_bpois (s : State) (g : Nat) : (s.dropWays g).bpois = s.bpois := rfl
@[simp] theorem State.dropWays_bscale (s : State) (g : Nat) : (s.dropWays g).bscale = s.bscale := rfl
@[simp] theorem State.dropWays_plate (s : State) (g : Nat) : (s.dropWays g).plate = s.plate := rfl
@[simp] theorem State.dropWays_platePois (s : State) (g : Nat) : (s.dropWays g).platePois = s.platePois := rfl
@[simp] theorem State.dropWays_segs (s : State) (g : Nat) : (s.dropWays g).segs = s.segs := rfl
@[simp] theorem State.dropWays_cruc (s : State) (g : Nat) : (s.dropWays g).cruc = s.cruc := rfl
@[simp] theorem State.dropWays_crucPois (s : State) (g : Nat) : (s.dropWays g).crucPois = s.crucPois := rfl
@[simp] theorem State.dropWays_handles (s : State) (g : Nat) : (s.dropWays g).handles = s.handles := rfl
@[simp] theorem State.dropWays_hearth (s : State) (g : Nat) : (s.dropWays g).hearth = s.hearth := rfl
@[simp] theorem State.dropWays_plat (s : State) (g : Nat) : (s.dropWays g).plat = s.plat := rfl

@[simp] theorem State.refreshSector_who (s : State) (g pa : Nat) : (s.refreshSector g pa).who = s.who := rfl
@[simp] theorem State.refreshSector_agenda (s : State) (g pa : Nat) : (s.refreshSector g pa).agenda = s.agenda := rfl
@[simp] theorem State.refreshSector_tick (s : State) (g pa : Nat) : (s.refreshSector g pa).tick = s.tick := rfl
@[simp] theorem State.refreshSector_free (s : State) (g pa : Nat) : (s.refreshSector g pa).free = s.free := rfl
@[simp] theorem State.refreshSector_ctxs (s : State) (g pa : Nat) : (s.refreshSector g pa).ctxs = s.ctxs := rfl
@[simp] theorem State.refreshSector_clus (s : State) (g pa : Nat) : (s.refreshSector g pa).clus = s.clus := rfl
@[simp] theorem State.refreshSector_cores (s : State) (g pa : Nat) : (s.refreshSector g pa).cores = s.cores := rfl
@[simp] theorem State.refreshSector_mss (s : State) (g pa : Nat) : (s.refreshSector g pa).mss = s.mss := rfl
@[simp] theorem State.refreshSector_mem (s : State) (g pa : Nat) : (s.refreshSector g pa).mem = s.mem := rfl
@[simp] theorem State.refreshSector_memPois (s : State) (g pa : Nat) : (s.refreshSector g pa).memPois = s.memPois := rfl
@[simp] theorem State.refreshSector_memLog (s : State) (g pa : Nat) : (s.refreshSector g pa).memLog = s.memLog := rfl
@[simp] theorem State.refreshSector_dirty (s : State) (g pa : Nat) : (s.refreshSector g pa).dirty = s.dirty := rfl
@[simp] theorem State.refreshSector_migs (s : State) (g pa : Nat) : (s.refreshSector g pa).migs = s.migs := rfl
@[simp] theorem State.refreshSector_ckNew (s : State) (g pa : Nat) : (s.refreshSector g pa).ckNew = s.ckNew := rfl
@[simp] theorem State.refreshSector_vreg (s : State) (g pa : Nat) : (s.refreshSector g pa).vreg = s.vreg := rfl
@[simp] theorem State.refreshSector_vpois (s : State) (g pa : Nat) : (s.refreshSector g pa).vpois = s.vpois := rfl
@[simp] theorem State.refreshSector_mbit (s : State) (g pa : Nat) : (s.refreshSector g pa).mbit = s.mbit := rfl
@[simp] theorem State.refreshSector_mpois (s : State) (g pa : Nat) : (s.refreshSector g pa).mpois = s.mpois := rfl
@[simp] theorem State.refreshSector_mts (s : State) (g pa : Nat) : (s.refreshSector g pa).mts = s.mts := rfl
@[simp] theorem State.refreshSector_splices (s : State) (g pa : Nat) : (s.refreshSector g pa).splices = s.splices := rfl
@[simp] theorem State.refreshSector_bankMode (s : State) (g pa : Nat) : (s.refreshSector g pa).bankMode = s.bankMode := rfl
@[simp] theorem State.refreshSector_bankReq (s : State) (g pa : Nat) : (s.refreshSector g pa).bankReq = s.bankReq := rfl
@[simp] theorem State.refreshSector_scratch (s : State) (g pa : Nat) : (s.refreshSector g pa).scratch = s.scratch := rfl
@[simp] theorem State.refreshSector_scratchPois (s : State) (g pa : Nat) : (s.refreshSector g pa).scratchPois = s.scratchPois := rfl
@[simp] theorem State.refreshSector_tlb (s : State) (g pa : Nat) : (s.refreshSector g pa).tlb = s.tlb := rfl
@[simp] theorem State.refreshSector_billets (s : State) (g pa : Nat) : (s.refreshSector g pa).billets = s.billets := rfl
@[simp] theorem State.refreshSector_brow (s : State) (g pa : Nat) : (s.refreshSector g pa).brow = s.brow := rfl
@[simp] theorem State.refreshSector_bpois (s : State) (g pa : Nat) : (s.refreshSector g pa).bpois = s.bpois := rfl
@[simp] theorem State.refreshSector_bscale (s : State) (g pa : Nat) : (s.refreshSector g pa).bscale = s.bscale := rfl
@[simp] theorem State.refreshSector_plate (s : State) (g pa : Nat) : (s.refreshSector g pa).plate = s.plate := rfl
@[simp] theorem State.refreshSector_platePois (s : State) (g pa : Nat) : (s.refreshSector g pa).platePois = s.platePois := rfl
@[simp] theorem State.refreshSector_segs (s : State) (g pa : Nat) : (s.refreshSector g pa).segs = s.segs := rfl
@[simp] theorem State.refreshSector_cruc (s : State) (g pa : Nat) : (s.refreshSector g pa).cruc = s.cruc := rfl
@[simp] theorem State.refreshSector_crucPois (s : State) (g pa : Nat) : (s.refreshSector g pa).crucPois = s.crucPois := rfl
@[simp] theorem State.refreshSector_handles (s : State) (g pa : Nat) : (s.refreshSector g pa).handles = s.handles := rfl
@[simp] theorem State.refreshSector_hearth (s : State) (g pa : Nat) : (s.refreshSector g pa).hearth = s.hearth := rfl
@[simp] theorem State.refreshSector_plat (s : State) (g pa : Nat) : (s.refreshSector g pa).plat = s.plat := rfl

@[simp] theorem State.setThread_who (s : State) (h i : Nat) (m : Mt) : (s.setThread h i m).who = s.who := rfl
@[simp] theorem State.setThread_agenda (s : State) (h i : Nat) (m : Mt) : (s.setThread h i m).agenda = s.agenda := rfl
@[simp] theorem State.setThread_tick (s : State) (h i : Nat) (m : Mt) : (s.setThread h i m).tick = s.tick := rfl
@[simp] theorem State.setThread_free (s : State) (h i : Nat) (m : Mt) : (s.setThread h i m).free = s.free := rfl
@[simp] theorem State.setThread_ctxs (s : State) (h i : Nat) (m : Mt) : (s.setThread h i m).ctxs = s.ctxs := rfl
@[simp] theorem State.setThread_clus (s : State) (h i : Nat) (m : Mt) : (s.setThread h i m).clus = s.clus := rfl
@[simp] theorem State.setThread_cores (s : State) (h i : Nat) (m : Mt) : (s.setThread h i m).cores = s.cores := rfl
@[simp] theorem State.setThread_mss (s : State) (h i : Nat) (m : Mt) : (s.setThread h i m).mss = s.mss := rfl
@[simp] theorem State.setThread_mem (s : State) (h i : Nat) (m : Mt) : (s.setThread h i m).mem = s.mem := rfl
@[simp] theorem State.setThread_memPois (s : State) (h i : Nat) (m : Mt) : (s.setThread h i m).memPois = s.memPois := rfl
@[simp] theorem State.setThread_memLog (s : State) (h i : Nat) (m : Mt) : (s.setThread h i m).memLog = s.memLog := rfl
@[simp] theorem State.setThread_dirty (s : State) (h i : Nat) (m : Mt) : (s.setThread h i m).dirty = s.dirty := rfl
@[simp] theorem State.setThread_migs (s : State) (h i : Nat) (m : Mt) : (s.setThread h i m).migs = s.migs := rfl
@[simp] theorem State.setThread_ckNew (s : State) (h i : Nat) (m : Mt) : (s.setThread h i m).ckNew = s.ckNew := rfl
@[simp] theorem State.setThread_vreg (s : State) (h i : Nat) (m : Mt) : (s.setThread h i m).vreg = s.vreg := rfl
@[simp] theorem State.setThread_vpois (s : State) (h i : Nat) (m : Mt) : (s.setThread h i m).vpois = s.vpois := rfl
@[simp] theorem State.setThread_mbit (s : State) (h i : Nat) (m : Mt) : (s.setThread h i m).mbit = s.mbit := rfl
@[simp] theorem State.setThread_mpois (s : State) (h i : Nat) (m : Mt) : (s.setThread h i m).mpois = s.mpois := rfl
@[simp] theorem State.setThread_splices (s : State) (h i : Nat) (m : Mt) : (s.setThread h i m).splices = s.splices := rfl
@[simp] theorem State.setThread_bankMode (s : State) (h i : Nat) (m : Mt) : (s.setThread h i m).bankMode = s.bankMode := rfl
@[simp] theorem State.setThread_bankReq (s : State) (h i : Nat) (m : Mt) : (s.setThread h i m).bankReq = s.bankReq := rfl
@[simp] theorem State.setThread_scratch (s : State) (h i : Nat) (m : Mt) : (s.setThread h i m).scratch = s.scratch := rfl
@[simp] theorem State.setThread_scratchPois (s : State) (h i : Nat) (m : Mt) : (s.setThread h i m).scratchPois = s.scratchPois := rfl
@[simp] theorem State.setThread_ways (s : State) (h i : Nat) (m : Mt) : (s.setThread h i m).ways = s.ways := rfl
@[simp] theorem State.setThread_tlb (s : State) (h i : Nat) (m : Mt) : (s.setThread h i m).tlb = s.tlb := rfl
@[simp] theorem State.setThread_billets (s : State) (h i : Nat) (m : Mt) : (s.setThread h i m).billets = s.billets := rfl
@[simp] theorem State.setThread_brow (s : State) (h i : Nat) (m : Mt) : (s.setThread h i m).brow = s.brow := rfl
@[simp] theorem State.setThread_bpois (s : State) (h i : Nat) (m : Mt) : (s.setThread h i m).bpois = s.bpois := rfl
@[simp] theorem State.setThread_bscale (s : State) (h i : Nat) (m : Mt) : (s.setThread h i m).bscale = s.bscale := rfl
@[simp] theorem State.setThread_plate (s : State) (h i : Nat) (m : Mt) : (s.setThread h i m).plate = s.plate := rfl
@[simp] theorem State.setThread_platePois (s : State) (h i : Nat) (m : Mt) : (s.setThread h i m).platePois = s.platePois := rfl
@[simp] theorem State.setThread_segs (s : State) (h i : Nat) (m : Mt) : (s.setThread h i m).segs = s.segs := rfl
@[simp] theorem State.setThread_cruc (s : State) (h i : Nat) (m : Mt) : (s.setThread h i m).cruc = s.cruc := rfl
@[simp] theorem State.setThread_crucPois (s : State) (h i : Nat) (m : Mt) : (s.setThread h i m).crucPois = s.crucPois := rfl
@[simp] theorem State.setThread_handles (s : State) (h i : Nat) (m : Mt) : (s.setThread h i m).handles = s.handles := rfl
@[simp] theorem State.setThread_hearth (s : State) (h i : Nat) (m : Mt) : (s.setThread h i m).hearth = s.hearth := rfl
@[simp] theorem State.setThread_plat (s : State) (h i : Nat) (m : Mt) : (s.setThread h i m).plat = s.plat := rfl

@[simp] theorem State.setJob_who (s : State) (j : Nat) (v : Job) : (s.setJob j v).who = s.who := rfl
@[simp] theorem State.setJob_agenda (s : State) (j : Nat) (v : Job) : (s.setJob j v).agenda = s.agenda := rfl
@[simp] theorem State.setJob_tick (s : State) (j : Nat) (v : Job) : (s.setJob j v).tick = s.tick := rfl
@[simp] theorem State.setJob_free (s : State) (j : Nat) (v : Job) : (s.setJob j v).free = s.free := rfl
@[simp] theorem State.setJob_ctxs (s : State) (j : Nat) (v : Job) : (s.setJob j v).ctxs = s.ctxs := rfl
@[simp] theorem State.setJob_clus (s : State) (j : Nat) (v : Job) : (s.setJob j v).clus = s.clus := rfl
@[simp] theorem State.setJob_cores (s : State) (j : Nat) (v : Job) : (s.setJob j v).cores = s.cores := rfl
@[simp] theorem State.setJob_mss (s : State) (j : Nat) (v : Job) : (s.setJob j v).mss = s.mss := rfl
@[simp] theorem State.setJob_mem (s : State) (j : Nat) (v : Job) : (s.setJob j v).mem = s.mem := rfl
@[simp] theorem State.setJob_memPois (s : State) (j : Nat) (v : Job) : (s.setJob j v).memPois = s.memPois := rfl
@[simp] theorem State.setJob_memLog (s : State) (j : Nat) (v : Job) : (s.setJob j v).memLog = s.memLog := rfl
@[simp] theorem State.setJob_dirty (s : State) (j : Nat) (v : Job) : (s.setJob j v).dirty = s.dirty := rfl
@[simp] theorem State.setJob_migs (s : State) (j : Nat) (v : Job) : (s.setJob j v).migs = s.migs := rfl
@[simp] theorem State.setJob_ckNew (s : State) (j : Nat) (v : Job) : (s.setJob j v).ckNew = s.ckNew := rfl
@[simp] theorem State.setJob_vreg (s : State) (j : Nat) (v : Job) : (s.setJob j v).vreg = s.vreg := rfl
@[simp] theorem State.setJob_vpois (s : State) (j : Nat) (v : Job) : (s.setJob j v).vpois = s.vpois := rfl
@[simp] theorem State.setJob_mbit (s : State) (j : Nat) (v : Job) : (s.setJob j v).mbit = s.mbit := rfl
@[simp] theorem State.setJob_mpois (s : State) (j : Nat) (v : Job) : (s.setJob j v).mpois = s.mpois := rfl
@[simp] theorem State.setJob_mts (s : State) (j : Nat) (v : Job) : (s.setJob j v).mts = s.mts := rfl
@[simp] theorem State.setJob_splices (s : State) (j : Nat) (v : Job) : (s.setJob j v).splices = s.splices := rfl
@[simp] theorem State.setJob_bankMode (s : State) (j : Nat) (v : Job) : (s.setJob j v).bankMode = s.bankMode := rfl
@[simp] theorem State.setJob_bankReq (s : State) (j : Nat) (v : Job) : (s.setJob j v).bankReq = s.bankReq := rfl
@[simp] theorem State.setJob_scratch (s : State) (j : Nat) (v : Job) : (s.setJob j v).scratch = s.scratch := rfl
@[simp] theorem State.setJob_scratchPois (s : State) (j : Nat) (v : Job) : (s.setJob j v).scratchPois = s.scratchPois := rfl
@[simp] theorem State.setJob_ways (s : State) (j : Nat) (v : Job) : (s.setJob j v).ways = s.ways := rfl
@[simp] theorem State.setJob_tlb (s : State) (j : Nat) (v : Job) : (s.setJob j v).tlb = s.tlb := rfl
@[simp] theorem State.setJob_billets (s : State) (j : Nat) (v : Job) : (s.setJob j v).billets = s.billets := rfl
@[simp] theorem State.setJob_brow (s : State) (j : Nat) (v : Job) : (s.setJob j v).brow = s.brow := rfl
@[simp] theorem State.setJob_bpois (s : State) (j : Nat) (v : Job) : (s.setJob j v).bpois = s.bpois := rfl
@[simp] theorem State.setJob_bscale (s : State) (j : Nat) (v : Job) : (s.setJob j v).bscale = s.bscale := rfl
@[simp] theorem State.setJob_plate (s : State) (j : Nat) (v : Job) : (s.setJob j v).plate = s.plate := rfl
@[simp] theorem State.setJob_platePois (s : State) (j : Nat) (v : Job) : (s.setJob j v).platePois = s.platePois := rfl
@[simp] theorem State.setJob_segs (s : State) (j : Nat) (v : Job) : (s.setJob j v).segs = s.segs := rfl
@[simp] theorem State.setJob_cruc (s : State) (j : Nat) (v : Job) : (s.setJob j v).cruc = s.cruc := rfl
@[simp] theorem State.setJob_crucPois (s : State) (j : Nat) (v : Job) : (s.setJob j v).crucPois = s.crucPois := rfl
@[simp] theorem State.setJob_handles (s : State) (j : Nat) (v : Job) : (s.setJob j v).handles = s.handles := rfl
@[simp] theorem State.setJob_plat (s : State) (j : Nat) (v : Job) : (s.setJob j v).plat = s.plat := rfl

@[simp] theorem State.setSlot_who (s : State) (k : Nat) (v : QSlot) : (s.setSlot k v).who = s.who := rfl
@[simp] theorem State.setSlot_agenda (s : State) (k : Nat) (v : QSlot) : (s.setSlot k v).agenda = s.agenda := rfl
@[simp] theorem State.setSlot_tick (s : State) (k : Nat) (v : QSlot) : (s.setSlot k v).tick = s.tick := rfl
@[simp] theorem State.setSlot_free (s : State) (k : Nat) (v : QSlot) : (s.setSlot k v).free = s.free := rfl
@[simp] theorem State.setSlot_ctxs (s : State) (k : Nat) (v : QSlot) : (s.setSlot k v).ctxs = s.ctxs := rfl
@[simp] theorem State.setSlot_clus (s : State) (k : Nat) (v : QSlot) : (s.setSlot k v).clus = s.clus := rfl
@[simp] theorem State.setSlot_cores (s : State) (k : Nat) (v : QSlot) : (s.setSlot k v).cores = s.cores := rfl
@[simp] theorem State.setSlot_mss (s : State) (k : Nat) (v : QSlot) : (s.setSlot k v).mss = s.mss := rfl
@[simp] theorem State.setSlot_mem (s : State) (k : Nat) (v : QSlot) : (s.setSlot k v).mem = s.mem := rfl
@[simp] theorem State.setSlot_memPois (s : State) (k : Nat) (v : QSlot) : (s.setSlot k v).memPois = s.memPois := rfl
@[simp] theorem State.setSlot_memLog (s : State) (k : Nat) (v : QSlot) : (s.setSlot k v).memLog = s.memLog := rfl
@[simp] theorem State.setSlot_dirty (s : State) (k : Nat) (v : QSlot) : (s.setSlot k v).dirty = s.dirty := rfl
@[simp] theorem State.setSlot_migs (s : State) (k : Nat) (v : QSlot) : (s.setSlot k v).migs = s.migs := rfl
@[simp] theorem State.setSlot_ckNew (s : State) (k : Nat) (v : QSlot) : (s.setSlot k v).ckNew = s.ckNew := rfl
@[simp] theorem State.setSlot_vreg (s : State) (k : Nat) (v : QSlot) : (s.setSlot k v).vreg = s.vreg := rfl
@[simp] theorem State.setSlot_vpois (s : State) (k : Nat) (v : QSlot) : (s.setSlot k v).vpois = s.vpois := rfl
@[simp] theorem State.setSlot_mbit (s : State) (k : Nat) (v : QSlot) : (s.setSlot k v).mbit = s.mbit := rfl
@[simp] theorem State.setSlot_mpois (s : State) (k : Nat) (v : QSlot) : (s.setSlot k v).mpois = s.mpois := rfl
@[simp] theorem State.setSlot_mts (s : State) (k : Nat) (v : QSlot) : (s.setSlot k v).mts = s.mts := rfl
@[simp] theorem State.setSlot_splices (s : State) (k : Nat) (v : QSlot) : (s.setSlot k v).splices = s.splices := rfl
@[simp] theorem State.setSlot_bankMode (s : State) (k : Nat) (v : QSlot) : (s.setSlot k v).bankMode = s.bankMode := rfl
@[simp] theorem State.setSlot_bankReq (s : State) (k : Nat) (v : QSlot) : (s.setSlot k v).bankReq = s.bankReq := rfl
@[simp] theorem State.setSlot_scratch (s : State) (k : Nat) (v : QSlot) : (s.setSlot k v).scratch = s.scratch := rfl
@[simp] theorem State.setSlot_scratchPois (s : State) (k : Nat) (v : QSlot) : (s.setSlot k v).scratchPois = s.scratchPois := rfl
@[simp] theorem State.setSlot_ways (s : State) (k : Nat) (v : QSlot) : (s.setSlot k v).ways = s.ways := rfl
@[simp] theorem State.setSlot_tlb (s : State) (k : Nat) (v : QSlot) : (s.setSlot k v).tlb = s.tlb := rfl
@[simp] theorem State.setSlot_billets (s : State) (k : Nat) (v : QSlot) : (s.setSlot k v).billets = s.billets := rfl
@[simp] theorem State.setSlot_brow (s : State) (k : Nat) (v : QSlot) : (s.setSlot k v).brow = s.brow := rfl
@[simp] theorem State.setSlot_bpois (s : State) (k : Nat) (v : QSlot) : (s.setSlot k v).bpois = s.bpois := rfl
@[simp] theorem State.setSlot_bscale (s : State) (k : Nat) (v : QSlot) : (s.setSlot k v).bscale = s.bscale := rfl
@[simp] theorem State.setSlot_plate (s : State) (k : Nat) (v : QSlot) : (s.setSlot k v).plate = s.plate := rfl
@[simp] theorem State.setSlot_platePois (s : State) (k : Nat) (v : QSlot) : (s.setSlot k v).platePois = s.platePois := rfl
@[simp] theorem State.setSlot_segs (s : State) (k : Nat) (v : QSlot) : (s.setSlot k v).segs = s.segs := rfl
@[simp] theorem State.setSlot_cruc (s : State) (k : Nat) (v : QSlot) : (s.setSlot k v).cruc = s.cruc := rfl
@[simp] theorem State.setSlot_crucPois (s : State) (k : Nat) (v : QSlot) : (s.setSlot k v).crucPois = s.crucPois := rfl
@[simp] theorem State.setSlot_handles (s : State) (k : Nat) (v : QSlot) : (s.setSlot k v).handles = s.handles := rfl
@[simp] theorem State.setSlot_plat (s : State) (k : Nat) (v : QSlot) : (s.setSlot k v).plat = s.plat := rfl

/-! Contexts and sequencers. -/

@[simp] theorem State.ctx_setCtx (s : State) (h : Nat) (c : Ctx) : (s.setCtx h c).ctx h = c :=
  sparseGet_put_self _ _ _ _
theorem State.ctx_setCtx_ne (s : State) (h j : Nat) (c : Ctx) (hj : j ≠ h) : (s.setCtx h c).ctx j = s.ctx j :=
  sparseGet_put_ne _ _ _ _ _ hj
@[simp] theorem State.ctx_modCtx (s : State) (h : Nat) (f : Ctx → Ctx) : (s.modCtx h f).ctx h = f (s.ctx h) :=
  sparseGet_put_self _ _ _ _
theorem State.ctx_modCtx_ne (s : State) (h j : Nat) (f : Ctx → Ctx) (hj : j ≠ h) : (s.modCtx h f).ctx j = s.ctx j :=
  sparseGet_put_ne _ _ _ _ _ hj
@[simp] theorem State.ms_setMs (s : State) (g : Nat) (m : Ms) : (s.setMs g m).ms g = m := sparseGet_put_self _ _ _ _
@[simp] theorem State.ms_modMs (s : State) (g : Nat) (f : Ms → Ms) : (s.modMs g f).ms g = f (s.ms g) :=
  sparseGet_put_self _ _ _ _
@[simp] theorem State.ms_setCtx (s : State) (h : Nat) (c : Ctx) (g : Nat) : (s.setCtx h c).ms g = s.ms g := rfl
@[simp] theorem State.ms_modCtx (s : State) (h : Nat) (f : Ctx → Ctx) (g : Nat) : (s.modCtx h f).ms g = s.ms g := rfl
@[simp] theorem State.ctx_setMs (s : State) (g : Nat) (m : Ms) (h : Nat) : (s.setMs g m).ctx h = s.ctx h := rfl
@[simp] theorem State.ctx_modMs (s : State) (g : Nat) (f : Ms → Ms) (h : Nat) : (s.modMs g f).ctx h = s.ctx h := rfl
@[simp] theorem State.memByte_setCtx (s : State) (h : Nat) (c : Ctx) (pa : Nat) :
    (s.setCtx h c).memByte pa = s.memByte pa := rfl
@[simp] theorem State.memByte_modCtx (s : State) (h : Nat) (f : Ctx → Ctx) (pa : Nat) :
    (s.modCtx h f).memByte pa = s.memByte pa := rfl
@[simp] theorem State.memByte_modMs (s : State) (g : Nat) (f : Ms → Ms) (pa : Nat) :
    (s.modMs g f).memByte pa = s.memByte pa := rfl

/-! Scalar registers of a context: x0 reads 0 and keeps nothing. -/

@[simp] theorem Ctx.rx_zero (c : Ctx) : c.rx 0#5 = 0#64 := rfl
@[simp] theorem Ctx.wx_zero (c : Ctx) (v : Word) : c.wx 0#5 v = c := rfl

theorem Ctx.rx_wx_self (c : Ctx) (r : Reg) (v : Word) (hr : r ≠ 0#5) : (c.wx r v).rx r = v := by
  unfold Ctx.rx Ctx.wx
  by_cases h : c.handler ∧ 10 ≤ r.toNat ∧ r.toNat ≤ 17
  · have : r.toNat - 10 < 8 := by omega
    simp [hr, h, this]
  · simp [hr, h]

/-! A register write leaves the rest of the context alone. -/

@[simp] theorem Ctx.wx_pc (c : Ctx) (r : Reg) (v : Word) : (c.wx r v).pc = c.pc := by unfold Ctx.wx; split <;> (try split) <;> rfl
@[simp] theorem Ctx.wx_mode (c : Ctx) (r : Reg) (v : Word) : (c.wx r v).mode = c.mode := by unfold Ctx.wx; split <;> (try split) <;> rfl
@[simp] theorem Ctx.wx_instret (c : Ctx) (r : Reg) (v : Word) : (c.wx r v).instret = c.instret := by unfold Ctx.wx; split <;> (try split) <;> rfl
@[simp] theorem Ctx.wx_vrm (c : Ctx) (r : Reg) (v : Word) : (c.wx r v).vrm = c.vrm := by unfold Ctx.wx; split <;> (try split) <;> rfl
@[simp] theorem Ctx.wx_vpst (c : Ctx) (r : Reg) (v : Word) : (c.wx r v).vpst = c.vpst := by unfold Ctx.wx; split <;> (try split) <;> rfl
@[simp] theorem Ctx.wx_vtb (c : Ctx) (r : Reg) (v : Word) : (c.wx r v).vtb = c.vtb := by unfold Ctx.wx; split <;> (try split) <;> rfl
@[simp] theorem Ctx.wx_vsb (c : Ctx) (r : Reg) (v : Word) : (c.wx r v).vsb = c.vsb := by unfold Ctx.wx; split <;> (try split) <;> rfl
@[simp] theorem Ctx.wx_vts (c : Ctx) (r : Reg) (v : Word) : (c.wx r v).vts = c.vts := by unfold Ctx.wx; split <;> (try split) <;> rfl
@[simp] theorem Ctx.wx_amax (c : Ctx) (r : Reg) (v : Word) : (c.wx r v).amax = c.amax := by unfold Ctx.wx; split <;> (try split) <;> rfl
@[simp] theorem Ctx.wx_amaxn (c : Ctx) (r : Reg) (v : Word) : (c.wx r v).amaxn = c.amaxn := by unfold Ctx.wx; split <;> (try split) <;> rfl
@[simp] theorem Ctx.wx_uivec (c : Ctx) (r : Reg) (v : Word) : (c.wx r v).uivec = c.uivec := by unfold Ctx.wx; split <;> (try split) <;> rfl
@[simp] theorem Ctx.wx_uiepc (c : Ctx) (r : Reg) (v : Word) : (c.wx r v).uiepc = c.uiepc := by unfold Ctx.wx; split <;> (try split) <;> rfl
@[simp] theorem Ctx.wx_uicause (c : Ctx) (r : Reg) (v : Word) : (c.wx r v).uicause = c.uicause := by unfold Ctx.wx; split <;> (try split) <;> rfl
@[simp] theorem Ctx.wx_vl (c : Ctx) (r : Reg) (v : Word) : (c.wx r v).vl = c.vl := by unfold Ctx.wx; split <;> (try split) <;> rfl
@[simp] theorem Ctx.wx_vty (c : Ctx) (r : Reg) (v : Word) : (c.wx r v).vty = c.vty := by unfold Ctx.wx; split <;> (try split) <;> rfl
@[simp] theorem Ctx.wx_ldst (c : Ctx) (r : Reg) (v : Word) : (c.wx r v).ldst = c.ldst := by unfold Ctx.wx; split <;> (try split) <;> rfl
@[simp] theorem Ctx.wx_ccap (c : Ctx) (r : Reg) (v : Word) : (c.wx r v).ccap = c.ccap := by unfold Ctx.wx; split <;> (try split) <;> rfl
@[simp] theorem Ctx.wx_sieBit (c : Ctx) (r : Reg) (v : Word) : (c.wx r v).sieBit = c.sieBit := by unfold Ctx.wx; split <;> (try split) <;> rfl
@[simp] theorem Ctx.wx_spieBit (c : Ctx) (r : Reg) (v : Word) : (c.wx r v).spieBit = c.spieBit := by unfold Ctx.wx; split <;> (try split) <;> rfl
@[simp] theorem Ctx.wx_spp (c : Ctx) (r : Reg) (v : Word) : (c.wx r v).spp = c.spp := by unfold Ctx.wx; split <;> (try split) <;> rfl
@[simp] theorem Ctx.wx_sie (c : Ctx) (r : Reg) (v : Word) : (c.wx r v).sie = c.sie := by unfold Ctx.wx; split <;> (try split) <;> rfl
@[simp] theorem Ctx.wx_sip (c : Ctx) (r : Reg) (v : Word) : (c.wx r v).sip = c.sip := by unfold Ctx.wx; split <;> (try split) <;> rfl
@[simp] theorem Ctx.wx_stvec (c : Ctx) (r : Reg) (v : Word) : (c.wx r v).stvec = c.stvec := by unfold Ctx.wx; split <;> (try split) <;> rfl
@[simp] theorem Ctx.wx_sscratch (c : Ctx) (r : Reg) (v : Word) : (c.wx r v).sscratch = c.sscratch := by unfold Ctx.wx; split <;> (try split) <;> rfl
@[simp] theorem Ctx.wx_sepc (c : Ctx) (r : Reg) (v : Word) : (c.wx r v).sepc = c.sepc := by unfold Ctx.wx; split <;> (try split) <;> rfl
@[simp] theorem Ctx.wx_scause (c : Ctx) (r : Reg) (v : Word) : (c.wx r v).scause = c.scause := by unfold Ctx.wx; split <;> (try split) <;> rfl
@[simp] theorem Ctx.wx_stval (c : Ctx) (r : Reg) (v : Word) : (c.wx r v).stval = c.stval := by unfold Ctx.wx; split <;> (try split) <;> rfl
@[simp] theorem Ctx.wx_svty (c : Ctx) (r : Reg) (v : Word) : (c.wx r v).svty = c.svty := by unfold Ctx.wx; split <;> (try split) <;> rfl
@[simp] theorem Ctx.wx_sldst (c : Ctx) (r : Reg) (v : Word) : (c.wx r v).sldst = c.sldst := by unfold Ctx.wx; split <;> (try split) <;> rfl
@[simp] theorem Ctx.wx_sfdesc (c : Ctx) (r : Reg) (v : Word) : (c.wx r v).sfdesc = c.sfdesc := by unfold Ctx.wx; split <;> (try split) <;> rfl
@[simp] theorem Ctx.wx_sfbase (c : Ctx) (r : Reg) (v : Word) : (c.wx r v).sfbase = c.sfbase := by unfold Ctx.wx; split <;> (try split) <;> rfl
@[simp] theorem Ctx.wx_sfstride (c : Ctx) (r : Reg) (v : Word) : (c.wx r v).sfstride = c.sfstride := by unfold Ctx.wx; split <;> (try split) <;> rfl
@[simp] theorem Ctx.wx_sfrem (c : Ctx) (r : Reg) (v : Word) : (c.wx r v).sfrem = c.sfrem := by unfold Ctx.wx; split <;> (try split) <;> rfl
@[simp] theorem Ctx.wx_spsn (c : Ctx) (r : Reg) (v : Word) : (c.wx r v).spsn = c.spsn := by unfold Ctx.wx; split <;> (try split) <;> rfl
@[simp] theorem Ctx.wx_vrst (c : Ctx) (r : Reg) (v : Word) : (c.wx r v).vrst = c.vrst := by unfold Ctx.wx; split <;> (try split) <;> rfl
@[simp] theorem Ctx.wx_loop (c : Ctx) (r : Reg) (v : Word) : (c.wx r v).loop = c.loop := by unfold Ctx.wx; split <;> (try split) <;> rfl
@[simp] theorem Ctx.wx_resv (c : Ctx) (r : Reg) (v : Word) : (c.wx r v).resv = c.resv := by unfold Ctx.wx; split <;> (try split) <;> rfl
@[simp] theorem Ctx.wx_links (c : Ctx) (r : Reg) (v : Word) : (c.wx r v).links = c.links := by unfold Ctx.wx; split <;> (try split) <;> rfl
@[simp] theorem Ctx.wx_queue (c : Ctx) (r : Reg) (v : Word) : (c.wx r v).queue = c.queue := by unfold Ctx.wx; split <;> (try split) <;> rfl
@[simp] theorem Ctx.wx_wins (c : Ctx) (r : Reg) (v : Word) : (c.wx r v).wins = c.wins := by unfold Ctx.wx; split <;> (try split) <;> rfl
@[simp] theorem Ctx.wx_streams (c : Ctx) (r : Reg) (v : Word) : (c.wx r v).streams = c.streams := by unfold Ctx.wx; split <;> (try split) <;> rfl
@[simp] theorem Ctx.wx_flags (c : Ctx) (r : Reg) (v : Word) : (c.wx r v).flags = c.flags := by unfold Ctx.wx; split <;> (try split) <;> rfl
@[simp] theorem Ctx.wx_events (c : Ctx) (r : Reg) (v : Word) : (c.wx r v).events = c.events := by unfold Ctx.wx; split <;> (try split) <;> rfl
@[simp] theorem Ctx.wx_held (c : Ctx) (r : Reg) (v : Word) : (c.wx r v).held = c.held := by unfold Ctx.wx; split <;> (try split) <;> rfl
@[simp] theorem Ctx.wx_handler (c : Ctx) (r : Reg) (v : Word) : (c.wx r v).handler = c.handler := by unfold Ctx.wx; split <;> (try split) <;> rfl
@[simp] theorem Ctx.wx_cmds (c : Ctx) (r : Reg) (v : Word) : (c.wx r v).cmds = c.cmds := by unfold Ctx.wx; split <;> (try split) <;> rfl
@[simp] theorem Ctx.wx_unit (c : Ctx) (r : Reg) (v : Word) : (c.wx r v).unit = c.unit := by unfold Ctx.wx; split <;> (try split) <;> rfl

end Sys2Proof.Machine
end

