-- ==== Sys2Proof/Laws/Memory.lean ====
section
/-! SUPPORT. Home memory: its canonical form is kept by every operation over it, and a byte reads what was last
written to it. -/

namespace Sys2Proof.Machine
open Sys2Proof

/-- Every key of the store is at least n. -/
def keysFrom {α : Type} (n : Nat) (m : Sparse α) : Prop := ∀ p ∈ m, n ≤ p.1

/-- The canonical form, by its first entry. -/
theorem canonical_cons {α : Type} [DecidableEq α] (d : α) (k : Nat) (v : α) (t : Sparse α) :
    canonical d ((k, v) :: t) = true ↔ v ≠ d ∧ keysFrom (k + 1) t ∧ canonical d t = true := by
  induction t generalizing k v with
  | nil => simp [canonical, keysFrom]
  | cons p t ih =>
    obtain ⟨k', v'⟩ := p
    simp only [canonical, Bool.and_eq_true, decide_eq_true_eq, ih k' v']
    constructor
    · rintro ⟨⟨hv, hk⟩, hv', hf, hc⟩
      refine ⟨hv, ?_, hv', hf, hc⟩
      intro q hq
      rcases List.mem_cons.mp hq with rfl | hq
      · exact hk
      · have := hf q hq; omega
    · rintro ⟨hv, hf, hv', hf', hc⟩
      exact ⟨⟨hv, hf (k', v') (by simp)⟩, hv', hf', hc⟩

theorem keysFrom_sparseSet {α : Type} [DecidableEq α] (d v : α) (m : Sparse α) (n k : Nat)
    (hm : keysFrom n m) (hk : n ≤ k) : keysFrom n (sparseSet d m k v) := by
  induction m with
  | nil => unfold sparseSet; split <;> simp [keysFrom, hk]
  | cons p t ih =>
    obtain ⟨k', v'⟩ := p
    have ht : keysFrom n t := fun q hq => hm q (by simp [hq])
    have hk' : n ≤ k' := hm (k', v') (by simp)
    unfold sparseSet
    split
    · split
      · exact ht
      · intro q hq
        rcases List.mem_cons.mp hq with rfl | hq
        · exact hk
        · exact ht q hq
    · split
      · split
        · exact hm
        · intro q hq
          rcases List.mem_cons.mp hq with rfl | hq
          · exact hk
          · exact hm q hq
      · intro q hq
        rcases List.mem_cons.mp hq with rfl | hq
        · exact hk'
        · exact ih ht q hq

/-- Setting a value keeps the canonical form. -/
theorem canonical_sparseSet {α : Type} [DecidableEq α] (d v : α) (m : Sparse α) (k : Nat)
    (hm : canonical d m = true) : canonical d (sparseSet d m k v) = true := by
  induction m with
  | nil =>
    unfold sparseSet
    split
    · rfl
    · simpa [canonical]
  | cons p t ih =>
    obtain ⟨k', v'⟩ := p
    obtain ⟨hv', hf, hc⟩ := (canonical_cons d k' v' t).mp hm
    unfold sparseSet
    split
    · rename_i h
      subst h
      split
      · exact hc
      · rename_i hv
        exact (canonical_cons d k v t).mpr ⟨hv, hf, hc⟩
    · split
      · split
        · exact hm
        · rename_i hlt hv
          refine (canonical_cons d k v _).mpr ⟨hv, ?_, hm⟩
          intro q hq
          rcases List.mem_cons.mp hq with rfl | hq
          · exact hlt
          · have := hf q hq; omega
      · refine (canonical_cons d k' v' _).mpr ⟨hv', ?_, ih hc⟩
        exact keysFrom_sparseSet d v t (k' + 1) k hf (by omega)

theorem sparseGet_of_keysFrom {α : Type} (d : α) (m : Sparse α) (k : Nat) (hm : keysFrom (k + 1) m) :
    sparseGet d m k = d := by
  cases m with
  | nil => rfl
  | cons p t =>
    obtain ⟨k', v'⟩ := p
    have : k + 1 ≤ k' := hm (k', v') (by simp)
    have h1 : k ≠ k' := by omega
    have h2 : k < k' := by omega
    simp [sparseGet, h1, h2]

theorem sparseGet_set_self {α : Type} [DecidableEq α] (d v : α) (m : Sparse α) (k : Nat)
    (hm : canonical d m = true) : sparseGet d (sparseSet d m k v) k = v := by
  induction m with
  | nil => unfold sparseSet; split <;> simp_all [sparseGet]
  | cons p t ih =>
    obtain ⟨k', v'⟩ := p
    obtain ⟨hv', hf, hc⟩ := (canonical_cons d k' v' t).mp hm
    unfold sparseSet
    split
    · rename_i h
      subst h
      split
      · rename_i hv; rw [sparseGet_of_keysFrom d t k hf, hv]
      · simp [sparseGet]
    · split
      · split <;> simp_all [sparseGet]
      · (simp_all [sparseGet]) <;> omega

theorem sparseGet_set_ne {α : Type} [DecidableEq α] (d v : α) (m : Sparse α) (k j : Nat)
    (hm : canonical d m = true) (h : j ≠ k) : sparseGet d (sparseSet d m k v) j = sparseGet d m j := by
  induction m with
  | nil => unfold sparseSet; split <;> simp_all [sparseGet]
  | cons p t ih =>
    obtain ⟨k', v'⟩ := p
    obtain ⟨hv', hf, hc⟩ := (canonical_cons d k' v' t).mp hm
    unfold sparseSet
    split
    · rename_i hk
      subst hk
      split
      · by_cases hj : j < k
        · have : keysFrom (j + 1) t := fun q hq => by have := hf q hq; omega
          simp [sparseGet, h, hj, sparseGet_of_keysFrom d t j this]
        · simp [sparseGet, h, hj]
      · simp [sparseGet, h]
    · split
      · split
        · rfl
        · by_cases hj : j < k
          · have h1 : j ≠ k' := by omega
            have h2 : j < k' := by omega
            simp [sparseGet, *]
          · simp [sparseGet, *]
      · by_cases hj : j = k' <;> by_cases hk : j < k' <;> simp_all [sparseGet]

/-! Home memory. -/

theorem putMem_wf (m : List Host.Cell) (pa : Nat) (bs : List (Byte × Byte)) (hm : Memory.wf m) :
    Memory.wf (putMem m pa bs) := by
  induction bs generalizing m pa with
  | nil => exact hm
  | cons b t ih => exact ih _ _ (canonical_sparseSet 0#8 _ m pa hm)

theorem homeWrite_wf (s : State) (w : Writer) (pa : Nat) (bs : List (Byte × Byte)) (hm : Memory.wf s.mem) :
    Memory.wf (s.homeWrite w pa bs).mem := putMem_wf s.mem pa bs hm

theorem putMem_outside (m : List Host.Cell) (pa : Nat) (bs : List (Byte × Byte)) (j : Nat) (hm : Memory.wf m)
    (hj : j < pa ∨ pa + bs.length ≤ j) : sparseGet 0#8 (putMem m pa bs) j = sparseGet 0#8 m j := by
  induction bs generalizing m pa with
  | nil => rfl
  | cons b t ih =>
    simp only [List.length_cons] at hj
    have h1 : j ≠ pa := by omega
    rw [putMem, ih _ _ (canonical_sparseSet 0#8 _ m pa hm) (by omega), sparseGet_set_ne 0#8 _ m pa j hm h1]

/-- A write at the home slice leaves every byte outside it alone. -/
theorem homeWrite_outside (s : State) (w : Writer) (pa : Nat) (bs : List (Byte × Byte)) (j : Nat)
    (hm : Memory.wf s.mem) (hj : j < pa ∨ pa + bs.length ≤ j) : (s.homeWrite w pa bs).memByte j = s.memByte j :=
  putMem_outside s.mem pa bs j hm hj

theorem putMem_inside (m : List Host.Cell) (pa : Nat) (bs : List Byte) (i : Nat) (hm : Memory.wf m)
    (hi : i < bs.length) : sparseGet 0#8 (putMem m pa (fullBytes bs)) (pa + i) = bs[i] := by
  induction bs generalizing m pa i with
  | nil => simp at hi
  | cons b t ih =>
    have hw := canonical_sparseSet 0#8 (mergeByte (sparseGet 0#8 m pa) b 0xFF#8) m pa hm
    cases i with
    | zero =>
      have hb : mergeByte (sparseGet 0#8 m pa) b 0xFF#8 = b := by
        unfold mergeByte
        ext j hj
        simp
        intro h1
        have : j = 0 ∨ j = 1 ∨ j = 2 ∨ j = 3 ∨ j = 4 ∨ j = 5 ∨ j = 6 ∨ j = 7 := by omega
        rcases this with h | h | h | h | h | h | h | h <;> subst h <;> simp
      have ho : sparseGet 0#8 (putMem (sparseSet 0#8 m pa (mergeByte (sparseGet 0#8 m pa) b 0xFF#8)) (pa + 1)
          (fullBytes t)) pa = _ := putMem_outside _ (pa + 1) (fullBytes t) pa hw (by omega)
      simp only [fullBytes, List.map_cons, putMem, Nat.add_zero, List.getElem_cons_zero] at ho ⊢
      rw [ho, hb, sparseGet_set_self 0#8 b m pa hm]
    | succ i =>
      simp only [List.length_cons] at hi
      have := ih _ (pa + 1) i hw (by omega)
      simp only [fullBytes, List.map_cons, putMem, List.getElem_cons_succ] at this ⊢
      rw [← this]
      congr 1
      omega

/-- A byte written in full at the home slice reads back. -/
theorem homeWrite_inside (s : State) (w : Writer) (pa : Nat) (bs : List Byte) (i : Nat) (hm : Memory.wf s.mem)
    (hi : i < bs.length) : (s.homeWrite w pa (fullBytes bs)).memByte (pa + i) = bs[i] :=
  putMem_inside s.mem pa bs i hm hi

/-- Memory after reset is in its canonical form. -/
theorem reset_memOk : Memory.wf State.reset.mem := rfl

end Sys2Proof.Machine
end

