-- ==== Sys2Proof/Laws/Scalar.lean ====
section
/-! SUPPORT. What writing a register and finishing an instruction leave, once for the agents that execute RV64I. -/

namespace Sys2Proof.Machine
open Sys2Proof

/-- A second write at a key replaces the first. -/
theorem sparsePut_put {α : Type} (m : Sparse α) (k : Nat) (v w : α) : sparsePut (sparsePut m k v) k w = sparsePut m k w := by
  induction m with
  | nil => simp [sparsePut]
  | cons p t ih =>
    obtain ⟨k', v'⟩ := p
    by_cases h1 : k = k'
    · subst h1; simp [sparsePut]
    · by_cases h2 : k < k'
      · simp [sparsePut, h1, h2]
      · simp [sparsePut, h1, h2, ih]
@[simp] theorem setCtx_setCtx (s : State) (h c d) : (s.setCtx h c).setCtx h d = s.setCtx h d := by
  simp [State.setCtx, sparsePut_put]
@[simp] theorem setMs_setMs (s : State) (h c d) : (s.setMs h c).setMs h d = s.setMs h d := by
  simp [State.setMs, sparsePut_put]

theorem Ctx.rx_wx (c : Ctx) (r q : Reg) (v : Word) : (c.wx r v).rx q = if q = r ∧ r ≠ 0#5 then v else c.rx q := by
  unfold Ctx.rx Ctx.wx
  by_cases hr : r = 0#5
  · simp [hr]
  · by_cases hq : q = 0#5
    · have : ¬ (q = r) := by rw [hq]; exact fun h => hr h.symm
      simp [hq]
      intro h; exact absurd h.symm hr
    · simp only [hr, hq, if_false, ne_eq, not_false_eq_true, and_true]
      by_cases hh : c.handler ∧ 10 ≤ r.toNat ∧ r.toNat ≤ 17
      · simp only [hh, and_self, if_true]
        by_cases hqr : q = r
        · subst hqr
          have : q.toNat - 10 < 8 := by omega
          simp [hh, this]
        · simp only [hqr, if_false]
          split
          · rename_i h2
            have : r.toNat - 10 ≠ q.toNat - 10 := by
              intro h; apply hqr; apply BitVec.eq_of_toNat_eq; omega
            simp [Array.getD_eq_getD_getElem?, this]
          · rfl
      · simp only [hh, if_false]
        by_cases hqr : q = r
        · subst hqr; simp [hh]
        · simp only [hqr, if_false]
          split
          · rfl
          · have : (r.toFin : Nat) ≠ (q.toFin : Nat) := by
              intro h; apply hqr; apply BitVec.eq_of_toNat_eq; simpa using h.symm
            simp [Vector.getElem_set]
            intro h; exact absurd (BitVec.eq_of_toNat_eq h.symm) hqr

theorem Ms.rx_wx (c : Ms) (r q : Reg) (v : Word) : (c.wx r v).rx q = if q = r ∧ r ≠ 0#5 then v else c.rx q := by
  unfold Ms.rx Ms.wx
  by_cases hr : r = 0#5
  · simp [hr]
  · by_cases hq : q = 0#5
    · have : ¬ (q = r) := by rw [hq]; exact fun h => hr h.symm
      simp [hq]
      intro h; exact absurd h.symm hr
    · by_cases hqr : q = r
      · subst hqr; simp [hq]
      · have : (r.toFin : Nat) ≠ (q.toFin : Nat) := by
          intro h; apply hqr; apply BitVec.eq_of_toNat_eq; simpa using h.symm
        simp [hq, hr, hqr, Vector.getElem_set]
        intro h; exact absurd (BitVec.eq_of_toNat_eq h.symm) hqr

/-! Writing a register and retiring leave the mover. -/
@[simp] theorem wx_who (s : State) (r v) : (s.wx r v).who = s.who := by
  unfold State.wx; split <;> rfl
@[simp] theorem retire_who (s : State) (n) : (s.retire n).who = s.who := by
  unfold State.retire; split <;> simp_all
@[simp] theorem jump_who (s : State) (n) : (s.jump n).who = s.who := by
  unfold State.jump; split <;> simp_all

theorem stripOf_modStrip (c : Ctx) (slot : Nat) (f : Strip → Strip) (hf : ∀ t, (f t).slot = t.slot) :
    stripOf (modStrip c slot f) slot = (stripOf c slot).map f := by
  unfold stripOf modStrip
  simp only
  induction c.loop.strips with
  | nil => rfl
  | cons t l ih =>
    by_cases h : t.slot = slot
    · simp [h, hf]
    · simp [h]
      simpa using ih

theorem Ctx.rx_congr {c d : Ctx} (h1 : c.x = d.x) (h2 : c.shadow = d.shadow) (h3 : c.handler = d.handler) (r : Reg) : c.rx r = d.rx r := by
  unfold Ctx.rx; rw [h1, h2, h3]

@[simp] theorem Ctx.wx_handler_eq (c : Ctx) (r v) : (c.wx r v).handler = c.handler := by unfold Ctx.wx; split <;> (try split) <;> rfl

theorem endSkip_x (c : Ctx) : c.endSkip.x = c.x ∧ c.endSkip.shadow = c.shadow ∧ c.endSkip.handler = c.handler ∧ c.endSkip.pc = c.pc ∧ c.endSkip.instret = c.instret ∧ c.endSkip.loop = c.loop := by
  unfold Ctx.endSkip; simp only; split <;> simp

theorem endSkip_wx (c : Ctx) (r v) : (c.wx r v).endSkip = { c.endSkip with x := (c.wx r v).x, shadow := (c.wx r v).shadow } := by
  unfold Ctx.endSkip Ctx.wx
  by_cases hm : c.mode = .user <;> (by_cases hr : r = 0#5 <;> (by_cases hh : c.handler ∧ 10 ≤ r.toNat ∧ r.toNat ≤ 17 <;> simp [hm, hr, hh]))


/-- An RV64I instruction completes on a CT, an MS or a strip's cluster. -/
theorem scalarStep_next (s : State) (k : State → State)
    (hm : match s.who with | .ct _ | .ms _ | .ind .. => True | _ => False) : scalarStep s k = .next (k s) := by
  unfold scalarStep; cases hw : s.who <;> simp_all

/-- An instruction of the CT group completes on a CT or a strip's cluster. -/
theorem ctStep_next (s : State) (b : Word) (k : State → State)
    (hm : match s.who with | .ct _ | .ind .. => True | _ => False) : ctStep s b k = .next (k s) := by
  unfold ctStep; cases hw : s.who <;> simp_all

end Sys2Proof.Machine
end

