-- ==== Sys2Proof/Laws/Vector.lean ====
section
/-! SUPPORT. What the checks before a vector instruction and its commitment come to where no stream is bound, no
micro-thread of the context runs and nothing faults. -/

namespace Sys2Proof.Machine
open Sys2Proof

/-- With no stream bound, no register group meets one. -/
theorem streamOf_none (c : Ctx) (hs : ∀ t ∈ c.streams.toList, t.bound = false) (lmul reg : Nat) : c.streamOf lmul reg = none := by
  unfold Ctx.streamOf
  rw [List.find?_eq_none]
  intro ⟨n, t⟩ hm
  have := hs t (List.of_mem_zip hm).2
  simp [this]

theorem streamsOf_nil (c : Ctx) (hs : ∀ t ∈ c.streams.toList, t.bound = false) (lmul : Nat) (regs : List Nat) :
    streamsOf c lmul regs = [] := by
  unfold streamsOf
  rw [List.filterMap_eq_nil_iff]
  intro r _
  simp [streamOf_none c hs]

/-- The operands of an instruction whose sources are plain registers. -/
def plainIn (f : VForm) (s : State) : VIn :=
  { v := s.view, acts := s.actives s.view f.gm, reissue := s.mfSet s.view, got := [] }

/-- Nothing is waited for where no load is outstanding. -/
theorem whenLoaded_none (h lmul : Nat) (regs : List (Nat × Bool)) (lag : Nat) (s : State) (k : State → State)
    (hl : (s.ctx h).loading = []) : whenLoaded h lmul regs lag s k = k s := by
  have : awaitLoads h lmul regs s = (.ready, s) := by
    induction regs with
    | nil => rfl
    | cons r t ih => simp [awaitLoads, Ctx.loadOf, hl, ih]
  simp [whenLoaded, this]

theorem view_hart (s : State) : s.view.hart = s.hart := by
  unfold State.view; dsimp only; split <;> rfl

/-- The checks pass where `vty` is valid, the groups are aligned, no stream is bound and no micro-thread runs. -/
theorem vprep_plain (f : VForm) (s : State) (k : VIn → State → State) (hv : vtyVill s.view.vty = false)
    (ha : f.align.any (· % s.view.lmul ≠ 0) = false) (hs : ∀ t ∈ (s.ctx s.hart).streams.toList, t.bound = false)
    (hm : (s.mts.any fun p => p.2.state = .running && p.1 / 128 % 4 == ctxNo s.hart) = false) (hl : (s.ctx s.hart).loading = []) :
    vprep f s k = k (plainIn f s) s := by
  unfold vprep
  simp only [view_hart, hv, ha, Bool.false_eq_true, or_self, if_false, streamsOf_nil _ hs, streamCheck, List.append_nil,
    List.any_nil, List.filter_nil, List.find?_nil, streamOf_none _ hs, Option.isSome_none,
    takeAll, State.busyElem, hm, whenLoaded_none _ _ _ _ _ _ hl]
  simp [plainIn]

/-- The elements of a plain source are those of its register group. -/
@[simp] theorem plainIn_get (f : VForm) (s t : State) (r e : Nat) : (plainIn f s).get t r e = .ok (t.elem s.view r e) := by
  simp [VIn.get, plainIn]

theorem splitElems_ok {α : Type} (skip : Bool) (l : List (Nat × α)) :
    splitElems skip (l.map fun p => (p.1, (.ok p.2 : Except Ef α))) = (l, [], []) := by
  unfold splitElems
  simp [List.filterMap_map, Function.comp_def]

/-- Folding updates that leave the contexts and the mover alone leaves them alone. -/
theorem foldl_ctxs {α : Type} (f : State → α → State) (hf : ∀ s a, (f s a).ctxs = s.ctxs ∧ (f s a).who = s.who)
    (l : List α) (s : State) : (l.foldl f s).ctxs = s.ctxs ∧ (l.foldl f s).who = s.who := by
  induction l generalizing s with
  | nil => exact ⟨rfl, rfl⟩
  | cons a t ih => exact ⟨(ih _).1.trans (hf s a).1, (ih _).2.trans (hf s a).2⟩

/-- Contexts survive the writing of elements and mask bits. -/
theorem putElems_ctxs (s : State) (v : View) (r : Nat) (l) : (s.putElems v r l).ctxs = s.ctxs ∧ (s.putElems v r l).who = s.who :=
  foldl_ctxs _ (fun s a => by dsimp only; split <;> exact ⟨rfl, rfl⟩) l s

theorem setMaskBits_ctxs (v : View) (m : Nat) (l) (s : State) : (s.setMaskBits v m l).ctxs = s.ctxs ∧ (s.setMaskBits v m l).who = s.who :=
  foldl_ctxs (fun (s : State) (a : Nat × Bool × Bool) => s.setMaskBit v m a.1 a.2.1 a.2.2) (fun _ _ => ⟨rfl, rfl⟩) l s

theorem clearMf_ctxs (s : State) (v : View) : (s.clearMf v).ctxs = s.ctxs ∧ (s.clearMf v).who = s.who := by
  unfold State.clearMf
  split <;> exact ⟨rfl, rfl⟩

theorem ctx_of_ctxs {s t : State} (h : t.ctxs = s.ctxs) (n : Nat) : t.ctx n = s.ctx n := by
  unfold State.ctx; rw [h]

/-- The state after a vector instruction has written its elements: the destination group, `ldst`, `mf`. -/
def wroteElems (s : State) (d : Nat) (sets : Bool) (vals : List (Nat × BitVec 32 × Bool)) : State :=
  let t := s.putElems s.view d vals
  (if sets then t.modCtx s.hart fun c => { c with ldst := BitVec.ofNat 5 d } else t).clearMf s.view

/-- A commitment without faults writes its elements and the zeros of the policy, and retires. -/
theorem vcommit_plain (f : VForm) (s : State) (sets : Bool) (d : Nat) (vals : List (Nat × BitVec 32 × Bool)) (hd : f.dst = some d)
    (hs : ∀ t ∈ (s.ctx s.hart).streams.toList, t.bound = false) :
    vcommit f (plainIn f s) sets (vals.map fun p => (p.1, .ok p.2)) s =
      (wroteElems s d sets (vals ++ (plainIn f s).zeroed.map fun e => (e, 0, false))).retire f.len := by
  have hp : (plainIn f s).v.hart = s.hart := view_hart s
  have hv : (plainIn f s).v = s.view := rfl
  have hw : ∀ c : Ctx, (∀ t ∈ c.streams.toList, t.bound = false) → ∀ l, writeStream c f l = none := by
    intro c hc l; simp [writeStream, hd, streamOf_none c hc]
  have hst : stopPoison s f (plainIn f s) (vals.map fun p => (p.1, (.ok p.2 : Elem))) = (vals.map fun p => (p.1, .ok p.2), s) := by
    unfold stopPoison; rw [hp, hw _ hs]
  unfold vcommit
  rw [hst]
  dsimp only
  rw [splitElems_ok]
  simp only [List.isEmpty_nil, Bool.or_true, Bool.and_true, List.map_nil, State.settleMf, if_true, State.noteSkipped, State.putDest, hd,
    State.finish, hp, hw _ hs, streamOf_none _ hs, Option.isSome_none, Bool.false_eq_true, if_false]
  rw [hv]
  have hstr : ∀ t : State, (∀ u ∈ (t.ctx s.hart).streams.toList, u.bound = false) →
      movedStreams (t.ctx s.hart) f s.view.lmul = [] := by
    intro t ht; simp [movedStreams, streamsOf_nil _ ht]
  rw [hstr]
  · rfl
  · rw [ctx_of_ctxs (clearMf_ctxs _ _).1]
    cases sets
    · simpa [ctx_of_ctxs (putElems_ctxs _ _ _ _).1] using hs
    · simpa [ctx_of_ctxs (putElems_ctxs _ _ _ _).1] using hs

/-- The same of a mask destination. -/
theorem mcommit_plain (f : VForm) (s : State) (m : Nat) (vals : List (Nat × Bool × Bool))
    (hs : ∀ t ∈ (s.ctx s.hart).streams.toList, t.bound = false) :
    mcommit f (plainIn f s) m (vals.map fun p => (p.1, .ok p.2)) s =
      ((s.setMaskBits s.view m (vals ++ (plainIn f s).zeroed.map fun e => (e, false, false))).clearMf s.view).retire f.len := by
  have hp : (plainIn f s).v.hart = s.hart := view_hart s
  have hv : (plainIn f s).v = s.view := rfl
  unfold mcommit
  simp only [splitElems_ok, List.map_nil, State.settleMf, List.isEmpty_nil, if_true, State.noteSkipped, State.finish, hp]
  rw [hv]
  have hstr : ∀ t : State, (∀ u ∈ (t.ctx s.hart).streams.toList, u.bound = false) →
      movedStreams (t.ctx s.hart) f s.view.lmul = [] := by
    intro t ht; simp [movedStreams, streamsOf_nil _ ht]
  rw [hstr]
  · rfl
  · rw [ctx_of_ctxs (clearMf_ctxs _ _).1, ctx_of_ctxs (setMaskBits_ctxs _ _ _ _).1]
    exact hs

/-- Source b of element e as a value. -/
def laneB (o : T48) (shift : Bool) (s : State) (e : Nat) : BitVec 32 × Bool :=
  match o.kind with
  | 0 => s.elem s.view o.b.toNat (repIndex o.rep e)
  | 1 => (s.view.scalar (s.rx o.b), false)
  | _ => (s.view.imm shift o.b, false)

@[simp] theorem bElem_plain (o : T48) (shift : Bool) (f : VForm) (s : State) (e : Nat) :
    bElem o shift (plainIn f s) s e = .ok (laneB o shift s e) := by
  unfold bElem laneB
  split
  · simp_all
  · simp_all [plainIn]
  · simp_all [plainIn]

/-- No element reads what an earlier one wrote where source b is not a replicated destination. -/
theorem readsOwn_false (o : T48) (x : VIn) (s : State) (hr : o.kind = 0 → o.rep = 0 ∨ o.b ≠ o.d) : readsOwn o x s = false := by
  unfold readsOwn
  by_cases hk : o.kind = 0
  · rcases hr hk with h | h <;> simp [h]
  · simp [hk]

/-- What a lane instruction does where its checks pass: every active element from its sources, the policy's zeros,
and the next instruction. -/
theorem laneOp_plain (c : BitVec 6 × BitVec 6) (o : T48) (two dread shift : Bool)
    (f : View → BitVec 3 → BitVec 32 → BitVec 32 → BitVec 32 → BitVec 32) (s : State) (hr : two = true → o.kind = 0 → o.rep = 0 ∨ o.b ≠ o.d)
    (hw : match s.who with | .ct _ | .ind .. => True | _ => False) (hv : vtyVill s.view.vty = false)
    (ha : ∀ r ∈ o.d.toNat :: o.a.toNat :: (if two && o.kind = 0 then [o.b.toNat] else []), r % s.view.lmul = 0)
    (hs : ∀ t ∈ (s.ctx s.hart).streams.toList, t.bound = false)
    (hm : (s.mts.any fun p => p.2.state = .running && p.1 / 128 % 4 == ctxNo s.hart) = false) (hl : (s.ctx s.hart).loading = []) :
    laneOp c o two dread shift f s = .next ((wroteElems s o.d.toNat true (
      ((s.actives s.view o.gm.toNat).map fun e =>
        let a := s.elem s.view o.a.toNat e
        let b : BitVec 32 × Bool := if two then
            laneB o shift s e
          else (0, false)
        let d : BitVec 32 × Bool := if dread then s.elem s.view o.d.toNat e else (0, false)
        (e, f s.view (s.mode o.rm) d.1 a.1 b.1, ((d.2 || (a.2 || b.2)) || a.2) || s.governPois s.view o.gm.toNat e)) ++
      (plainIn (vform c o (useA o :: (if two && o.kind = 0 then [useB o] else [])) dread) s).zeroed.map
        fun e => (e, 0, false))).retire 6) := by
  have hown : ∀ x : VIn, (two && readsOwn o x s) = false := by
    intro x
    cases two
    · rfl
    · simpa using readsOwn_false o x s (hr rfl)
  unfold laneOp vectorStep
  dsimp only
  rw [ctStep_next _ _ _ hw, vprep_plain _ s _ hv _ hs hm hl, hown]
  · simp only [inTurn, Bool.false_eq_true, if_false]
    have h := vcommit_plain (vform c o (useA o :: (if two && o.kind = 0 then [useB o] else [])) dread) s true o.d.toNat
      ((s.actives s.view o.gm.toNat).map fun e =>
        let a := s.elem s.view o.a.toNat e
        let b : BitVec 32 × Bool := if two then
            laneB o shift s e
          else (0, false)
        let d : BitVec 32 × Bool := if dread then s.elem s.view o.d.toNat e else (0, false)
        (e, f s.view (s.mode o.rm) d.1 a.1 b.1, ((d.2 || (a.2 || b.2)) || a.2) || s.governPois s.view o.gm.toNat e)) rfl hs
    rw [List.map_map] at h
    refine congrArg Host.Outcome.next (Eq.trans ?_ h)
    congr 1
    refine List.map_congr_left fun e _ => ?_
    simp only [plainIn_get, bElem_plain, Function.comp_apply, VIn.taint]
    refine Prod.ext rfl ?_
    have hv' : (plainIn (vform c o (useA o :: (if two && o.kind = 0 then [useB o] else [])) dread) s).v = s.view := rfl
    rw [hv']
    cases two <;> cases dread <;> simp only [Bool.false_eq_true, if_false, if_true, map2, Except.map, vform] <;> rfl
  · rw [List.any_eq_false]
    intro r hr
    have : r ∈ o.d.toNat :: o.a.toNat :: (if two && o.kind = 0 then [o.b.toNat] else []) := by
      revert hr; simp only [vform]; split <;> simp [useA, useB, useEach]
    simp [ha r this]

/-- A form with a governing mask and nothing else. -/
def maskForm (gm : Nat) : VForm :=
  { len := 6, bits := 0, gm := gm, uses := [], dst := none, noStream := [], load := false, align := [], extra := noExtra }

/-- The same of a compare into a mask. -/
theorem maskOp_plain (c : BitVec 6 × BitVec 6) (o : T48) (f : View → BitVec 32 → BitVec 32 → Bool) (s : State)
    (hw : match s.who with | .ct _ | .ind .. => True | _ => False) (hv : vtyVill s.view.vty = false)
    (ha : ∀ r ∈ o.a.toNat :: (if o.kind = 0 then [o.b.toNat] else []), r % s.view.lmul = 0)
    (hs : ∀ t ∈ (s.ctx s.hart).streams.toList, t.bound = false)
    (hm : (s.mts.any fun p => p.2.state = .running && p.1 / 128 % 4 == ctxNo s.hart) = false) (hl : (s.ctx s.hart).loading = []) :
    maskOp c o f s = .next (((s.setMaskBits s.view o.d.toNat (
      ((s.actives s.view o.gm.toNat).map fun e =>
        (e, f s.view (s.elem s.view o.a.toNat e).1 (laneB o false s e).1,
          ((s.elem s.view o.a.toNat e).2 || (laneB o false s e).2) || s.governPois s.view o.gm.toNat e)) ++
      (plainIn (maskForm o.gm.toNat) s).zeroed.map fun e => (e, false, false))).clearMf s.view).retire 6) := by
  unfold maskOp vectorStep
  dsimp only
  rw [ctStep_next _ _ _ hw, vprep_plain _ s _ hv _ hs hm hl]
  · generalize hF : (VForm.mk 6 (t48Bits c o) o.gm.toNat (useA o :: (if o.kind = 0 then [useB o] else [])) none [] false
      ((useA o :: (if o.kind = 0 then [useB o] else [])).map (·.reg)) noExtra) = F
    have h := mcommit_plain F s o.d.toNat
      ((s.actives s.view o.gm.toNat).map fun e =>
        (e, f s.view (s.elem s.view o.a.toNat e).1 (laneB o false s e).1,
          ((s.elem s.view o.a.toNat e).2 || (laneB o false s e).2) || s.governPois s.view o.gm.toNat e)) hs
    rw [List.map_map] at h
    have hg : F.gm = o.gm.toNat := by rw [← hF]
    have hl : F.len = 6 := by rw [← hF]
    have hz : (plainIn F s).zeroed = (plainIn (maskForm o.gm.toNat) s).zeroed := by simp [plainIn, hg, maskForm]
    rw [hz, hl] at h
    refine congrArg Host.Outcome.next (Eq.trans ?_ h)
    have hacts : (plainIn F s).acts = s.actives s.view o.gm.toNat := by simp [plainIn, hg]
    rw [hacts]
    congr 1
    refine List.map_congr_left fun e _ => ?_
    simp only [plainIn_get, bElem_plain, Function.comp_apply, VIn.taint, map2, Except.map]
    refine Prod.ext rfl ?_
    have hv' : (plainIn F s).v = s.view := rfl
    simp only [hv']
    cases f s.view (s.elem s.view o.a.toNat e).1 (laneB o false s e).1 <;> rfl
  · rw [List.any_eq_false]
    intro r hr
    have : r ∈ o.a.toNat :: (if o.kind = 0 then [o.b.toNat] else []) := by
      revert hr; dsimp only; split <;> simp [useA, useB, useEach]
    simp [ha r this]

/-- The same of a K16 instruction on vLAST. -/
theorem lastOp_plain (bits : Word) (srcs : List Nat) (f : View → BitVec 3 → BitVec 32 → BitVec 32 → BitVec 32 → BitVec 32) (s : State)
    (hw : match s.who with | .ct _ | .ind .. => True | _ => False) (hv : vtyVill s.view.vty = false)
    (ha : ∀ r ∈ s.vlast.toNat :: srcs, r % s.view.lmul = 0)
    (hs : ∀ t ∈ (s.ctx s.hart).streams.toList, t.bound = false)
    (hm : (s.mts.any fun p => p.2.state = .running && p.1 / 128 % 4 == ctxNo s.hart) = false) (hl : (s.ctx s.hart).loading = []) :
    lastOp bits srcs f s = .next ((wroteElems s s.vlast.toNat false (
      ((s.actives s.view 0).map fun e =>
        let l := s.elem s.view s.vlast.toNat e
        let src (k : Nat) : BitVec 32 × Bool := match srcs[k]? with | some r => s.elem s.view r e | none => (0, false)
        (e, f s.view (s.mode 0#3) l.1 (src 0).1 (src 1).1, l.2 || ((src 0).2 || (src 1).2) || (src 0).2)) ++
      (plainIn (k16Form bits s.vlast.toNat srcs) s).zeroed.map fun e => (e, 0, false))).retire 2) := by
  unfold lastOp vectorStep
  dsimp only
  rw [ctStep_next _ _ _ hw, vprep_plain _ s _ hv _ hs hm hl]
  · have h := vcommit_plain (k16Form bits s.vlast.toNat srcs) s false s.vlast.toNat
      ((s.actives s.view 0).map fun e =>
        let l := s.elem s.view s.vlast.toNat e
        let src (k : Nat) : BitVec 32 × Bool := match srcs[k]? with | some r => s.elem s.view r e | none => (0, false)
        (e, f s.view (s.mode 0#3) l.1 (src 0).1 (src 1).1, l.2 || ((src 0).2 || (src 1).2) || (src 0).2)) rfl hs
    rw [List.map_map] at h
    refine congrArg Host.Outcome.next (Eq.trans ?_ h)
    congr 1
    refine List.map_congr_left fun e _ => ?_
    simp only [plainIn_get, Function.comp_apply]
    refine Prod.ext rfl ?_
    have hv' : (plainIn (k16Form bits s.vlast.toNat srcs) s).v = s.view := rfl
    rw [hv']
    cases srcs[0]? <;> cases srcs[1]? <;> rfl
  · rw [List.any_eq_false]
    intro r hr
    simp [ha r (by simpa [k16Form] using hr)]

end Sys2Proof.Machine
end

