-- ==== Sys2Proof/Tests/Slice0.lean ====
section
/-! SUPPORT. Tests: the words of every instruction that has an encoding, ill-formed terms, the witnesses of the statements'
hypotheses, and single steps with results taken from the spec. -/

namespace Sys2Proof.Tests
open Sys2Proof Sys2Proof.Machine Sys2Proof.Claims

set_option Elab.async false

/-! Words written out from the encodings of R127, R129, R134, R139, R141 and R398. -/

theorem test_decode_scalar_1 :
    decode [0xB7, 0x74, 0x5A, 0x8C] = .ok (.lui 9#5 0x8C5A7#20, []) ∧
    decode [0x97, 0x5F, 0x34, 0x12] = .ok (.auipc 31#5 0x12345#20, []) ∧
    decode [0xEF, 0xF0, 0x1F, 0x80] = .ok (.jal 1#5 0xFFC00#20, []) ∧
    decode [0xE7, 0x81, 0xC2, 0xFF] = .ok (.jalr 3#5 5#5 0xFFC#12, []) ∧
    decode [0x63, 0x00, 0x7A, 0x80] = .ok (.beq 20#5 7#5 0x800#12, []) ∧
    decode [0xE3, 0x10, 0x8A, 0x00] = .ok (.bne 20#5 8#5 0x400#12, []) :=
  ⟨rfl, rfl, rfl, rfl, rfl, rfl⟩

theorem test_decode_scalar_2 :
    decode [0x63, 0x4F, 0x9A, 0x00] = .ok (.blt 20#5 9#5 0xF#12, []) ∧
    decode [0xE3, 0x51, 0xAA, 0xFE] = .ok (.bge 20#5 10#5 0xFF1#12, []) ∧
    decode [0xE3, 0x6F, 0xBA, 0x7E] = .ok (.bltu 20#5 11#5 0x7FF#12, []) ∧
    decode [0x63, 0x70, 0xCA, 0x40] = .ok (.bgeu 20#5 12#5 0x200#12, []) ∧
    decode [0x83, 0x01, 0x05, 0x80] = .ok (.lb 3#5 10#5 0x800#12, []) ∧
    decode [0x83, 0x11, 0x15, 0x80] = .ok (.lh 3#5 10#5 0x801#12, []) :=
  ⟨rfl, rfl, rfl, rfl, rfl, rfl⟩

theorem test_decode_scalar_3 :
    decode [0x83, 0x21, 0x25, 0x80] = .ok (.lw 3#5 10#5 0x802#12, []) ∧
    decode [0x83, 0x31, 0x35, 0x80] = .ok (.ld 3#5 10#5 0x803#12, []) ∧
    decode [0x83, 0x41, 0x45, 0x80] = .ok (.lbu 3#5 10#5 0x804#12, []) ∧
    decode [0x83, 0x51, 0x55, 0x80] = .ok (.lhu 3#5 10#5 0x805#12, []) ∧
    decode [0x83, 0x61, 0x65, 0x80] = .ok (.lwu 3#5 10#5 0x806#12, []) ∧
    decode [0xA3, 0x0F, 0xC5, 0xFC] = .ok (.sb 10#5 12#5 0xFDF#12, []) :=
  ⟨rfl, rfl, rfl, rfl, rfl, rfl⟩

theorem test_decode_scalar_4 :
    decode [0x23, 0x10, 0xC5, 0xFE] = .ok (.sh 10#5 12#5 0xFE0#12, []) ∧
    decode [0xA3, 0x20, 0xC5, 0xFE] = .ok (.sw 10#5 12#5 0xFE1#12, []) ∧
    decode [0x23, 0x31, 0xC5, 0xFE] = .ok (.sd 10#5 12#5 0xFE2#12, []) ∧
    decode [0x13, 0x01, 0xFF, 0xFF] = .ok (.addi 2#5 30#5 0xFFF#12, []) ∧
    decode [0x13, 0x21, 0xDF, 0xFF] = .ok (.slti 2#5 30#5 0xFFD#12, []) ∧
    decode [0x13, 0x31, 0xCF, 0xFF] = .ok (.sltiu 2#5 30#5 0xFFC#12, []) :=
  ⟨rfl, rfl, rfl, rfl, rfl, rfl⟩

theorem test_decode_scalar_5 :
    decode [0x13, 0x41, 0xBF, 0xFF] = .ok (.xori 2#5 30#5 0xFFB#12, []) ∧
    decode [0x13, 0x61, 0x9F, 0xFF] = .ok (.ori 2#5 30#5 0xFF9#12, []) ∧
    decode [0x13, 0x71, 0x8F, 0xFF] = .ok (.andi 2#5 30#5 0xFF8#12, []) ∧
    decode [0x93, 0x12, 0x53, 0x02] = .ok (.slli 5#5 6#5 37#6, []) ∧
    decode [0x93, 0x52, 0x53, 0x02] = .ok (.srli 5#5 6#5 37#6, []) ∧
    decode [0x93, 0x52, 0x53, 0x42] = .ok (.srai 5#5 6#5 37#6, []) :=
  ⟨rfl, rfl, rfl, rfl, rfl, rfl⟩

theorem test_decode_scalar_6 :
    decode [0xB3, 0x02, 0x13, 0x01] = .ok (.add 5#5 6#5 17#5, []) ∧
    decode [0xB3, 0x02, 0x13, 0x41] = .ok (.sub 5#5 6#5 17#5, []) ∧
    decode [0xB3, 0x12, 0x13, 0x01] = .ok (.sll 5#5 6#5 17#5, []) ∧
    decode [0xB3, 0x22, 0x13, 0x01] = .ok (.slt 5#5 6#5 17#5, []) ∧
    decode [0xB3, 0x32, 0x13, 0x01] = .ok (.sltu 5#5 6#5 17#5, []) ∧
    decode [0xB3, 0x42, 0x13, 0x01] = .ok (.xor 5#5 6#5 17#5, []) :=
  ⟨rfl, rfl, rfl, rfl, rfl, rfl⟩

theorem test_decode_scalar_7 :
    decode [0xB3, 0x52, 0x13, 0x01] = .ok (.srl 5#5 6#5 17#5, []) ∧
    decode [0xB3, 0x52, 0x13, 0x41] = .ok (.sra 5#5 6#5 17#5, []) ∧
    decode [0xB3, 0x62, 0x13, 0x01] = .ok (.or 5#5 6#5 17#5, []) ∧
    decode [0xB3, 0x72, 0x13, 0x01] = .ok (.and 5#5 6#5 17#5, []) ∧
    decode [0x9B, 0x02, 0x13, 0x80] = .ok (.addiw 5#5 6#5 0x801#12, []) ∧
    decode [0x9B, 0x12, 0x33, 0x01] = .ok (.slliw 5#5 6#5 19#5, []) :=
  ⟨rfl, rfl, rfl, rfl, rfl, rfl⟩

theorem test_decode_scalar_8 :
    decode [0x9B, 0x52, 0x33, 0x01] = .ok (.srliw 5#5 6#5 19#5, []) ∧
    decode [0x9B, 0x52, 0x33, 0x41] = .ok (.sraiw 5#5 6#5 19#5, []) ∧
    decode [0xBB, 0x02, 0x13, 0x01] = .ok (.addw 5#5 6#5 17#5, []) ∧
    decode [0xBB, 0x02, 0x13, 0x41] = .ok (.subw 5#5 6#5 17#5, []) ∧
    decode [0xBB, 0x12, 0x13, 0x01] = .ok (.sllw 5#5 6#5 17#5, []) ∧
    decode [0xBB, 0x52, 0x13, 0x01] = .ok (.srlw 5#5 6#5 17#5, []) :=
  ⟨rfl, rfl, rfl, rfl, rfl, rfl⟩

theorem test_decode_scalar_9 :
    decode [0xBB, 0x52, 0x13, 0x41] = .ok (.sraw 5#5 6#5 17#5, []) ∧
    decode [0x0F, 0x00, 0x30, 0x03] = .ok (.fence 0#4 3#4 3#4 0#5 0#5, []) ∧
    decode [0x0F, 0x00, 0x30, 0x83] = .ok (.fenceTso 0#5 0#5, []) ∧
    decode [0x73, 0x00, 0x00, 0x00] = .ok (.ecall, []) ∧
    decode [0x73, 0x00, 0x10, 0x00] = .ok (.ebreak, []) ∧
    decode [0xB3, 0x02, 0x13, 0x03] = .ok (.mul 5#5 6#5 17#5, []) :=
  ⟨rfl, rfl, rfl, rfl, rfl, rfl⟩

theorem test_decode_scalar_10 :
    decode [0xB3, 0x12, 0x13, 0x03] = .ok (.mulh 5#5 6#5 17#5, []) ∧
    decode [0xB3, 0x22, 0x13, 0x03] = .ok (.mulhsu 5#5 6#5 17#5, []) ∧
    decode [0xB3, 0x32, 0x13, 0x03] = .ok (.mulhu 5#5 6#5 17#5, []) ∧
    decode [0xB3, 0x42, 0x13, 0x03] = .ok (.div 5#5 6#5 17#5, []) ∧
    decode [0xB3, 0x52, 0x13, 0x03] = .ok (.divu 5#5 6#5 17#5, []) ∧
    decode [0xB3, 0x62, 0x13, 0x03] = .ok (.rem 5#5 6#5 17#5, []) :=
  ⟨rfl, rfl, rfl, rfl, rfl, rfl⟩

theorem test_decode_scalar_11 :
    decode [0xB3, 0x72, 0x13, 0x03] = .ok (.remu 5#5 6#5 17#5, []) ∧
    decode [0xBB, 0x02, 0x13, 0x03] = .ok (.mulw 5#5 6#5 17#5, []) ∧
    decode [0xBB, 0x42, 0x13, 0x03] = .ok (.divw 5#5 6#5 17#5, []) ∧
    decode [0xBB, 0x52, 0x13, 0x03] = .ok (.divuw 5#5 6#5 17#5, []) ∧
    decode [0xBB, 0x62, 0x13, 0x03] = .ok (.remw 5#5 6#5 17#5, []) ∧
    decode [0xBB, 0x72, 0x13, 0x03] = .ok (.remuw 5#5 6#5 17#5, []) :=
  ⟨rfl, rfl, rfl, rfl, rfl, rfl⟩

theorem test_decode_atomic_1 :
    decode [0xAF, 0x22, 0x03, 0x14] = .ok (.lrW true false 5#5 6#5, []) ∧
    decode [0xAF, 0x22, 0x13, 0x1B] = .ok (.scW false true 5#5 6#5 17#5, []) ∧
    decode [0xAF, 0x22, 0x13, 0x09] = .ok (.amoswapW false false 5#5 6#5 17#5, []) ∧
    decode [0xAF, 0x22, 0x13, 0x01] = .ok (.amoaddW false false 5#5 6#5 17#5, []) ∧
    decode [0xAF, 0x22, 0x13, 0x21] = .ok (.amoxorW false false 5#5 6#5 17#5, []) ∧
    decode [0xAF, 0x22, 0x13, 0x61] = .ok (.amoandW false false 5#5 6#5 17#5, []) :=
  ⟨rfl, rfl, rfl, rfl, rfl, rfl⟩

theorem test_decode_atomic_2 :
    decode [0xAF, 0x22, 0x13, 0x41] = .ok (.amoorW false false 5#5 6#5 17#5, []) ∧
    decode [0xAF, 0x22, 0x13, 0x81] = .ok (.amominW false false 5#5 6#5 17#5, []) ∧
    decode [0xAF, 0x22, 0x13, 0xA1] = .ok (.amomaxW false false 5#5 6#5 17#5, []) ∧
    decode [0xAF, 0x22, 0x13, 0xC1] = .ok (.amominuW false false 5#5 6#5 17#5, []) ∧
    decode [0xAF, 0x22, 0x13, 0xE1] = .ok (.amomaxuW false false 5#5 6#5 17#5, []) ∧
    decode [0xAF, 0x32, 0x03, 0x14] = .ok (.lrD true false 5#5 6#5, []) :=
  ⟨rfl, rfl, rfl, rfl, rfl, rfl⟩

theorem test_decode_atomic_3 :
    decode [0xAF, 0x32, 0x13, 0x1B] = .ok (.scD false true 5#5 6#5 17#5, []) ∧
    decode [0xAF, 0x32, 0x13, 0x09] = .ok (.amoswapD false false 5#5 6#5 17#5, []) ∧
    decode [0xAF, 0x32, 0x13, 0x01] = .ok (.amoaddD false false 5#5 6#5 17#5, []) ∧
    decode [0xAF, 0x32, 0x13, 0x21] = .ok (.amoxorD false false 5#5 6#5 17#5, []) ∧
    decode [0xAF, 0x32, 0x13, 0x61] = .ok (.amoandD false false 5#5 6#5 17#5, []) ∧
    decode [0xAF, 0x32, 0x13, 0x41] = .ok (.amoorD false false 5#5 6#5 17#5, []) :=
  ⟨rfl, rfl, rfl, rfl, rfl, rfl⟩

theorem test_decode_atomic_4 :
    decode [0xAF, 0x32, 0x13, 0x81] = .ok (.amominD false false 5#5 6#5 17#5, []) ∧
    decode [0xAF, 0x32, 0x13, 0xA1] = .ok (.amomaxD false false 5#5 6#5 17#5, []) ∧
    decode [0xAF, 0x32, 0x13, 0xC1] = .ok (.amominuD false false 5#5 6#5 17#5, []) ∧
    decode [0xAF, 0x32, 0x13, 0xE1] = .ok (.amomaxuD false false 5#5 6#5 17#5, []) :=
  ⟨rfl, rfl, rfl, rfl⟩

theorem test_decode_system_1 :
    decode [0xF3, 0x12, 0x13, 0x80] = .ok (.csrrw 5#5 6#5 0x801#12, []) ∧
    decode [0xF3, 0x22, 0x13, 0x80] = .ok (.csrrs 5#5 6#5 0x801#12, []) ∧
    decode [0xF3, 0x32, 0x13, 0x80] = .ok (.csrrc 5#5 6#5 0x801#12, []) ∧
    decode [0xF3, 0xD2, 0x2A, 0x14] = .ok (.csrrwi 5#5 21#5 0x142#12, []) ∧
    decode [0xF3, 0xE2, 0x2A, 0x14] = .ok (.csrrsi 5#5 21#5 0x142#12, []) ∧
    decode [0xF3, 0xF2, 0x2A, 0x14] = .ok (.csrrci 5#5 21#5 0x142#12, []) :=
  ⟨rfl, rfl, rfl, rfl, rfl, rfl⟩

theorem test_decode_system_2 :
    decode [0x0F, 0x10, 0x00, 0x00] = .ok (.fenceI 0#5 0#5 0#12, []) ∧
    decode [0x73, 0x00, 0x20, 0x10] = .ok (.sret, []) ∧
    decode [0x73, 0x00, 0x50, 0x10] = .ok (.wfi, []) ∧
    decode [0x73, 0x00, 0x03, 0x12] = .ok (.sfenceVma 6#5 0#5, []) :=
  ⟨rfl, rfl, rfl, rfl⟩

theorem test_decode_k16_1 :
    decode [0x24, 0x10] = .ok (.vfaddK 9#5, []) ∧
    decode [0x24, 0x20] = .ok (.vfsubK 9#5, []) ∧
    decode [0x24, 0x30] = .ok (.vfmulK 9#5, []) ∧
    decode [0x24, 0x50] = .ok (.vfmaxK 9#5, []) ∧
    decode [0x24, 0x60] = .ok (.vfminK 9#5, []) ∧
    decode [0xA4, 0x48] = .ok (.vfmaK 9#5 17#5, []) :=
  ⟨rfl, rfl, rfl, rfl, rfl, rfl⟩

theorem test_decode_k16_2 :
    decode [0x25, 0x10] = .ok (.vaddK 9#5, []) ∧
    decode [0x25, 0x20] = .ok (.vsubK 9#5, []) ∧
    decode [0x25, 0x30] = .ok (.vandK 9#5, []) ∧
    decode [0x25, 0x40] = .ok (.vorK 9#5, []) ∧
    decode [0x25, 0x50] = .ok (.vxorK 9#5, []) ∧
    decode [0x81, 0x6A] = .ok (.vsllK 21#5, []) :=
  ⟨rfl, rfl, rfl, rfl, rfl, rfl⟩

theorem test_decode_k16_3 :
    decode [0x81, 0x7A] = .ok (.vsraK 21#5, []) ∧
    decode [0x26, 0x10] = .ok (.vmvK 9#5, []) ∧
    decode [0x82, 0x2A] = .ok (.vslideupK 21#5, []) ∧
    decode [0x82, 0x3A] = .ok (.vslidednK 21#5, []) :=
  ⟨rfl, rfl, rfl, rfl⟩

theorem test_decode_vcfg_1 :
    decode [0x5F, 0x00, 0x14, 0x0B, 0x00, 0x92] = .ok (.vsetl { aux := 0x92#8, rep := 0#2, fb := false, fa := false, gm := 0#3, b := 0#5, a := 22#5, d := 5#5 }, []) ∧
    decode [0x5F, 0x10, 0x14, 0x3B, 0x01, 0x00] = .ok (.vsetlr { aux := 0x00#8, rep := 0#2, fb := false, fa := false, gm := 0#3, b := 19#5, a := 22#5, d := 5#5 }, []) ∧
    decode [0x5F, 0x20, 0x00, 0x0B, 0x00, 0x00] = .ok (.vloopSeq { aux := 0x00#8, rep := 0#2, fb := false, fa := false, gm := 0#3, b := 0#5, a := 22#5, d := 0#5 }, []) ∧
    decode [0x5F, 0x30, 0x00, 0x0B, 0x00, 0x00] = .ok (.vloopInd { aux := 0x00#8, rep := 0#2, fb := false, fa := false, gm := 0#3, b := 0#5, a := 22#5, d := 0#5 }, []) ∧
    decode [0x5F, 0x40, 0x00, 0x00, 0x00, 0x00] = .ok (.vnext { aux := 0x00#8, rep := 0#2, fb := false, fa := false, gm := 0#3, b := 0#5, a := 0#5, d := 0#5 }, []) ∧
    decode [0x5F, 0x50, 0x14, 0x00, 0x06, 0x00] = .ok (.vsidx { aux := 0x00#8, rep := 0#2, fb := false, fa := false, gm := 3#3, b := 0#5, a := 0#5, d := 5#5 }, []) :=
  ⟨rfl, rfl, rfl, rfl, rfl, rfl⟩

theorem test_decode_vcfg_2 :
    decode [0x5F, 0x60, 0x14, 0x00, 0x06, 0x00] = .ok (.vidx { aux := 0x00#8, rep := 0#2, fb := false, fa := false, gm := 3#3, b := 0#5, a := 0#5, d := 5#5 }, []) ∧
    decode [0x5F, 0x70, 0x14, 0x3B, 0x01, 0x00] = .ok (.lpset { aux := 0x00#8, rep := 0#2, fb := false, fa := false, gm := 0#3, b := 19#5, a := 22#5, d := 5#5 }, []) ∧
    decode [0x5F, 0x80, 0x94, 0x07, 0x00, 0x00] = .ok (.wbase { aux := 0x00#8, rep := 0#2, fb := false, fa := false, gm := 0#3, b := 0#5, a := 15#5, d := 5#5 }, []) :=
  ⟨rfl, rfl, rfl⟩

theorem test_decode_uctl_1 :
    decode [0x9F, 0x00, 0x14, 0x3B, 0x07, 0xA5] = .ok (.vfetch { aux := 0xA5#8, rep := 0#2, fb := false, fa := false, gm := 3#3, b := 19#5, a := 22#5, d := 5#5 }, []) ∧
    decode [0x9F, 0x10, 0x00, 0x0B, 0x06, 0x00] = .ok (.vfetchr { aux := 0x00#8, rep := 0#2, fb := false, fa := false, gm := 3#3, b := 0#5, a := 22#5, d := 0#5 }, []) ∧
    decode [0x9F, 0x20, 0x14, 0x00, 0x00, 0x00] = .ok (.uwait { aux := 0x00#8, rep := 0#2, fb := false, fa := false, gm := 0#3, b := 0#5, a := 0#5, d := 5#5 }, []) ∧
    decode [0x9F, 0x30, 0x14, 0x20, 0x00, 0x00] = .ok (.ufstat { aux := 0x00#8, rep := 0#2, fb := false, fa := false, gm := 0#3, b := 2#5, a := 0#5, d := 5#5 }, []) ∧
    decode [0x9F, 0x40, 0x80, 0x03, 0x00, 0x00] = .ok (.uresume { aux := 0x00#8, rep := 0#2, fb := false, fa := false, gm := 0#3, b := 0#5, a := 7#5, d := 0#5 }, []) ∧
    decode [0x9F, 0x50, 0x80, 0x03, 0x00, 0x00] = .ok (.ukill { aux := 0x00#8, rep := 0#2, fb := false, fa := false, gm := 0#3, b := 0#5, a := 7#5, d := 0#5 }, []) :=
  ⟨rfl, rfl, rfl, rfl, rfl, rfl⟩

theorem test_decode_uctl_2 :
    decode [0x9F, 0x60, 0x00, 0x0B, 0x00, 0x00] = .ok (.vlinkin { aux := 0x00#8, rep := 0#2, fb := false, fa := false, gm := 0#3, b := 0#5, a := 22#5, d := 0#5 }, []) ∧
    decode [0x9F, 0x70, 0x14, 0x00, 0x00, 0x00] = .ok (.vlinkout { aux := 0x00#8, rep := 0#2, fb := false, fa := false, gm := 0#3, b := 0#5, a := 0#5, d := 5#5 }, []) :=
  ⟨rfl, rfl⟩

theorem test_decode_vfa_1 :
    decode [0x1F, 0x01, 0x14, 0x3B, 0x07, 0x44] = .ok (.vfadd { aux := 0x44#8, rep := 0#2, fb := false, fa := false, gm := 3#3, b := 19#5, a := 22#5, d := 5#5 }, []) ∧
    decode [0x1F, 0x11, 0x14, 0x3B, 0x07, 0x44] = .ok (.vfsub { aux := 0x44#8, rep := 0#2, fb := false, fa := false, gm := 3#3, b := 19#5, a := 22#5, d := 5#5 }, []) ∧
    decode [0x1F, 0x21, 0x14, 0x3B, 0x07, 0x44] = .ok (.vfmul { aux := 0x44#8, rep := 0#2, fb := false, fa := false, gm := 3#3, b := 19#5, a := 22#5, d := 5#5 }, []) ∧
    decode [0x1F, 0x31, 0x14, 0x3B, 0x07, 0x44] = .ok (.vfma { aux := 0x44#8, rep := 0#2, fb := false, fa := false, gm := 3#3, b := 19#5, a := 22#5, d := 5#5 }, []) ∧
    decode [0x1F, 0x41, 0x14, 0x3B, 0x07, 0x44] = .ok (.vfms { aux := 0x44#8, rep := 0#2, fb := false, fa := false, gm := 3#3, b := 19#5, a := 22#5, d := 5#5 }, []) ∧
    decode [0x1F, 0x51, 0x14, 0x3B, 0x07, 0x44] = .ok (.vfnma { aux := 0x44#8, rep := 0#2, fb := false, fa := false, gm := 3#3, b := 19#5, a := 22#5, d := 5#5 }, []) :=
  ⟨rfl, rfl, rfl, rfl, rfl, rfl⟩

theorem test_decode_vfa_2 :
    decode [0x1F, 0x61, 0x14, 0x3B, 0x07, 0x40] = .ok (.vfmin { aux := 0x40#8, rep := 0#2, fb := false, fa := false, gm := 3#3, b := 19#5, a := 22#5, d := 5#5 }, []) ∧
    decode [0x1F, 0x71, 0x14, 0x3B, 0x07, 0x40] = .ok (.vfmax { aux := 0x40#8, rep := 0#2, fb := false, fa := false, gm := 3#3, b := 19#5, a := 22#5, d := 5#5 }, []) ∧
    decode [0x1F, 0x81, 0x14, 0x3B, 0x07, 0x44] = .ok (.vfdiv { aux := 0x44#8, rep := 0#2, fb := false, fa := false, gm := 3#3, b := 19#5, a := 22#5, d := 5#5 }, []) ∧
    decode [0x1F, 0x91, 0x14, 0x0B, 0x06, 0x04] = .ok (.vfsqrt { aux := 0x04#8, rep := 0#2, fb := false, fa := false, gm := 3#3, b := 0#5, a := 22#5, d := 5#5 }, []) ∧
    decode [0x1F, 0xA1, 0x14, 0x0B, 0x06, 0x04] = .ok (.vfrcp { aux := 0x04#8, rep := 0#2, fb := false, fa := false, gm := 3#3, b := 0#5, a := 22#5, d := 5#5 }, []) ∧
    decode [0x1F, 0xB1, 0x14, 0x0B, 0x06, 0x04] = .ok (.vfrsq { aux := 0x04#8, rep := 0#2, fb := false, fa := false, gm := 3#3, b := 0#5, a := 22#5, d := 5#5 }, []) :=
  ⟨rfl, rfl, rfl, rfl, rfl, rfl⟩

theorem test_decode_vfa_3 :
    decode [0x1F, 0xC1, 0x14, 0x0B, 0x06, 0x04] = .ok (.vfexp2 { aux := 0x04#8, rep := 0#2, fb := false, fa := false, gm := 3#3, b := 0#5, a := 22#5, d := 5#5 }, []) ∧
    decode [0x1F, 0xD1, 0x14, 0x0B, 0x06, 0x04] = .ok (.vflog2 { aux := 0x04#8, rep := 0#2, fb := false, fa := false, gm := 3#3, b := 0#5, a := 22#5, d := 5#5 }, []) ∧
    decode [0x1F, 0xE1, 0x14, 0x0B, 0x06, 0x00] = .ok (.vfabs { aux := 0x00#8, rep := 0#2, fb := false, fa := false, gm := 3#3, b := 0#5, a := 22#5, d := 5#5 }, []) ∧
    decode [0x1F, 0xF1, 0x14, 0x0B, 0x06, 0x00] = .ok (.vfneg { aux := 0x00#8, rep := 0#2, fb := false, fa := false, gm := 3#3, b := 0#5, a := 22#5, d := 5#5 }, []) ∧
    decode [0x1F, 0x01, 0x15, 0x3B, 0x07, 0x40] = .ok (.vfsgn { aux := 0x40#8, rep := 0#2, fb := false, fa := false, gm := 3#3, b := 19#5, a := 22#5, d := 5#5 }, []) ∧
    decode [0x1F, 0x11, 0x15, 0x0B, 0x06, 0x11] = .ok (.vfcvt { aux := 0x11#8, rep := 0#2, fb := false, fa := false, gm := 3#3, b := 0#5, a := 22#5, d := 5#5 }, []) :=
  ⟨rfl, rfl, rfl, rfl, rfl, rfl⟩

theorem test_decode_vfa_4 :
    decode [0x1F, 0x21, 0x15, 0x0B, 0x06, 0x00] = .ok (.vfclass { aux := 0x00#8, rep := 0#2, fb := false, fa := false, gm := 3#3, b := 0#5, a := 22#5, d := 5#5 }, []) ∧
    decode [0x1F, 0x31, 0x15, 0x3B, 0x07, 0x40] = .ok (.vfeq { aux := 0x40#8, rep := 0#2, fb := false, fa := false, gm := 3#3, b := 19#5, a := 22#5, d := 5#5 }, []) ∧
    decode [0x1F, 0x41, 0x15, 0x3B, 0x07, 0x40] = .ok (.vflt { aux := 0x40#8, rep := 0#2, fb := false, fa := false, gm := 3#3, b := 19#5, a := 22#5, d := 5#5 }, []) ∧
    decode [0x1F, 0x51, 0x15, 0x3B, 0x07, 0x40] = .ok (.vfle { aux := 0x40#8, rep := 0#2, fb := false, fa := false, gm := 3#3, b := 19#5, a := 22#5, d := 5#5 }, []) :=
  ⟨rfl, rfl, rfl, rfl⟩

theorem test_decode_via_1 :
    decode [0x5F, 0x01, 0x14, 0x3B, 0x07, 0x40] = .ok (.vadd { aux := 0x40#8, rep := 0#2, fb := false, fa := false, gm := 3#3, b := 19#5, a := 22#5, d := 5#5 }, []) ∧
    decode [0x5F, 0x11, 0x14, 0x3B, 0x07, 0x40] = .ok (.vsub { aux := 0x40#8, rep := 0#2, fb := false, fa := false, gm := 3#3, b := 19#5, a := 22#5, d := 5#5 }, []) ∧
    decode [0x5F, 0x21, 0x14, 0x3B, 0x07, 0x40] = .ok (.vmul { aux := 0x40#8, rep := 0#2, fb := false, fa := false, gm := 3#3, b := 19#5, a := 22#5, d := 5#5 }, []) ∧
    decode [0x5F, 0x31, 0x14, 0x3B, 0x07, 0x40] = .ok (.vmulh { aux := 0x40#8, rep := 0#2, fb := false, fa := false, gm := 3#3, b := 19#5, a := 22#5, d := 5#5 }, []) ∧
    decode [0x5F, 0x41, 0x14, 0x3B, 0x07, 0x40] = .ok (.vmulhn { aux := 0x40#8, rep := 0#2, fb := false, fa := false, gm := 3#3, b := 19#5, a := 22#5, d := 5#5 }, []) ∧
    decode [0x5F, 0x51, 0x14, 0x3B, 0x07, 0x40] = .ok (.vand { aux := 0x40#8, rep := 0#2, fb := false, fa := false, gm := 3#3, b := 19#5, a := 22#5, d := 5#5 }, []) :=
  ⟨rfl, rfl, rfl, rfl, rfl, rfl⟩

theorem test_decode_via_2 :
    decode [0x5F, 0x61, 0x14, 0x3B, 0x07, 0x40] = .ok (.vor { aux := 0x40#8, rep := 0#2, fb := false, fa := false, gm := 3#3, b := 19#5, a := 22#5, d := 5#5 }, []) ∧
    decode [0x5F, 0x71, 0x14, 0x3B, 0x07, 0x40] = .ok (.vxor { aux := 0x40#8, rep := 0#2, fb := false, fa := false, gm := 3#3, b := 19#5, a := 22#5, d := 5#5 }, []) ∧
    decode [0x5F, 0x81, 0x14, 0x3B, 0x07, 0x40] = .ok (.vsll { aux := 0x40#8, rep := 0#2, fb := false, fa := false, gm := 3#3, b := 19#5, a := 22#5, d := 5#5 }, []) ∧
    decode [0x5F, 0x91, 0x14, 0x3B, 0x07, 0x40] = .ok (.vsrl { aux := 0x40#8, rep := 0#2, fb := false, fa := false, gm := 3#3, b := 19#5, a := 22#5, d := 5#5 }, []) ∧
    decode [0x5F, 0xA1, 0x14, 0x3B, 0x07, 0x40] = .ok (.vsra { aux := 0x40#8, rep := 0#2, fb := false, fa := false, gm := 3#3, b := 19#5, a := 22#5, d := 5#5 }, []) ∧
    decode [0x5F, 0xB1, 0x14, 0x3B, 0x07, 0x40] = .ok (.vmin { aux := 0x40#8, rep := 0#2, fb := false, fa := false, gm := 3#3, b := 19#5, a := 22#5, d := 5#5 }, []) :=
  ⟨rfl, rfl, rfl, rfl, rfl, rfl⟩

theorem test_decode_via_3 :
    decode [0x5F, 0xC1, 0x14, 0x3B, 0x07, 0x40] = .ok (.vmax { aux := 0x40#8, rep := 0#2, fb := false, fa := false, gm := 3#3, b := 19#5, a := 22#5, d := 5#5 }, []) ∧
    decode [0x5F, 0xD1, 0x14, 0x3B, 0x07, 0x40] = .ok (.vminn { aux := 0x40#8, rep := 0#2, fb := false, fa := false, gm := 3#3, b := 19#5, a := 22#5, d := 5#5 }, []) ∧
    decode [0x5F, 0xE1, 0x14, 0x3B, 0x07, 0x40] = .ok (.vmaxn { aux := 0x40#8, rep := 0#2, fb := false, fa := false, gm := 3#3, b := 19#5, a := 22#5, d := 5#5 }, []) ∧
    decode [0x5F, 0xF1, 0x14, 0x3B, 0x07, 0x40] = .ok (.vseq { aux := 0x40#8, rep := 0#2, fb := false, fa := false, gm := 3#3, b := 19#5, a := 22#5, d := 5#5 }, []) ∧
    decode [0x5F, 0x01, 0x15, 0x3B, 0x07, 0x40] = .ok (.vslt { aux := 0x40#8, rep := 0#2, fb := false, fa := false, gm := 3#3, b := 19#5, a := 22#5, d := 5#5 }, []) ∧
    decode [0x5F, 0x11, 0x15, 0x3B, 0x07, 0x40] = .ok (.vsltn { aux := 0x40#8, rep := 0#2, fb := false, fa := false, gm := 3#3, b := 19#5, a := 22#5, d := 5#5 }, []) :=
  ⟨rfl, rfl, rfl, rfl, rfl, rfl⟩

theorem test_decode_via_4 :
    decode [0x5F, 0x21, 0x15, 0x3B, 0x07, 0x40] = .ok (.vmerge { aux := 0x40#8, rep := 0#2, fb := false, fa := false, gm := 3#3, b := 19#5, a := 22#5, d := 5#5 }, []) ∧
    decode [0x5F, 0x31, 0x15, 0x30, 0x07, 0x40] = .ok (.vmvs { aux := 0x40#8, rep := 0#2, fb := false, fa := false, gm := 3#3, b := 19#5, a := 0#5, d := 5#5 }, []) ∧
    decode [0x5F, 0x41, 0x15, 0x0B, 0x00, 0x00] = .ok (.vmvx { aux := 0x00#8, rep := 0#2, fb := false, fa := false, gm := 0#3, b := 0#5, a := 22#5, d := 5#5 }, []) :=
  ⟨rfl, rfl, rfl⟩

theorem test_decode_vperm_1 :
    decode [0x9F, 0x01, 0x14, 0x3B, 0x07, 0xA5] = .ok (.vslideup { aux := 0xA5#8, rep := 0#2, fb := false, fa := false, gm := 3#3, b := 19#5, a := 22#5, d := 5#5 }, []) ∧
    decode [0x9F, 0x11, 0x14, 0x3B, 0x07, 0xA5] = .ok (.vslidedn { aux := 0xA5#8, rep := 0#2, fb := false, fa := false, gm := 3#3, b := 19#5, a := 22#5, d := 5#5 }, []) ∧
    decode [0x9F, 0x21, 0x14, 0x3B, 0x07, 0x40] = .ok (.vrgather { aux := 0x40#8, rep := 0#2, fb := false, fa := false, gm := 3#3, b := 19#5, a := 22#5, d := 5#5 }, []) ∧
    decode [0x9F, 0x31, 0x14, 0x0B, 0x06, 0x00] = .ok (.vcompress { aux := 0x00#8, rep := 0#2, fb := false, fa := false, gm := 3#3, b := 0#5, a := 22#5, d := 5#5 }, []) ∧
    decode [0x9F, 0x41, 0x14, 0x0B, 0x06, 0x00] = .ok (.vexpand { aux := 0x00#8, rep := 0#2, fb := false, fa := false, gm := 3#3, b := 0#5, a := 22#5, d := 5#5 }, []) ∧
    decode [0x9F, 0x51, 0x14, 0x3B, 0x07, 0x40] = .ok (.vbcast { aux := 0x40#8, rep := 0#2, fb := false, fa := false, gm := 3#3, b := 19#5, a := 22#5, d := 5#5 }, []) :=
  ⟨rfl, rfl, rfl, rfl, rfl, rfl⟩

theorem test_decode_vperm_2 :
    decode [0x9F, 0x61, 0x14, 0x3B, 0x01, 0x00] = .ok (.vxchg { aux := 0x00#8, rep := 0#2, fb := false, fa := false, gm := 0#3, b := 19#5, a := 22#5, d := 5#5 }, []) ∧
    decode [0x9F, 0x71, 0x14, 0x0B, 0x06, 0x00] = .ok (.vmv { aux := 0x00#8, rep := 0#2, fb := false, fa := false, gm := 3#3, b := 0#5, a := 22#5, d := 5#5 }, []) :=
  ⟨rfl, rfl⟩

theorem test_decode_vred_1 :
    decode [0xDF, 0x01, 0x14, 0x3B, 0x07, 0x44] = .ok (.vfredo { aux := 0x44#8, rep := 0#2, fb := false, fa := false, gm := 3#3, b := 19#5, a := 22#5, d := 5#5 }, []) ∧
    decode [0xDF, 0x11, 0x14, 0x3B, 0x07, 0x44] = .ok (.vfredt { aux := 0x44#8, rep := 0#2, fb := false, fa := false, gm := 3#3, b := 19#5, a := 22#5, d := 5#5 }, []) ∧
    decode [0xDF, 0x21, 0x14, 0x3B, 0x07, 0x40] = .ok (.vfredmax { aux := 0x40#8, rep := 0#2, fb := false, fa := false, gm := 3#3, b := 19#5, a := 22#5, d := 5#5 }, []) ∧
    decode [0xDF, 0x31, 0x14, 0x3B, 0x07, 0x40] = .ok (.vfredmin { aux := 0x40#8, rep := 0#2, fb := false, fa := false, gm := 3#3, b := 19#5, a := 22#5, d := 5#5 }, []) ∧
    decode [0xDF, 0x41, 0x14, 0x3B, 0x07, 0x40] = .ok (.vredsum { aux := 0x40#8, rep := 0#2, fb := false, fa := false, gm := 3#3, b := 19#5, a := 22#5, d := 5#5 }, []) ∧
    decode [0xDF, 0x51, 0x14, 0x3B, 0x07, 0x40] = .ok (.vredmax { aux := 0x40#8, rep := 0#2, fb := false, fa := false, gm := 3#3, b := 19#5, a := 22#5, d := 5#5 }, []) :=
  ⟨rfl, rfl, rfl, rfl, rfl, rfl⟩

theorem test_decode_vred_2 :
    decode [0xDF, 0x61, 0x14, 0x3B, 0x07, 0x40] = .ok (.vredmin { aux := 0x40#8, rep := 0#2, fb := false, fa := false, gm := 3#3, b := 19#5, a := 22#5, d := 5#5 }, []) :=
  rfl

theorem test_decode_vmask_1 :
    decode [0x1F, 0x02, 0x94, 0x73, 0x06, 0x00] = .ok (.mand { aux := 0x00#8, rep := 0#2, fb := false, fa := false, gm := 3#3, b := 7#5, a := 7#5, d := 5#5 }, []) ∧
    decode [0x1F, 0x12, 0x94, 0x73, 0x06, 0x00] = .ok (.mor { aux := 0x00#8, rep := 0#2, fb := false, fa := false, gm := 3#3, b := 7#5, a := 7#5, d := 5#5 }, []) ∧
    decode [0x1F, 0x22, 0x94, 0x73, 0x06, 0x00] = .ok (.mxor { aux := 0x00#8, rep := 0#2, fb := false, fa := false, gm := 3#3, b := 7#5, a := 7#5, d := 5#5 }, []) ∧
    decode [0x1F, 0x32, 0x94, 0x73, 0x06, 0x00] = .ok (.mandn { aux := 0x00#8, rep := 0#2, fb := false, fa := false, gm := 3#3, b := 7#5, a := 7#5, d := 5#5 }, []) ∧
    decode [0x1F, 0x42, 0x94, 0x03, 0x06, 0x00] = .ok (.mnot { aux := 0x00#8, rep := 0#2, fb := false, fa := false, gm := 3#3, b := 0#5, a := 7#5, d := 5#5 }, []) ∧
    decode [0x1F, 0x52, 0x94, 0x03, 0x06, 0x00] = .ok (.mpopc { aux := 0x00#8, rep := 0#2, fb := false, fa := false, gm := 3#3, b := 0#5, a := 7#5, d := 5#5 }, []) :=
  ⟨rfl, rfl, rfl, rfl, rfl, rfl⟩

theorem test_decode_vmask_2 :
    decode [0x1F, 0x62, 0x94, 0x03, 0x06, 0x00] = .ok (.mfirst { aux := 0x00#8, rep := 0#2, fb := false, fa := false, gm := 3#3, b := 0#5, a := 7#5, d := 5#5 }, []) ∧
    decode [0x1F, 0x72, 0x14, 0x00, 0x06, 0x00] = .ok (.mset { aux := 0x00#8, rep := 0#2, fb := false, fa := false, gm := 3#3, b := 0#5, a := 0#5, d := 5#5 }, []) ∧
    decode [0x1F, 0x82, 0x14, 0x00, 0x06, 0x00] = .ok (.mclr { aux := 0x00#8, rep := 0#2, fb := false, fa := false, gm := 3#3, b := 0#5, a := 0#5, d := 5#5 }, []) :=
  ⟨rfl, rfl, rfl⟩

theorem test_decode_vmem_1 :
    decode [0x1F, 0x03, 0x14, 0x0B, 0x06, 0x81] = .ok (.vld { aux := 0x81#8, rep := 0#2, fb := false, fa := false, gm := 3#3, b := 0#5, a := 22#5, d := 5#5 }, []) ∧
    decode [0x1F, 0x13, 0x14, 0x0B, 0x06, 0x81] = .ok (.vst { aux := 0x81#8, rep := 0#2, fb := false, fa := false, gm := 3#3, b := 0#5, a := 22#5, d := 5#5 }, []) ∧
    decode [0x1F, 0x23, 0x14, 0x3B, 0x07, 0x0C] = .ok (.vlds { aux := 0x0C#8, rep := 0#2, fb := false, fa := false, gm := 3#3, b := 19#5, a := 22#5, d := 5#5 }, []) ∧
    decode [0x1F, 0x33, 0x14, 0x3B, 0x07, 0x0C] = .ok (.vsts { aux := 0x0C#8, rep := 0#2, fb := false, fa := false, gm := 3#3, b := 19#5, a := 22#5, d := 5#5 }, []) ∧
    decode [0x1F, 0x43, 0x14, 0x3B, 0x07, 0x0C] = .ok (.vldx { aux := 0x0C#8, rep := 0#2, fb := false, fa := false, gm := 3#3, b := 19#5, a := 22#5, d := 5#5 }, []) ∧
    decode [0x1F, 0x53, 0x14, 0x3B, 0x07, 0x41] = .ok (.vstxO { aux := 0x41#8, rep := 0#2, fb := false, fa := false, gm := 3#3, b := 19#5, a := 22#5, d := 5#5 }, []) :=
  ⟨rfl, rfl, rfl, rfl, rfl, rfl⟩

theorem test_decode_vmem_2 :
    decode [0x1F, 0x53, 0x14, 0x3B, 0x07, 0x01] = .ok (.vstxU { aux := 0x01#8, rep := 0#2, fb := false, fa := false, gm := 3#3, b := 19#5, a := 22#5, d := 5#5 }, []) ∧
    decode [0x1F, 0x63, 0x14, 0x3B, 0x07, 0x81] = .ok (.vgl { aux := 0x81#8, rep := 0#2, fb := false, fa := false, gm := 3#3, b := 19#5, a := 22#5, d := 5#5 }, []) ∧
    decode [0x1F, 0x73, 0x14, 0x3B, 0x07, 0x81] = .ok (.vsc { aux := 0x81#8, rep := 0#2, fb := false, fa := false, gm := 3#3, b := 19#5, a := 22#5, d := 5#5 }, []) ∧
    decode [0x1F, 0x83, 0x14, 0x3B, 0x07, 0x09] = .ok (.vcappend { aux := 0x09#8, rep := 0#2, fb := false, fa := false, gm := 3#3, b := 19#5, a := 22#5, d := 5#5 }, []) :=
  ⟨rfl, rfl, rfl, rfl⟩

theorem test_decode_vamo_1 :
    decode [0x5F, 0x03, 0x14, 0x3B, 0x07, 0x48] = .ok (.vamoadd { aux := 0x48#8, rep := 0#2, fb := false, fa := false, gm := 3#3, b := 19#5, a := 22#5, d := 5#5 }, []) ∧
    decode [0x5F, 0x13, 0x14, 0x3B, 0x07, 0x40] = .ok (.vamofadd { aux := 0x40#8, rep := 0#2, fb := false, fa := false, gm := 3#3, b := 19#5, a := 22#5, d := 5#5 }, []) ∧
    decode [0x5F, 0x23, 0x14, 0x3B, 0x07, 0x48] = .ok (.vamomin { aux := 0x48#8, rep := 0#2, fb := false, fa := false, gm := 3#3, b := 19#5, a := 22#5, d := 5#5 }, []) ∧
    decode [0x5F, 0x33, 0x14, 0x3B, 0x07, 0x48] = .ok (.vamomax { aux := 0x48#8, rep := 0#2, fb := false, fa := false, gm := 3#3, b := 19#5, a := 22#5, d := 5#5 }, []) ∧
    decode [0x5F, 0x43, 0x14, 0x3B, 0x07, 0x48] = .ok (.vamoand { aux := 0x48#8, rep := 0#2, fb := false, fa := false, gm := 3#3, b := 19#5, a := 22#5, d := 5#5 }, []) ∧
    decode [0x5F, 0x53, 0x14, 0x3B, 0x07, 0x48] = .ok (.vamoor { aux := 0x48#8, rep := 0#2, fb := false, fa := false, gm := 3#3, b := 19#5, a := 22#5, d := 5#5 }, []) :=
  ⟨rfl, rfl, rfl, rfl, rfl, rfl⟩

theorem test_decode_vamo_2 :
    decode [0x5F, 0x63, 0x14, 0x3B, 0x07, 0x48] = .ok (.vamoxor { aux := 0x48#8, rep := 0#2, fb := false, fa := false, gm := 3#3, b := 19#5, a := 22#5, d := 5#5 }, []) ∧
    decode [0x5F, 0x73, 0x14, 0x3B, 0x07, 0x48] = .ok (.vamoswap { aux := 0x48#8, rep := 0#2, fb := false, fa := false, gm := 3#3, b := 19#5, a := 22#5, d := 5#5 }, []) :=
  ⟨rfl, rfl⟩

theorem test_decode_stream :
    decode [0x9F, 0x03, 0x14, 0xFB, 0x00, 0x00] = .ok (.sbind { aux := 0x00#8, rep := 0#2, fb := false, fa := false, gm := 0#3, b := 15#5, a := 22#5, d := 5#5 }, []) ∧
    decode [0x9F, 0x13, 0x00, 0xF0, 0x00, 0x00] = .ok (.sunbind { aux := 0x00#8, rep := 0#2, fb := false, fa := false, gm := 0#3, b := 15#5, a := 0#5, d := 0#5 }, []) ∧
    decode [0x9F, 0x23, 0x00, 0xF0, 0x00, 0x00] = .ok (.ssync { aux := 0x00#8, rep := 0#2, fb := false, fa := false, gm := 0#3, b := 15#5, a := 0#5, d := 0#5 }, []) ∧
    decode [0x9F, 0x33, 0x00, 0xFB, 0x00, 0x00] = .ok (.sskip { aux := 0x00#8, rep := 0#2, fb := false, fa := false, gm := 0#3, b := 15#5, a := 22#5, d := 0#5 }, []) ∧
    decode [0x9F, 0x43, 0x14, 0xF0, 0x00, 0x00] = .ok (.spos { aux := 0x00#8, rep := 0#2, fb := false, fa := false, gm := 0#3, b := 15#5, a := 0#5, d := 5#5 }, []) :=
  ⟨rfl, rfl, rfl, rfl, rfl⟩

theorem test_decode_win :
    decode [0xDF, 0x03, 0x00, 0xFB, 0x00, 0x00] = .ok (.wbind { aux := 0x00#8, rep := 0#2, fb := false, fa := false, gm := 0#3, b := 15#5, a := 22#5, d := 0#5 }, []) ∧
    decode [0xDF, 0x13, 0x00, 0xF0, 0x00, 0x00] = .ok (.wunbind { aux := 0x00#8, rep := 0#2, fb := false, fa := false, gm := 0#3, b := 15#5, a := 0#5, d := 0#5 }, []) ∧
    decode [0xDF, 0x23, 0x00, 0xF0, 0x00, 0x00] = .ok (.winval { aux := 0x00#8, rep := 0#2, fb := false, fa := false, gm := 0#3, b := 15#5, a := 0#5, d := 0#5 }, []) ∧
    decode [0xDF, 0x33, 0x14, 0xF0, 0x00, 0x00] = .ok (.wquery { aux := 0x00#8, rep := 0#2, fb := false, fa := false, gm := 0#3, b := 15#5, a := 0#5, d := 5#5 }, []) :=
  ⟨rfl, rfl, rfl, rfl⟩

theorem test_decode_tile_1 :
    decode [0x1F, 0x04, 0x14, 0x3B, 0x07, 0x01] = .ok (.trow { aux := 0x01#8, rep := 0#2, fb := false, fa := false, gm := 3#3, b := 19#5, a := 22#5, d := 5#5 }, []) ∧
    decode [0x1F, 0x14, 0x94, 0x33, 0x07, 0x01] = .ok (.tcol { aux := 0x01#8, rep := 0#2, fb := false, fa := false, gm := 3#3, b := 19#5, a := 7#5, d := 5#5 }, []) ∧
    decode [0x1F, 0x24, 0x14, 0x0B, 0x00, 0x83] = .ok (.tld { aux := 0x83#8, rep := 0#2, fb := false, fa := false, gm := 0#3, b := 0#5, a := 22#5, d := 5#5 }, []) ∧
    decode [0x1F, 0x34, 0x14, 0x0B, 0x00, 0x83] = .ok (.tst { aux := 0x83#8, rep := 0#2, fb := false, fa := false, gm := 0#3, b := 0#5, a := 22#5, d := 5#5 }, []) ∧
    decode [0x1F, 0x44, 0x14, 0x00, 0x00, 0x00] = .ok (.tzero { aux := 0x00#8, rep := 0#2, fb := false, fa := false, gm := 0#3, b := 0#5, a := 0#5, d := 5#5 }, []) ∧
    decode [0x1F, 0x54, 0x14, 0x00, 0x00, 0x00] = .ok (.tfull { aux := 0x00#8, rep := 0#2, fb := false, fa := false, gm := 0#3, b := 0#5, a := 0#5, d := 5#5 }, []) :=
  ⟨rfl, rfl, rfl, rfl, rfl, rfl⟩

theorem test_decode_tile_2 :
    decode [0x1F, 0x64, 0x14, 0x00, 0x00, 0x00] = .ok (.tempty { aux := 0x00#8, rep := 0#2, fb := false, fa := false, gm := 0#3, b := 0#5, a := 0#5, d := 5#5 }, []) :=
  rfl

theorem test_decode_mat_1 :
    decode [0x5F, 0x04, 0x94, 0x33, 0x01, 0x00] = .ok (.mma { aux := 0x00#8, rep := 0#2, fb := false, fa := false, gm := 0#3, b := 19#5, a := 7#5, d := 5#5 }, []) ∧
    decode [0x5F, 0x14, 0x94, 0x33, 0x01, 0x00] = .ok (.mmas { aux := 0x00#8, rep := 0#2, fb := false, fa := false, gm := 0#3, b := 19#5, a := 7#5, d := 5#5 }, []) ∧
    decode [0x5F, 0x24, 0x00, 0x0B, 0x00, 0x00] = .ok (.pload { aux := 0x00#8, rep := 0#2, fb := false, fa := false, gm := 0#3, b := 0#5, a := 22#5, d := 0#5 }, []) ∧
    decode [0x5F, 0x34, 0x00, 0x0B, 0x00, 0x00] = .ok (.pzero { aux := 0x00#8, rep := 0#2, fb := false, fa := false, gm := 0#3, b := 0#5, a := 22#5, d := 0#5 }, []) ∧
    decode [0x5F, 0x44, 0x00, 0x3B, 0x01, 0x00] = .ok (.mscl { aux := 0x00#8, rep := 0#2, fb := false, fa := false, gm := 0#3, b := 19#5, a := 22#5, d := 0#5 }, []) ∧
    decode [0x5F, 0x54, 0x00, 0x00, 0x00, 0x00] = .ok (.msync { aux := 0x00#8, rep := 0#2, fb := false, fa := false, gm := 0#3, b := 0#5, a := 0#5, d := 0#5 }, []) :=
  ⟨rfl, rfl, rfl, rfl, rfl, rfl⟩

theorem test_decode_mat_2 :
    decode [0x5F, 0x64, 0x00, 0x00, 0x00, 0x00] = .ok (.mwait { aux := 0x00#8, rep := 0#2, fb := false, fa := false, gm := 0#3, b := 0#5, a := 0#5, d := 0#5 }, []) :=
  rfl

theorem test_decode_cruc :
    decode [0x9F, 0x04, 0x14, 0x00, 0x00, 0x00] = .ok (.czero { aux := 0x00#8, rep := 0#2, fb := false, fa := false, gm := 0#3, b := 0#5, a := 0#5, d := 5#5 }, []) ∧
    decode [0x9F, 0x14, 0x14, 0x3B, 0x07, 0x00] = .ok (.cacc { aux := 0x00#8, rep := 0#2, fb := false, fa := false, gm := 3#3, b := 19#5, a := 22#5, d := 5#5 }, []) ∧
    decode [0x9F, 0x24, 0x14, 0x3B, 0x07, 0x00] = .ok (.cread { aux := 0x00#8, rep := 0#2, fb := false, fa := false, gm := 3#3, b := 19#5, a := 22#5, d := 5#5 }, []) ∧
    decode [0x9F, 0x34, 0x14, 0x0B, 0x00, 0x00] = .ok (.cdrain { aux := 0x00#8, rep := 0#2, fb := false, fa := false, gm := 0#3, b := 0#5, a := 22#5, d := 5#5 }, []) ∧
    decode [0x9F, 0x44, 0x14, 0x00, 0x00, 0x00] = .ok (.cwait { aux := 0x00#8, rep := 0#2, fb := false, fa := false, gm := 0#3, b := 0#5, a := 0#5, d := 5#5 }, []) ∧
    decode [0x9F, 0x54, 0x14, 0x0B, 0x00, 0x00] = .ok (.cquery { aux := 0x00#8, rep := 0#2, fb := false, fa := false, gm := 0#3, b := 0#5, a := 22#5, d := 5#5 }, []) :=
  ⟨rfl, rfl, rfl, rfl, rfl, rfl⟩

theorem test_decode_region :
    decode [0x1F, 0x05, 0x14, 0x3B, 0x07, 0x00] = .ok (.gld { aux := 0x00#8, rep := 0#2, fb := false, fa := false, gm := 3#3, b := 19#5, a := 22#5, d := 5#5 }, []) ∧
    decode [0x1F, 0x15, 0x14, 0x3B, 0x07, 0x00] = .ok (.gsc { aux := 0x00#8, rep := 0#2, fb := false, fa := false, gm := 3#3, b := 19#5, a := 22#5, d := 5#5 }, []) ∧
    decode [0x1F, 0x25, 0x14, 0x3B, 0x07, 0x00] = .ok (.kvld { aux := 0x00#8, rep := 0#2, fb := false, fa := false, gm := 3#3, b := 19#5, a := 22#5, d := 5#5 }, []) ∧
    decode [0x1F, 0x35, 0x14, 0x3B, 0x07, 0x00] = .ok (.kvst { aux := 0x00#8, rep := 0#2, fb := false, fa := false, gm := 3#3, b := 19#5, a := 22#5, d := 5#5 }, []) ∧
    decode [0x1F, 0x45, 0x14, 0x3B, 0x01, 0x00] = .ok (.kvfork { aux := 0x00#8, rep := 0#2, fb := false, fa := false, gm := 0#3, b := 19#5, a := 22#5, d := 5#5 }, []) :=
  ⟨rfl, rfl, rfl, rfl, rfl⟩

theorem test_decode_sync_1 :
    decode [0x1F, 0x06, 0x00, 0x00, 0x00, 0x02] = .ok (.fenceRel { aux := 0x02#8, rep := 0#2, fb := false, fa := false, gm := 0#3, b := 0#5, a := 0#5, d := 0#5 }, []) ∧
    decode [0x1F, 0x16, 0x00, 0x00, 0x00, 0x02] = .ok (.fenceAcq { aux := 0x02#8, rep := 0#2, fb := false, fa := false, gm := 0#3, b := 0#5, a := 0#5, d := 0#5 }, []) ∧
    decode [0x1F, 0x26, 0x00, 0x00, 0x00, 0x02] = .ok (.fenceSc { aux := 0x02#8, rep := 0#2, fb := false, fa := false, gm := 0#3, b := 0#5, a := 0#5, d := 0#5 }, []) ∧
    decode [0x1F, 0x36, 0x00, 0x00, 0x00, 0x00] = .ok (.lsync { aux := 0x00#8, rep := 0#2, fb := false, fa := false, gm := 0#3, b := 0#5, a := 0#5, d := 0#5 }, []) ∧
    decode [0x1F, 0x46, 0x00, 0x00, 0x00, 0x00] = .ok (.pwait { aux := 0x00#8, rep := 0#2, fb := false, fa := false, gm := 0#3, b := 0#5, a := 0#5, d := 0#5 }, []) ∧
    decode [0x1F, 0x56, 0x00, 0x0B, 0x00, 0x00] = .ok (.ppt { aux := 0x00#8, rep := 0#2, fb := false, fa := false, gm := 0#3, b := 0#5, a := 22#5, d := 0#5 }, []) :=
  ⟨rfl, rfl, rfl, rfl, rfl, rfl⟩

theorem test_decode_sync_2 :
    decode [0x1F, 0x66, 0x00, 0x00, 0x00, 0x00] = .ok (.ubar { aux := 0x00#8, rep := 0#2, fb := false, fa := false, gm := 0#3, b := 0#5, a := 0#5, d := 0#5 }, []) ∧
    decode [0x1F, 0x76, 0x00, 0x0B, 0x00, 0x0B] = .ok (.msig { aux := 0x0B#8, rep := 0#2, fb := false, fa := false, gm := 0#3, b := 0#5, a := 22#5, d := 0#5 }, []) ∧
    decode [0x1F, 0x86, 0x00, 0x0B, 0x00, 0x0B] = .ok (.mwaitv { aux := 0x0B#8, rep := 0#2, fb := false, fa := false, gm := 0#3, b := 0#5, a := 22#5, d := 0#5 }, []) ∧
    decode [0x1F, 0x96, 0x00, 0x00, 0x00, 0x00] = .ok (.kend { aux := 0x00#8, rep := 0#2, fb := false, fa := false, gm := 0#3, b := 0#5, a := 0#5, d := 0#5 }, []) :=
  ⟨rfl, rfl, rfl, rfl⟩

theorem test_decode_engine_1 :
    decode [0x5F, 0x06, 0x14, 0x0B, 0x06, 0x00] = .ok (.ebatch { aux := 0x00#8, rep := 0#2, fb := false, fa := false, gm := 3#3, b := 0#5, a := 22#5, d := 5#5 }, []) ∧
    decode [0x5F, 0x16, 0x14, 0x3B, 0x01, 0x00] = .ok (.cpy { aux := 0x00#8, rep := 0#2, fb := false, fa := false, gm := 0#3, b := 19#5, a := 22#5, d := 5#5 }, []) ∧
    decode [0x5F, 0x26, 0x00, 0x00, 0x00, 0x00] = .ok (.ewait { aux := 0x00#8, rep := 0#2, fb := false, fa := false, gm := 0#3, b := 0#5, a := 0#5, d := 0#5 }, []) ∧
    decode [0x5F, 0x36, 0x00, 0x0B, 0x00, 0x00] = .ok (.uiset { aux := 0x00#8, rep := 0#2, fb := false, fa := false, gm := 0#3, b := 0#5, a := 22#5, d := 0#5 }, []) ∧
    decode [0x5F, 0x46, 0x00, 0x00, 0x00, 0x00] = .ok (.uiret { aux := 0x00#8, rep := 0#2, fb := false, fa := false, gm := 0#3, b := 0#5, a := 0#5, d := 0#5 }, []) ∧
    decode [0x5F, 0x56, 0x14, 0x0B, 0x00, 0x00] = .ok (.uimask { aux := 0x00#8, rep := 0#2, fb := false, fa := false, gm := 0#3, b := 0#5, a := 22#5, d := 5#5 }, []) :=
  ⟨rfl, rfl, rfl, rfl, rfl, rfl⟩

theorem test_decode_engine_2 :
    decode [0x5F, 0x66, 0x14, 0x3B, 0x01, 0x00] = .ok (.qput { aux := 0x00#8, rep := 0#2, fb := false, fa := false, gm := 0#3, b := 19#5, a := 22#5, d := 5#5 }, []) ∧
    decode [0x5F, 0x76, 0x00, 0x3B, 0x01, 0x00] = .ok (.qtail { aux := 0x00#8, rep := 0#2, fb := false, fa := false, gm := 0#3, b := 19#5, a := 22#5, d := 0#5 }, []) ∧
    decode [0x5F, 0x86, 0x00, 0x3B, 0x01, 0x00] = .ok (.qwait { aux := 0x00#8, rep := 0#2, fb := false, fa := false, gm := 0#3, b := 19#5, a := 22#5, d := 0#5 }, []) ∧
    decode [0x5F, 0x96, 0x14, 0x3B, 0x01, 0x00] = .ok (.bkset { aux := 0x00#8, rep := 0#2, fb := false, fa := false, gm := 0#3, b := 19#5, a := 22#5, d := 5#5 }, []) ∧
    decode [0x5F, 0xA6, 0x14, 0x3B, 0x01, 0x00] = .ok (.hcallOther { aux := 0x00#8, rep := 0#2, fb := false, fa := false, gm := 0#3, b := 19#5, a := 22#5, d := 5#5 }, []) :=
  ⟨rfl, rfl, rfl, rfl, rfl⟩

theorem test_decode_sys :
    decode [0x1F, 0x07, 0x00, 0x3B, 0x01, 0x00] = .ok (.xsave { aux := 0x00#8, rep := 0#2, fb := false, fa := false, gm := 0#3, b := 19#5, a := 22#5, d := 0#5 }, []) ∧
    decode [0x1F, 0x17, 0x00, 0x0B, 0x00, 0x00] = .ok (.xrest { aux := 0x00#8, rep := 0#2, fb := false, fa := false, gm := 0#3, b := 0#5, a := 22#5, d := 0#5 }, []) ∧
    decode [0x1F, 0x27, 0x94, 0x03, 0x00, 0x00] = .ok (.mfset { aux := 0x00#8, rep := 0#2, fb := false, fa := false, gm := 0#3, b := 0#5, a := 7#5, d := 5#5 }, []) ∧
    decode [0x1F, 0x37, 0x14, 0x3B, 0x01, 0x00] = .ok (.vrstset { aux := 0x00#8, rep := 0#2, fb := false, fa := false, gm := 0#3, b := 19#5, a := 22#5, d := 5#5 }, []) :=
  ⟨rfl, rfl, rfl, rfl⟩

theorem test_decode_b64_1 :
    decodeBlock 0xFFFFFE0D04025F00#64 = .ok (.b64Add { imm := 0xFFFFFE#24, fmt := 0#4, pneg := true, pred := 5#3, c := 1#6, b := 0#6, a := 9#6, d := 31#6 }) ∧
    decodeBlock 0xFFFFFE0D04025F01#64 = .ok (.b64Sub { imm := 0xFFFFFE#24, fmt := 0#4, pneg := true, pred := 5#3, c := 1#6, b := 0#6, a := 9#6, d := 31#6 }) ∧
    decodeBlock 0xFFFFFE0D04025F02#64 = .ok (.b64Mul { imm := 0xFFFFFE#24, fmt := 0#4, pneg := true, pred := 5#3, c := 1#6, b := 0#6, a := 9#6, d := 31#6 }) ∧
    decodeBlock 0xFFFFFE0D04025F03#64 = .ok (.b64Mulh { imm := 0xFFFFFE#24, fmt := 0#4, pneg := true, pred := 5#3, c := 1#6, b := 0#6, a := 9#6, d := 31#6 }) ∧
    decodeBlock 0xFFFFFE0D04025F04#64 = .ok (.b64And { imm := 0xFFFFFE#24, fmt := 0#4, pneg := true, pred := 5#3, c := 1#6, b := 0#6, a := 9#6, d := 31#6 }) ∧
    decodeBlock 0xFFFFFE0D04025F05#64 = .ok (.b64Or { imm := 0xFFFFFE#24, fmt := 0#4, pneg := true, pred := 5#3, c := 1#6, b := 0#6, a := 9#6, d := 31#6 }) :=
  ⟨rfl, rfl, rfl, rfl, rfl, rfl⟩

theorem test_decode_b64_2 :
    decodeBlock 0xFFFFFE0D04025F06#64 = .ok (.b64Xor { imm := 0xFFFFFE#24, fmt := 0#4, pneg := true, pred := 5#3, c := 1#6, b := 0#6, a := 9#6, d := 31#6 }) ∧
    decodeBlock 0xFFFFFE0D04025F07#64 = .ok (.b64Shl { imm := 0xFFFFFE#24, fmt := 0#4, pneg := true, pred := 5#3, c := 1#6, b := 0#6, a := 9#6, d := 31#6 }) ∧
    decodeBlock 0xFFFFFE0D04025F08#64 = .ok (.b64Shr { imm := 0xFFFFFE#24, fmt := 0#4, pneg := true, pred := 5#3, c := 1#6, b := 0#6, a := 9#6, d := 31#6 }) ∧
    decodeBlock 0xFFFFFE0D04025F09#64 = .ok (.b64Sra { imm := 0xFFFFFE#24, fmt := 0#4, pneg := true, pred := 5#3, c := 1#6, b := 0#6, a := 9#6, d := 31#6 }) ∧
    decodeBlock 0xFFFFFE0D04025F0A#64 = .ok (.b64Min { imm := 0xFFFFFE#24, fmt := 0#4, pneg := true, pred := 5#3, c := 1#6, b := 0#6, a := 9#6, d := 31#6 }) ∧
    decodeBlock 0xFFFFFE0D04025F0B#64 = .ok (.b64Max { imm := 0xFFFFFE#24, fmt := 0#4, pneg := true, pred := 5#3, c := 1#6, b := 0#6, a := 9#6, d := 31#6 }) :=
  ⟨rfl, rfl, rfl, rfl, rfl, rfl⟩

theorem test_decode_b64_3 :
    decodeBlock 0x8000010D0000070C#64 = .ok (.b64Li { imm := 0x800001#24, fmt := 0#4, pneg := true, pred := 5#3, c := 0#6, b := 0#6, a := 0#6, d := 7#6 }) ∧
    decodeBlock 0x0000004D00B25F0D#64 = .ok (.b64Fadd { imm := 0x000000#24, fmt := 4#4, pneg := true, pred := 5#3, c := 0#6, b := 11#6, a := 9#6, d := 31#6 }) ∧
    decodeBlock 0x0000004D00B25F0E#64 = .ok (.b64Fsub { imm := 0x000000#24, fmt := 4#4, pneg := true, pred := 5#3, c := 0#6, b := 11#6, a := 9#6, d := 31#6 }) ∧
    decodeBlock 0x0000004D00B25F0F#64 = .ok (.b64Fmul { imm := 0x000000#24, fmt := 4#4, pneg := true, pred := 5#3, c := 0#6, b := 11#6, a := 9#6, d := 31#6 }) ∧
    decodeBlock 0x0000004D30B25F10#64 = .ok (.b64Fma { imm := 0x000000#24, fmt := 4#4, pneg := true, pred := 5#3, c := 12#6, b := 11#6, a := 9#6, d := 31#6 }) ∧
    decodeBlock 0x0000000D00B25F11#64 = .ok (.b64Fmin { imm := 0x000000#24, fmt := 0#4, pneg := true, pred := 5#3, c := 0#6, b := 11#6, a := 9#6, d := 31#6 }) :=
  ⟨rfl, rfl, rfl, rfl, rfl, rfl⟩

theorem test_decode_b64_4 :
    decodeBlock 0x0000000D00B25F12#64 = .ok (.b64Fmax { imm := 0x000000#24, fmt := 0#4, pneg := true, pred := 5#3, c := 0#6, b := 11#6, a := 9#6, d := 31#6 }) ∧
    decodeBlock 0x0000004D00B25F13#64 = .ok (.b64Fdiv { imm := 0x000000#24, fmt := 4#4, pneg := true, pred := 5#3, c := 0#6, b := 11#6, a := 9#6, d := 31#6 }) ∧
    decodeBlock 0x0000004D00025F14#64 = .ok (.b64Frcp { imm := 0x000000#24, fmt := 4#4, pneg := true, pred := 5#3, c := 0#6, b := 0#6, a := 9#6, d := 31#6 }) ∧
    decodeBlock 0x0000004D00025F15#64 = .ok (.b64Fsqrt { imm := 0x000000#24, fmt := 4#4, pneg := true, pred := 5#3, c := 0#6, b := 0#6, a := 9#6, d := 31#6 }) ∧
    decodeBlock 0x0000004D0C025F16#64 = .ok (.b64Fcvt { imm := 0x000000#24, fmt := 4#4, pneg := true, pred := 5#3, c := 3#6, b := 0#6, a := 9#6, d := 31#6 }) ∧
    decodeBlock 0xFFFFFE0D04026917#64 = .ok (.b64Seq { imm := 0xFFFFFE#24, fmt := 0#4, pneg := true, pred := 5#3, c := 1#6, b := 0#6, a := 9#6, d := 41#6 }) :=
  ⟨rfl, rfl, rfl, rfl, rfl, rfl⟩

theorem test_decode_b64_5 :
    decodeBlock 0xFFFFFE0D04026918#64 = .ok (.b64Slt { imm := 0xFFFFFE#24, fmt := 0#4, pneg := true, pred := 5#3, c := 1#6, b := 0#6, a := 9#6, d := 41#6 }) ∧
    decodeBlock 0xFFFFFE0D04026919#64 = .ok (.b64Sltn { imm := 0xFFFFFE#24, fmt := 0#4, pneg := true, pred := 5#3, c := 1#6, b := 0#6, a := 9#6, d := 41#6 }) ∧
    decodeBlock 0x0000000D00B2691A#64 = .ok (.b64Feq { imm := 0x000000#24, fmt := 0#4, pneg := true, pred := 5#3, c := 0#6, b := 11#6, a := 9#6, d := 41#6 }) ∧
    decodeBlock 0x0000000D00B2691B#64 = .ok (.b64Flt { imm := 0x000000#24, fmt := 0#4, pneg := true, pred := 5#3, c := 0#6, b := 11#6, a := 9#6, d := 41#6 }) ∧
    decodeBlock 0x0000000D00B2691C#64 = .ok (.b64Fle { imm := 0x000000#24, fmt := 0#4, pneg := true, pred := 5#3, c := 0#6, b := 11#6, a := 9#6, d := 41#6 }) ∧
    decodeBlock 0x0000000D02FA291D#64 = .ok (.b64Pand { imm := 0x000000#24, fmt := 0#4, pneg := true, pred := 5#3, c := 0#6, b := 47#6, a := 40#6, d := 41#6 }) :=
  ⟨rfl, rfl, rfl, rfl, rfl, rfl⟩

theorem test_decode_b64_6 :
    decodeBlock 0x0000000D02FA291E#64 = .ok (.b64Por { imm := 0x000000#24, fmt := 0#4, pneg := true, pred := 5#3, c := 0#6, b := 47#6, a := 40#6, d := 41#6 }) ∧
    decodeBlock 0x0000000D000A291F#64 = .ok (.b64Pnot { imm := 0x000000#24, fmt := 0#4, pneg := true, pred := 5#3, c := 0#6, b := 0#6, a := 40#6, d := 41#6 }) ∧
    decodeBlock 0x0000000DA4B25F20#64 = .ok (.b64Sel { imm := 0x000000#24, fmt := 0#4, pneg := true, pred := 5#3, c := 41#6, b := 11#6, a := 9#6, d := 31#6 }) ∧
    decodeBlock 0x3000101D00025F21#64 = .ok (.b64Ld { imm := 0x300010#24, fmt := 1#4, pneg := true, pred := 5#3, c := 0#6, b := 0#6, a := 9#6, d := 31#6 }) ∧
    decodeBlock 0x3000101D00024722#64 = .ok (.b64St { imm := 0x300010#24, fmt := 1#4, pneg := true, pred := 5#3, c := 0#6, b := 0#6, a := 9#6, d := 7#6 }) ∧
    decodeBlock 0x3000100D00B25F23#64 = .ok (.b64Amoadd { imm := 0x300010#24, fmt := 0#4, pneg := true, pred := 5#3, c := 0#6, b := 11#6, a := 9#6, d := 31#6 }) :=
  ⟨rfl, rfl, rfl, rfl, rfl, rfl⟩

theorem test_decode_b64_7 :
    decodeBlock 0x3000100D00B25F24#64 = .ok (.b64Famoadd { imm := 0x300010#24, fmt := 0#4, pneg := true, pred := 5#3, c := 0#6, b := 11#6, a := 9#6, d := 31#6 }) ∧
    decodeBlock 0x0000000D00026025#64 = .ok (.b64Lsend { imm := 0x000000#24, fmt := 0#4, pneg := true, pred := 5#3, c := 0#6, b := 0#6, a := 9#6, d := 32#6 }) ∧
    decodeBlock 0x0000000D00081F26#64 = .ok (.b64Lrecv { imm := 0x000000#24, fmt := 0#4, pneg := true, pred := 5#3, c := 0#6, b := 0#6, a := 32#6, d := 31#6 }) ∧
    decodeBlock 0x0000000000000027#64 = .ok (.b64Stop { imm := 0x000000#24, fmt := 0#4, pneg := false, pred := 0#3, c := 0#6, b := 0#6, a := 0#6, d := 0#6 }) ∧
    decodeBlock 0x0000120000000028#64 = .ok (.b64Next { imm := 0x000012#24, fmt := 0#4, pneg := false, pred := 0#3, c := 0#6, b := 0#6, a := 0#6, d := 0#6 }) ∧
    decodeBlock 0x0000120D00000029#64 = .ok (.b64Nextif { imm := 0x000012#24, fmt := 0#4, pneg := true, pred := 5#3, c := 0#6, b := 0#6, a := 0#6, d := 0#6 }) :=
  ⟨rfl, rfl, rfl, rfl, rfl, rfl⟩

theorem test_decode_b64_8 :
    decodeBlock 0x0000000D0000002A#64 = .ok (.b64Nop { imm := 0x000000#24, fmt := 0#4, pneg := true, pred := 5#3, c := 0#6, b := 0#6, a := 0#6, d := 0#6 }) :=
  rfl

theorem test_decode_crill_1 :
    decodeQueue 0x01900048#32 = .ok (.crillLi 9#4 0x48#16) ∧
    decodeQueue 0x02900048#32 = .ok (.crillLhi 9#4 0x48#16) ∧
    decodeQueue 0x10900048#32 = .ok (.crillLdp 9#4 0x48#16) ∧
    decodeQueue 0x11900048#32 = .ok (.crillStp 9#4 0x48#16) ∧
    decodeQueue 0x12900048#32 = .ok (.crillLds 9#4 0x48#16) ∧
    decodeQueue 0x13900048#32 = .ok (.crillSts 9#4 0x48#16) :=
  ⟨rfl, rfl, rfl, rfl, rfl, rfl⟩

theorem test_decode_crill_2 :
    decodeQueue 0x039E8001#32 = .ok (.crillAddi 9#4 14#4 0x8001#16) ∧
    decodeQueue 0x099E8001#32 = .ok (.crillAndi 9#4 14#4 0x8001#16) ∧
    decodeQueue 0x189E8001#32 = .ok (.crillBeq 9#4 14#4 0x8001#16) ∧
    decodeQueue 0x199E8001#32 = .ok (.crillBne 9#4 14#4 0x8001#16) ∧
    decodeQueue 0x1A9E8001#32 = .ok (.crillBltu 9#4 14#4 0x8001#16) ∧
    decodeQueue 0x1B9E8001#32 = .ok (.crillBgeu 9#4 14#4 0x8001#16) :=
  ⟨rfl, rfl, rfl, rfl, rfl, rfl⟩

theorem test_decode_crill_3 :
    decodeQueue 0x049E0000#32 = .ok (.crillAdd 9#4 14#4) ∧
    decodeQueue 0x059E0000#32 = .ok (.crillSub 9#4 14#4) ∧
    decodeQueue 0x069E0000#32 = .ok (.crillAnd 9#4 14#4) ∧
    decodeQueue 0x079E0000#32 = .ok (.crillOr 9#4 14#4) ∧
    decodeQueue 0x089E0000#32 = .ok (.crillXor 9#4 14#4) ∧
    decodeQueue 0x0C9E0000#32 = .ok (.crillMaxu 9#4 14#4) :=
  ⟨rfl, rfl, rfl, rfl, rfl, rfl⟩

theorem test_decode_crill_4 :
    decodeQueue 0x0D9E0000#32 = .ok (.crillMinu 9#4 14#4) ∧
    decodeQueue 0x209E0000#32 = .ok (.crillRdc 9#4 14#4) ∧
    decodeQueue 0x229E0000#32 = .ok (.crillSetc 9#4 14#4) ∧
    decodeQueue 0x239E0000#32 = .ok (.crillWaitc 9#4 14#4) ∧
    decodeQueue 0x0A9E003F#32 = .ok (.crillShl 9#4 14#4 63#6) ∧
    decodeQueue 0x0B9E003F#32 = .ok (.crillShr 9#4 14#4 63#6) :=
  ⟨rfl, rfl, rfl, rfl, rfl, rfl⟩

theorem test_decode_crill_5 :
    decodeQueue 0x0E9E1407#32 = .ok (.crillExt 9#4 14#4 20#6 7#6) ∧
    decodeQueue 0x0F9E1407#32 = .ok (.crillIns 9#4 14#4 20#6 7#6) ∧
    decodeQueue 0x149E0003#32 = .ok (.crillLdt 9#4 14#4 3#2) ∧
    decodeQueue 0x1C00FFF0#32 = .ok (.crillJ 0xFFF0#16) ∧
    decodeQueue 0x1D900F03#32 = .ok (.crillRep 9#4 0x0F#8 3#8) ∧
    decodeQueue 0x210E0007#32 = .ok (.crillSigc 14#4 7#16) :=
  ⟨rfl, rfl, rfl, rfl, rfl, rfl⟩

theorem test_decode_crill_6 :
    decodeQueue 0x240E0002#32 = .ok (.crillCancel 14#4 2#2) ∧
    decodeQueue 0x25000000#32 = .ok (.crillPsnFail) ∧
    decodeQueue 0x25000001#32 = .ok (.crillPsnSkip) ∧
    decodeQueue 0x25000502#32 = .ok (.crillPsnPlanes 5#4) ∧
    decodeQueue 0x26000001#32 = .ok (.crillWeld 1#1) ∧
    decodeQueue 0x27000000#32 = .ok (.crillEnd) :=
  ⟨rfl, rfl, rfl, rfl, rfl, rfl⟩

theorem test_decode_crill_7 :
    decodeQueue 0x27000001#32 = .ok (.crillEndCancel) ∧
    decodeQueue 0x28900000#32 = .ok (.crillTime 9#4) ∧
    decodeQueue 0x29900000#32 = .ok (.crillIdx 9#4) :=
  ⟨rfl, rfl, rfl⟩

/-! Ill-formed terms, one for each check of an encoding: refused (R135 to R140, R251 to R256, R398, R399). -/

/-- A T48 record with every field 0, and a B64 record with every field 0. -/
def none48 : T48 := { aux := 0, rep := 0, fb := false, fa := false, gm := 0, b := 0, a := 0, d := 0 }
def none64 : B64 := { imm := 0, fmt := 0, pneg := false, pred := 0, c := 0, b := 0, a := 0, d := 0 }

/-- Operand fields that an entry leaves at zero, or limits. -/
theorem test_illformed_operands :
    (Instr.sunbind { none48 with d := 1 }).wellFormed = false ∧ (Instr.spos { none48 with a := 1 }).wellFormed = false ∧
    (Instr.vfsqrt { none48 with b := 1 }).wellFormed = false ∧ (Instr.vfeq { none48 with d := 8 }).wellFormed = false ∧
    (Instr.wbase { none48 with a := 16 }).wellFormed = false ∧ (Instr.sbind { none48 with b := 16 }).wellFormed = false ∧
    (Instr.czero { none48 with d := 24 }).wellFormed = false ∧ (Instr.mma { none48 with a := 8 }).wellFormed = false := by
  decide

/-- aux8: bits that no entry assigns, SEW codes, kinds, roundings and conversion codes. -/
theorem test_illformed_aux :
    (Instr.mand { none48 with aux := 1 }).wellFormed = false ∧ (Instr.vsetl { none48 with aux := 3 }).wellFormed = false ∧
    (Instr.vfadd { none48 with aux := 0xC0 }).wellFormed = false ∧ (Instr.vfadd { none48 with aux := 0x80 }).wellFormed = false ∧
    (Instr.vfadd { none48 with aux := 0x08 }).wellFormed = false ∧ (Instr.vfadd { none48 with aux := 6 }).wellFormed = false ∧
    (Instr.vadd { none48 with aux := 1 }).wellFormed = false ∧ (Instr.vfcvt { none48 with aux := 0x30 }).wellFormed = false := by
  decide

/-- Formats that are unassigned or that an access may not name, the ordered and commutative bits, scopes and flags. -/
theorem test_illformed_formats :
    (Instr.vld { none48 with aux := 0x0F }).wellFormed = false ∧ (Instr.vld { none48 with aux := 0x40 }).wellFormed = false ∧
    (Instr.vlds { none48 with aux := 0x07 }).wellFormed = false ∧ (Instr.vldx { none48 with aux := 0x12 }).wellFormed = false ∧
    (Instr.vstxO { none48 with aux := 0 }).wellFormed = false ∧ (Instr.vstxU { none48 with aux := 0x40 }).wellFormed = false ∧
    (Instr.vcappend { none48 with aux := 8 }).wellFormed = false ∧ (Instr.vamoadd { none48 with aux := 0xC8 }).wellFormed = false ∧
    (Instr.vamoadd { none48 with aux := 0 }).wellFormed = false ∧ (Instr.vamofadd { none48 with aux := 8 }).wellFormed = false ∧
    (Instr.trow { none48 with aux := 0x80 }).wellFormed = false ∧ (Instr.tld { none48 with aux := 2 }).wellFormed = false ∧
    (Instr.fenceRel { none48 with aux := 5 }).wellFormed = false ∧ (Instr.msig { none48 with aux := 16 }).wellFormed = false := by
  decide

/-- The mask field, waiting for sources that are no vectors, and replication. -/
theorem test_illformed_modifiers :
    (Instr.vxchg { none48 with gm := 1 }).wellFormed = false ∧ (Instr.vmerge none48).wellFormed = false ∧
    (Instr.vld { none48 with fa := true }).wellFormed = false ∧ (Instr.vadd { none48 with aux := 0x40, fb := true }).wellFormed = false ∧
    (Instr.vexpand { none48 with gm := 1, rep := 1 }).wellFormed = false ∧
    (Instr.vadd { none48 with aux := 0x40, rep := 1 }).wellFormed = false := by
  decide

/-- B64: register numbers that no operand has, roundings, width codes, a predicate on a terminator, unused fields. -/
theorem test_illformed_block :
    (Instr.b64Add { none64 with d := 33 }).wellFormed = false ∧ (Instr.b64Add { none64 with a := 34 }).wellFormed = false ∧
    (Instr.b64Add { none64 with c := 2 }).wellFormed = false ∧ (Instr.b64Add { none64 with imm := 1 }).wellFormed = false ∧
    (Instr.b64Seq { none64 with d := 40 }).wellFormed = false ∧ (Instr.b64Pand { none64 with d := 41, a := 39, b := 40 }).wellFormed = false ∧
    (Instr.b64Sel { none64 with c := 48 }).wellFormed = false ∧ (Instr.b64Lsend none64).wellFormed = false ∧
    (Instr.b64Fadd { none64 with fmt := 6 }).wellFormed = false ∧ (Instr.b64Fmin { none64 with fmt := 1 }).wellFormed = false ∧
    (Instr.b64Fcvt { none64 with c := 6 }).wellFormed = false ∧ (Instr.b64Ld { none64 with fmt := 5 }).wellFormed = false ∧
    (Instr.b64St { none64 with fmt := 2 }).wellFormed = false ∧ (Instr.b64Li { none64 with b := 1 }).wellFormed = false ∧
    (Instr.b64Amoadd { none64 with c := 1 }).wellFormed = false ∧ (Instr.b64Next { none64 with a := 1 }).wellFormed = false ∧
    (Instr.b64Stop { none64 with pred := 1 }).wellFormed = false ∧ (Instr.b64Next { none64 with pneg := true }).wellFormed = false := by
  decide

/-- The fence whose word is `fence.tso`, and the fields of queue programs. -/
theorem test_illformed_others :
    (Instr.fence 8 3 3 0 0).wellFormed = false ∧ (Instr.crillLdp 0 0x101).wellFormed = false ∧ (Instr.crillStp 0 0).wellFormed = false ∧
    (Instr.crillLds 0 4).wellFormed = false ∧ (Instr.crillSts 0 0xFFFF).wellFormed = false ∧
    (Instr.crillExt 0 0 60 4).wellFormed = false ∧ (Instr.crillIns 0 0 63 1).wellFormed = false ∧ (Instr.crillRep 0 0 0).wellFormed = false ∧
    (Instr.crillSigc 0 0).wellFormed = false ∧ (Instr.crillPsnPlanes 8).wellFormed = false := by
  decide

/-- Words that R124, R127, R130 and R141 leave unassigned do not decode. -/
theorem test_undecodable :
    decode [0x00, 0x00] = .error .unassigned ∧ decode [0x3F, 0, 0, 0, 0, 0, 0, 0] = .error .length ∧
    decode [0x1F, 0x90, 0x00, 0, 0, 0] = .error .unassigned ∧ decodeBlock 0x2B#64 = .error .unassigned ∧
    decodeQueue 0#32 = .error .unassigned :=
  ⟨rfl, rfl, rfl, rfl, rfl⟩


/-! Small states. The memory maps the first 512 MiB onto themselves by one level-2 leaf: a root entry at 0x10000 points to
0x20000, where the leaf has D, A, U, X, W, R and V (R360, R361). -/

def unit0 : UnitRef :=
  { job := 1, queue := 2, index := 3, num := 0, gangBase := 0, gang := 1, dies := [0], ownsMs := true, grants := [0, 5]
    splice := none, psn := 0, planes := 0, code := 0x100000, blkBase := 0x110000, blkSize := 0x1000 }

def tables : List Host.Cell := [(0x10000, 1), (0x10002, 2), (0x20000, 0xDF)]

/-- A unit of job 1 runs on hart 0 in user mode with clusters 0 and 1, SEW 32, LMUL 1 and vl 8, and owns MS 0. -/
def ctx0 : Ctx := { unit := some unit0, pc := 0x100000, vl := 8, ccap := 16 }
def base : State :=
  { State.reset with
    ctxs := [(0, ctx0)]
    clus := [(0, { owner := some 0, attached := some 0 }), (1, { owner := some 0, attached := some 0 })]
    mss := [(0, { owner := some 0, run := .running, pc := 0x108000 })]
    mem := tables
    handles := [(0, { job := some 1 }), (5, { job := some 1 })]
    hearth := { jobs := [(1, { state := 2, root := 0x10000 })] } }

def withRegs (c : Ctx) (l : List (Nat × Word)) : Ctx := { c with x := l.foldl (fun x r => x.setIfInBounds r.1 r.2) c.x }
def ctOf (c : Ctx) : State := { base with who := .ct 0, ctxs := [(0, c)] }
def ct (l : List (Nat × Word)) : State := ctOf (withRegs ctx0 l)
def sup (l : List (Nat × Word)) : State := ctOf { withRegs ctx0 l with mode := .supervisor, stvec := 0x8000 }
def ms (l : List (Nat × Word)) : State :=
  { base with
    who := .ms 0
    mss := [(0, { owner := some 0, run := .running, pc := 0x108000
                  x := l.foldl (fun x r => x.setIfInBounds r.1 r.2) (Vector.replicate 32 0) })] }
def ind (l : List (Nat × Word)) : State :=
  { base with
    who := .ind 0 1
    ctxs := [(0, { withRegs ctx0 l with loop := { mode := .ind, start := 0x100000, body := [0x13, 0, 0, 0], rem := 8, strips := [{ slot := 1, base := 0, size := 8, vl := 8, off := 0, stop := none, first := 0, fin := 8 }] } })] }

/-- What an observation of the next state shows. -/
def sees {α : Type} (o : Out) (f : State → α) : Option α :=
  match o with
  | .next t => some (f t)
  | _ => none

/-- The value of an answer that is no error. -/
def okOf {ε α : Type} : Except ε α → Option α
  | .ok x => some x
  | .error _ => none
theorem pair_ok {ε α σ : Type} {p : Except ε α × σ} {x : α} (h : okOf p.1 = some x) : p = (.ok x, p.2) := by
  obtain ⟨e, s⟩ := p
  cases e <;> simp_all [okOf]


/-! Witnesses: for each statement with hypotheses, states and operands that meet them together. -/

theorem test_witness_DecodeOfEncode : (Instr.addi 5#5 6#5 0x801#12).wellFormed = true ∧ (encode (.addi 5#5 6#5 0x801#12)).isSome = true ∧
    (Instr.b64Nop none64).wellFormed = true ∧ (encodeBlock (.b64Nop none64)).isSome = true ∧
    (encodeCrill (.crillLi 15#4 0xFFFF#16)).isSome = true := by decide
theorem test_witness_DecodeOfEncode_hcall : (Instr.hcallCancel { none48 with d := 31, a := 31, b := 31 }).wellFormed = true ∧
    (encode (.hcallCancel { none48 with d := 31, a := 31, b := 31 })).isSome = true := by decide
theorem test_witness_DecodedWellFormed : decode [0x13, 0, 0, 0] = .ok (.addi 0 0 0, []) ∧ decodeBlock 0x2A#64 = .ok (.b64Nop { none64 with d := 0 }) :=
  ⟨rfl, rfl⟩

/-- The CT fetches `nop` from memory; the strip, the MS and a micro-thread stand at an instruction. -/
def fetchState : State :=
  { base with agenda := [.agent (.ct 0)], mem := tables ++ [(0x100000, 0x13), (0x108000, 0x13)] }
theorem test_witness_StepRunsDecoded_plain : plain (moving fetchState (.ct 0) []) 0 :=
  ⟨rfl, rfl, rfl, rfl, rfl, rfl, rfl, by decide⟩
theorem test_witness_StepRunsDecoded_fetch : ∃ a', (moving fetchState (.ct 0) []).fetchInstr (fetchState.ctx 0).pc = (.ok [0x13, 0, 0, 0], a') ∧
    (fetchState.ctx 0).inBody = false :=
  ⟨((moving fetchState (.ct 0) []).fetchInstr (fetchState.ctx 0).pc).2, pair_ok (by decide +kernel), by decide⟩
theorem test_witness_StepRunsDecoded_ms : ∃ a', (moving fetchState (.ms 0) []).fetchInstr (fetchState.ms 0).pc = (.ok [0x13, 0, 0, 0], a') ∧
    (fetchState.ms 0).owner = some 0 ∧ (fetchState.ms 0).run = .running ∧ (fetchState.ctx 0).unit.isSome = true ∧
    (fetchState.ctx 0).dbgStop = false ∧ (fetchState.ctx 0).park = .no ∧ (moving fetchState (.ms 0) []).overdue 0 = false :=
  ⟨((moving fetchState (.ms 0) []).fetchInstr (fetchState.ms 0).pc).2, pair_ok (by decide +kernel), rfl, rfl, rfl, rfl, rfl, rfl⟩
def bodyState : State := ctOf { ctx0 with loop := { mode := .seq, start := 0x100000, body := [0x13, 0, 0, 0], rem := 8, count := 16 } }
theorem test_witness_StepRunsDecoded_body : plain (moving bodyState (.ct 0) []) 0 ∧ (bodyState.ctx 0).inBody = true ∧
    decode ((bodyState.ctx 0).loop.body.drop ((bodyState.ctx 0).pc - (bodyState.ctx 0).loop.start).toNat) = .ok (.addi 0 0 0, []) :=
  ⟨⟨rfl, rfl, rfl, rfl, rfl, rfl, rfl, by decide⟩, rfl, rfl⟩
theorem test_witness_StepRunsDecoded_ind : (stripOf ((ind []).ctx 0) 1).isSome = true ∧ ((ind []).ctx 0).loop.mode = .ind ∧
    ((ind []).ctx 0).inBody = true ∧ ((ind []).ctx 0).unit.isSome = true ∧ ((ind []).ctx 0).dbgStop = false ∧ ((ind []).ctx 0).park = .no ∧
    (moving (ind []) (.ind 0 1) []).overdue 0 = false ∧ (moving (ind []) (.ind 0 1) []).bpNow 0 1 = none ∧
    decode (((ind []).ctx 0).loop.body.drop 0) = .ok (.addi 0 0 0, []) := ⟨rfl, rfl, rfl, rfl, rfl, rfl, rfl, rfl, rfl⟩
def threadState : State := { base with who := .mt 0 3, mts := [(base.mtKey 0 3, { state := .running, block := [0x2A] })] }
theorem test_witness_StepRunsDecoded_thread : (threadState.thread 0 3).state = .running ∧ (threadState.thread 0 3).block = [0x2A] ∧
    (threadState.ctx 0).unit.isSome = true ∧ (threadState.ctx 0).dbgStop = false ∧ (threadState.ctx 0).park = .no ∧
    (moving threadState (.mt 0 3) []).overdue 0 = false := ⟨rfl, rfl, rfl, rfl, rfl, rfl⟩
def slot0 : QSlot :=
  { ring := 0x200000, cring := 0x210000, w48 := 0, tables := [(0x220000, 4)], scratch := [], read := 0, tail := 4, acc := 4
    cdone := 0, prog := some [0x01100007, 0x27000000], enable := true, weldoff := false }
def run0 : Run := { index := 3, words := List.replicate 32 0, scratch := [] }
def runState : State :=
  { base with
    who := .crill 1 2
    hearth := { base.hearth with slots := [(qKey 1 2, slot0)], runs := [(qKey 1 2, run0)] } }
theorem test_witness_StepRunsDecoded_run : runState.run? (qKey 1 2) = some run0 ∧
    (((runState.slot? (qKey 1 2)).bind (·.prog)).getD [])[run0.pc]? = some 0x01100007#32 ∧
    decodeQueue 0x01100007#32 = .ok (.crillLi 1#4 7#16) := ⟨rfl, rfl, rfl⟩

theorem test_witness_UndecodableTraps : executes (ct []) ∧ executes (ms []) ∧ executes (ind []) ∧ executes threadState := ⟨trivial, trivial, trivial, trivial⟩
theorem test_witness_CallsAndBreaks : (ct []).debugHolds 0 = false ∧
    ({ ct [] with plat := { (ct []).plat with debug := some (1, 0) } } : State).debugHolds 0 = true := ⟨rfl, rfl⟩
theorem test_witness_PrivilegedInstructions : ((ct []).ctx 0).mode = .user ∧ ((sup []).ctx 0).mode = .supervisor ∧ ((sup []).ctx 0).loop.mode ≠ .ind ∧
    (sup []).jobQueued 0 ((sup []).ctxJob 0) = false ∧ ((sup []).ctx 0).sie &&& ((sup []).ctx 0).sip = 0 := by decide
theorem test_witness_SretReturns : vtyValid ((sup []).ctx 0).svty = true ∧
    vtyValid ((ctOf { ctx0 with mode := .supervisor, svty := 3 }).ctx 0).svty = false := by decide
theorem test_witness_PrivilegedInstructions_wfi : ((ctOf { ctx0 with mode := .supervisor, sie := 0x200, sip := 0x200 }).ctx 0).sie &&& 0x200 ≠ 0 := by decide
theorem test_witness_SretReturns_ind : ((ctOf { ctx0 with mode := .supervisor, loop := { mode := .ind, rem := 1 } }).ctx 0).loop.rem ≠ 0 := by decide
theorem test_witness_InterruptsTaken : pendingIntr ((ctOf { ctx0 with sie := 0x222, sip := 0x222 }).ctx 0) = some 9 ∧
    pendingIntr ((ctOf { ctx0 with sie := 0x22, sip := 0x22 }).ctx 0) = some 1 ∧
    pendingIntr ((ctOf { ctx0 with sie := 0x20, sip := 0x22 }).ctx 0) = some 5 ∧ pendingIntr ((sup []).ctx 0) = none := by decide
def eventCtx : Ctx := { ctx0 with events := [{ event := 1, tag := 0x123456 }], uivec := 0x4000 }
def eventCtx4 : Ctx := { ctx0 with events := [{ event := 4, tag := 7 }], uivec := 0x4000, uimask := 0x3E }
theorem test_witness_InterruptsTaken_user : ((ctOf eventCtx).ctx 0).readyEvent = some { event := 1, tag := 0x123456 } ∧
    ((ctOf eventCtx).ctx 0).unit.isSome = true ∧ ((ctOf eventCtx).ctx 0).atEventPoint = true ∧
    ((ctOf eventCtx4).ctx 0).readyEvent = some { event := 4, tag := 7 } ∧ ((ctOf eventCtx4).ctx 0).atEventPoint = true ∧
    ((ctOf { ctx0 with handler := true }).ctx 0).handler = true := by decide

theorem test_witness_ScalarResults : movesScalar (ct []) ∧ movesScalar (ms []) ∧ movesScalar (ind []) ∧
    aluResult (ct [(6, 5)]) (.addi 5#5 6#5 0xFFF#12) = some (5#5, 4) ∧ aluResult (ct []) (.lui 0#5 0x80000#20) = some (0#5, 0xFFFFFFFF80000000) :=
  ⟨trivial, trivial, rfl, rfl, rfl⟩
theorem test_witness_MultiplyDivide : movesCt (ct []) ∧ mulResult (ct [(6, 7), (7, 0)]) (.div 5#5 6#5 7#5) = some (5#5, 0xFFFFFFFFFFFFFFFF) ∧
    mulResult (ct [(6, 0x8000000000000000), (7, 0xFFFFFFFFFFFFFFFF)]) (.rem 5#5 6#5 7#5) = some (5#5, 0) := ⟨trivial, rfl, rfl⟩
theorem test_witness_ControlTransfers : movesPc (ct []) ∧ (jumpResult (ct []) (.jal 1#5 0x80000#20)).isSome = true ∧
    (branchResult (ct []) (.beq 0#5 0#5 0x800#12)).isSome = true := ⟨trivial, rfl, rfl⟩

theorem test_witness_LoadResults : ∃ v s1, (ct [(6, 0x30000)]).scalarRead ((ct [(6, 0x30000)]).rx 6#5 + (0#12).signExtend 64) 8 = (.ok v, s1) := ⟨_, _, rfl⟩
theorem test_witness_LoadResults_plain : ∃ x s1, plainVa ((ct [(6, 0x30000)]).rx 6#5 + (0xFF8#12).signExtend 64) ∧
    ((ct [(6, 0x30000)]).rx 6#5 + (0xFF8#12).signExtend 64).toNat % 8 = 0 ∧
    (ct [(6, 0x30000)]).translate ((ct [(6, 0x30000)]).rx 6#5 + (0xFF8#12).signExtend 64) .load = (.ok x, s1) ∧
    x.pois = false ∧ s1.memPoisoned x.pa 8 = false ∧ s1.plat.ckRegs = [] := ⟨_, _, by decide, by decide, rfl, rfl, rfl, rfl⟩
theorem test_witness_LoadResults_fault : ∃ s1, (ct [(6, 0x8000000000000000)]).scalarRead ((ct [(6, 0x8000000000000000)]).rx 6#5 + (0#12).signExtend 64) 4 =
    (.error (5, 0x8000000000000000), s1) := ⟨_, rfl⟩
theorem test_witness_StoreResults : ∃ x s1, plainVa ((ct [(6, 0x30000)]).rx 6#5 + (4#12).signExtend 64) ∧
    (ct [(6, 0x30000)]).translate ((ct [(6, 0x30000)]).rx 6#5 + (4#12).signExtend 64) .store = (.ok x, s1) := ⟨_, _, by decide, rfl⟩
theorem test_witness_StoreResults_misaligned : (∃ s1 s2, (ct []).scalarWrite 0x30001 4 0x12345678 = (.ok s1, s2)) ∧
    ∃ s1, byteAddrs 0x30001 0 4 (ct []) = some ([0x30001, 0x30002, 0x30003, 0x30004], s1) := ⟨⟨_, _, rfl⟩, _, rfl⟩
theorem test_witness_StoreResults_fault : ∃ s2, (ct []).scalarWrite 0x8000000000000000 4 1 = (.error (7, 0x8000000000000000), s2) := ⟨_, rfl⟩
theorem test_witness_StoreQueues : ∃ x y s1 s2 s3, (ct []).translate 0x30000 .store = (.ok x, s1) ∧ (ct []).scalarWrite 0x30000 4 7 = (.ok s2, s1) ∧
    s2.translate 0x30000 .load = (.ok y, s3) ∧ y.pa = x.pa ∧ x.pa % 4 = 0 ∧ y.pois = false ∧ plainVa 0x30000 :=
  ⟨_, _, _, _, _, rfl, rfl, rfl, rfl, rfl, rfl, by decide⟩
def queued : State := ctOf { ctx0 with queue := [{ cls := 0, pa := 0x30000, bytes := fullBytes [1, 2, 3, 4] }] }
theorem test_witness_StoreQueues_drain : Memory.wf queued.mem ∧ (takeClass 0 (queued.ctx 0).queue).isSome = true ∧ (queued.ms 0).queue = [] ∧
    queued.threadsOf 0 = [] ∧ queued.installed 0x30000 = true := by decide
theorem test_witness_Atomics : ∃ x s1, atomicAt (ct [(6, 0x30000)]) 6#5 8 true .amo x s1 ∧ Memory.wf s1.mem ∧ s1.plat.ckRegs = [] ∧ x.pois = false ∧
    s1.memPoisoned x.pa 8 = false := ⟨_, _, ⟨by decide, by decide, rfl, rfl, fun _ => rfl⟩, by decide, rfl, rfl, rfl⟩
theorem test_witness_Atomics_misaligned : plainVa ((ct [(6, 0x30001)]).rx 6#5) ∧ ((ct [(6, 0x30001)]).rx 6#5).toNat % 4 ≠ 0 := by decide
theorem test_witness_LoadReserved : ∃ x s1, atomicAt (ct [(6, 0x3003C)]) 6#5 4 false .load x s1 ∧ onDevice x.pa = true ∧ Memory.wf s1.mem ∧
    x.pois = false ∧ s1.memPoisoned x.pa 4 = false := ⟨_, _, ⟨by decide, by decide, rfl, rfl, fun h => nomatch h⟩, by decide, by decide, rfl, rfl⟩
theorem test_witness_LoadReserved_sc : ∃ x s1, atomicAt (ctOf { withRegs ctx0 [(6, 0x30000)] with resv := some (0x30000 / 64) }) 6#5 8 true .store x s1 ∧
    (s1.ctx 0).resv = some (x.pa / 64) := ⟨_, _, ⟨by decide, by decide, rfl, rfl, fun _ => rfl⟩, rfl⟩
theorem test_witness_CsrInstructions : (ct []).csrRead 0 0x800 = some 9 ∧ (csrWrite ((ct []).ctx 0) 0x800 0xFF).isSome = true ∧ (ct []).csrRead 0 0x100 = none ∧
    csrWrite ((ct []).ctx 0) 0xCC0 1 = none ∧ (csrWrite ((sup []).ctx 0) 0x100 0x122).isSome = true ∧ (csrWrite ((sup []).ctx 0) 0x105 7).isSome = true :=
  ⟨rfl, rfl, rfl, rfl, rfl, rfl⟩
/-- A store to peer 3 waits. -/
def peerQueued : State := ctOf { ctx0 with queue := [{ cls := 0, pa := 2 ^ 51 + 3 * 2 ^ 45, bytes := fullBytes [1, 2, 3, 4] }] }
theorem test_witness_FencesComplete : ((ct []).ctx 0).queue = [] ∧ (∃ p ∈ (queued.ctx 0).queue, p.pa < 2 ^ 51) ∧ (peerQueued.ctx 0).queue ≠ [] ∧
    (∀ p ∈ (peerQueued.ctx 0).queue, 2 ^ 51 ≤ p.pa) := by decide
theorem test_witness_FencesComplete_scope : performedFor peerQueued 0 3 ∧ ¬ performedFor peerQueued 0 4 ∧ ¬ performedFor queued 0 1 := by
  unfold performedFor; decide


theorem plain_vec (s : State) (regs : List Nat) (h1 : movesCt s) (h2 : vtyVill s.view.vty = false)
    (h3 : (regs.all fun r => r % s.view.lmul == 0) = true) (h4 : ((s.ctx s.hart).streams.toList.all fun t => !t.bound) = true)
    (h5 : ((s.ctx s.hart).loading.isEmpty && !(s.mts.any fun p => p.2.state = .running && p.1 / 128 % 4 == ctxNo s.hart)) = true) : vecPlain s regs := by
  simp only [List.all_eq_true, beq_iff_eq, Bool.not_eq_true', Bool.and_eq_true, List.isEmpty_iff] at h3 h4 h5
  exact ⟨h1, h2, h3, h4, h5.1, h5.2⟩
def o1 : T48 := { none48 with d := 5, a := 6, b := 7 }
theorem test_witness_VectorIntegers_last : (ct []).vlast = ((ct []).ctx 0).ldst := rfl
def wide : State := ctOf { ctx0 with vty := 0xE, vl := 64 }
theorem test_witness_VectorIntegers : vecPlain (ct []) [5, 6, 7] ∧ vecPlain wide [24, 8, 16] ∧ vecPlain (ind []) [31] ∧
    (∀ w, intOp w (.vsra o1) = some (o1, true, fun a b => a.sshiftRight b.toNat)) ∧ (∀ w, intLast w (.vsllK 31#5) = some ([], fun (l _ : BitVec w) => l <<< (31#5).toNat)) :=
  ⟨plain_vec _ _ trivial rfl rfl rfl rfl, plain_vec _ _ trivial rfl rfl rfl rfl, plain_vec _ _ rfl rfl rfl rfl rfl, fun _ => rfl, fun _ => rfl⟩
theorem test_witness_VectorFloats : (floatOp (ct []) (.vfma o1)).isSome = true ∧ (floatLast (ct []) (.vfmaK 9#5 17#5)).isSome = true ∧
    vecPlain (ct []) [5, 6, 7] ∧ (ctOf { ctx0 with vty := 1 }).view.sb = 2 :=
  ⟨rfl, rfl, plain_vec _ _ trivial rfl rfl rfl rfl, rfl⟩
theorem test_witness_VectorMasks : (compareOp (ct []) (.vfle { o1 with d := 7 })).isSome = true ∧ vecPlain (ct []) (regsAB o1) ∧ vecPlain (ct []) [] ∧
    (bitResult (ct []) (.mandn o1)).isSome = true := ⟨rfl, plain_vec _ _ trivial rfl rfl rfl rfl, plain_vec _ _ trivial rfl rfl rfl rfl, rfl⟩
theorem test_witness_VectorMasks_bits : ∀ e ∈ (ct []).actives (ct []).view 0, ((ct []).maskBit (ct []).view 1 e).2 = false ∧ tainted (ct []) 0 e = false := by decide +kernel
def poisonedBit : State := { ct [] with mpois := [((ct []).view.maskKey 1 2, true)] }
theorem test_witness_VectorMasks_poison :
    (poisonedBit.actives poisonedBit.view 0).find? (fun e => (poisonedBit.maskBit poisonedBit.view 1 e).2 || tainted poisonedBit 0 e) = some 2 := by decide +kernel
theorem test_witness_VectorCopies : (permElem (ct []) (.vrgather { o1 with aux := 0x40 })).isSome = true ∧ (5 : Nat) ∉ [6] ∧ (ct []).view.oneDie = true ∧
    vecPlain (ct []) [0, 9] ∧ (ct []).view.n ≠ 0 ∧ ((ct []).elem (ct []).view 6 0).2 = false ∧ ({ o1 with aux := 0x40 } : T48).kind ≠ 0 :=
  ⟨rfl, by decide, rfl, plain_vec _ _ trivial rfl rfl rfl rfl, by decide, rfl, by decide⟩
theorem test_witness_VectorCopies_none : ({ ct [] with clus := [] } : State).view.n = 0 ∧ vecPlain { ct [] with clus := [] } [6] :=
  ⟨rfl, plain_vec _ _ trivial rfl rfl rfl rfl⟩
theorem test_witness_PackAndExchange : vecPlain (ct []) [5, 6] ∧ (6#5 : Reg) ≠ 5#5 ∧ (ct []).view.order.Nodup ∧ (ct []).view.lmul = 1 ∧
    (∀ e, e < (ct []).view.vl → ((ct []).maskBit (ct []).view 1 e).2 = false) ∧
    (∀ i, i < (ct [(7, 0x01)]).view.n → (((ct [(7, 0x01)]).rx 7#5).extractLsb' (4 * i) 4).toNat < (ct [(7, 0x01)]).view.n) :=
  ⟨plain_vec _ _ trivial rfl rfl rfl rfl, by decide, by decide, rfl, by decide +kernel, by decide +kernel⟩
/-- The unit spans two dies: clusters 0 and 128 are its order; an exchange may be in flight between them. -/
def spanning (x : Option (Option Nat)) (map : Word) : State :=
  { ctOf { withRegs ctx0 [(7, map)] with exchg := x, unit := some { unit0 with dies := [0, 1] } } with
    clus := [(0, { owner := some 0, attached := some 0 }), (128, { owner := some 0, attached := some 0 })] }
theorem test_witness_PackAndExchange_dies : vecPlain (spanning none 0x01) [5, 6] ∧ (spanning none 0x01).view.order = [0, 128] ∧ (spanning none 0x01).view.oneDie = false ∧
    ((List.range 2).all fun i => decide ((((spanning none 0x01).rx 7#5).extractLsb' (4 * i) 4).toNat < (spanning none 0x01).view.n)) = true ∧
    ((spanning none 0x01).ctx 0).exchg = none ∧ ((spanning (some none) 0x01).ctx 0).exchg = some none ∧ ((spanning (some (some 1)) 0x01).ctx 0).exchg = some (some 1) ∧
    (List.range 2).find? (fun i => decide (2 ≤ (((spanning none 0x50).rx 7#5).extractLsb' (4 * i) 4).toNat)) = some 1 :=
  ⟨plain_vec _ _ trivial rfl rfl rfl rfl, by decide, by decide, by decide +kernel, rfl, rfl, rfl, by decide +kernel⟩
theorem test_witness_VectorReductions : vecPlain (ct []) [5, 6, 7] ∧ (reducePair (ct []) (.vredmax o1)).isSome = true ∧
    (reduceFloat (ct []) (.vfredt o1)).isSome = true ∧ 0 < (ct []).view.vl ∧ (ctOf { ctx0 with vl := 0 }).view.vl = 0 :=
  ⟨plain_vec _ _ trivial rfl rfl rfl rfl, rfl, rfl, by decide, rfl⟩
theorem test_witness_ElementWrites : (ct []).view.order.Nodup ∧ (ct []).view.order ≠ [] ∧ (ct []).view.sb = 4 ∧ (ct []).view.lmul ∈ [1, 2, 4, 8] ∧ 31 + (ct []).view.lmul ≤ 32 ∧
    ([(255, 7, true)].map fun p : Nat × BitVec 32 × Bool => p.1).Nodup ∧ 255 < (ct []).view.order.length * 512 * (ct []).view.lmul / (ct []).view.sb := by decide +kernel


theorem test_witness_VectorSettings : (asksFor (ct [(6, 100)]) (.vsetl { none48 with d := 5, a := 6, aux := 0x0E })).isSome = true ∧ (ct []).runningThread 0 = none ∧
    ((ct []).boundary 0).order 0 = [0, 1] ∧ vtyValid 0x0E = true ∧ vtyValid 3 = false ∧ vecPlain (ct []) [5] ∧ movesCt (ind []) ∧
    (ct []).sameGang 0 1 = false ∧ (ct []).sameGang 0 0 = true := ⟨rfl, rfl, by decide +kernel, rfl, rfl, plain_vec _ _ trivial rfl rfl rfl rfl, rfl, rfl, rfl⟩

/-- `nop` and `vnext` stand after a `vloop` at 0x100000. -/
def bodyMem : List Host.Cell := tables ++ [(0x100006, 0x13), (0x10000A, 0x5F), (0x10000B, 0x40)]
def loopAt (l : List (Nat × Word)) : State := { ct l with mem := bodyMem }
def admitted (ind : Bool) (a : Reg) (s : State) : Bool :=
  match captureBody 0 (vtyLmul (s.ctx 0).vty) 64 ((s.ctx 0).pc + 6) [] [] none s with
  | (.ok (_, is, none, true), s1) =>
    !bodyBanned ind is && (s1.spliceMate 0).isNone && !is.any bindsStream && (bodyStreams (s.ctx 0) 1 is (s.ctx 0).ldst).isEmpty &&
      !((s1.boundary 0).order 0).isEmpty && (s1.rx a).toNat ≠ 0
  | _ => false
/-- `vsidx v5` and `vnext`, for a `.ind` loop, whose body writes no scalar register. -/
def indexAt (l : List (Nat × Word)) : State :=
  { ct l with mem := tables ++ [(0x100006, 0x5F), (0x100007, 0x50), (0x100008, 0x14), (0x10000C, 0x5F), (0x10000D, 0x40)] }
theorem test_witness_VectorLoops : admitted false 6#5 (loopAt [(6, 20)]) = true ∧ admitted true 6#5 (indexAt [(6, 0xFFFFFFFFFFFFFFFF)]) = true ∧
    vtyVill ((loopAt []).ctx 0).vty = false ∧ ((loopAt []).rx 6#5).toNat = 0 := by decide +kernel
/-- The body holds a `vloop`. -/
def nestedAt : State := { ct [(6, 20)] with mem := tables ++ [(0x100006, 0x5F), (0x100007, 0x20), (0x10000C, 0x5F), (0x10000D, 0x40)] }
theorem test_witness_VectorLoops_banned : (match captureBody 0 1 64 0x100006 [] [] none nestedAt with
    | (.ok (_, is, none, true), _) => bodyBanned false is
    | _ => false) = true := by decide +kernel
def inLoop (rem size : Nat) : State := ctOf { ctx0 with loop := { mode := .seq, start := 0x100000, body := [0x13, 0, 0, 0, 0x5F, 0x40, 0, 0, 0, 0], rem := rem, size := size, count := 16 } }
theorem test_witness_VectorLoops_next : ((inLoop 9 8).ctx 0).inBody = true ∧ (inLoop 9 8).spliceMate 0 = none ∧ ((inLoop 9 8).ctx 0).vl < ((inLoop 9 8).ctx 0).loop.rem ∧
    ((inLoop 8 8).ctx 0).loop.rem ≤ ((inLoop 8 8).ctx 0).vl ∧ ((ct []).ctx 0).inBody = false := by decide +kernel
def inGap : State := ctOf { ctx0 with loop := { (inLoop 9 8).ctx 0 |>.loop with gap := true } }
theorem test_witness_VectorLoops_gap : inGap.spliceMate 0 = none ∧ (inGap.ctx 0).loop.mode = .seq ∧ (inGap.ctx 0).loop.gap = true ∧
    ((inGap.boundary 0).order 0).isEmpty = false := by decide +kernel
theorem test_witness_VectorLoops_ind : ((ind []).ctx 0).inBody = true ∧ (ind []).spliceMate 0 = none ∧ (stripOf ((ind []).ctx 0) 1).isSome = true ∧
    (((ind []).ctx 0).loop.strips.all fun w => w.slot == 1) = true ∧ ((ind []).ctx 0).loop.halt = false := by decide +kernel

/-- A block of one `stop` stands at the start of the blocks part. -/
def blockAt (l : List (Nat × Word)) : State := { ct l with mem := tables ++ [(0x110000, 0x27)] }
theorem test_witness_MicroThreads : (match (blockAt []).enter 0 0 with
    | (.ok block, s1) => block == [0x27] && decide (s1.order 0).Nodup && (s1.actives (blockAt []).view 0).all (fun e => (s1.thread 0 e).state ≠ .running)
    | _ => false) = true ∧ (((blockAt []).ctx 0).vty.extractLsb' 0 4 = 2#4) ∧ ((blockAt []).order 0).isEmpty = false ∧ 0 < 2 ^ 23 ∧
    ((blockAt []).ctx 0).fetching = none ∧ vtyVill ((blockAt []).ctx 0).vty = false := by decide +kernel
theorem test_witness_MicroThreads_control : ((List.range (ct []).view.vlmax).all fun e => (((ct []).threadOf (ct []).view e).state ≠ .running) &&
    (((ct []).threadOf (ct []).view e).state ≠ .faulted) && ((ct []).maskBit (ct []).view 3 e).2 == false) = true ∧ (ct []).view.vlmax = 256 ∧
    0 < (ct []).view.vl ∧ ((ct []).linkQ 0 0).length < 2 ∧ ((ct []).ctx 0).streamOf (ct []).view.lmul 5 = none ∧ ((ct []).order 0).Nodup ∧
    ((ct []).ctx 0).loading = [] := by decide +kernel
def faultedAt : State := { ct [] with mts := [((ct []).mtKey 0 2, { state := .faulted, fault := some (24, 7, 0x40) })] }
theorem test_witness_MicroThreads_faulted : (List.range faultedAt.view.vlmax).find? (fun e => (faultedAt.threadOf faultedAt.view e).state = .faulted) = some 2 := by decide +kernel
def linkedAt : State := { ct [] with mts := [((ct []).mtKey 0 8, { linkIn := [(0x80000000, false)] })] }
def sentAt : State := { ct [] with mts := [((ct []).mtKey 0 7, { linkOut := [(0x80000000, false)] })] }
/-- `vl` names a thread past the attached clusters: what it has sent stands with the context. -/
def farAt : State := ctOf { ctx0 with vty := 0xE, vl := 300, linkOut := [(0x80000000, false)] }
theorem test_witness_MicroThreads_link : linkedAt.linkFrom 0 (linkedAt.view.vl - 1) = [(0x80000000, false)] ∧ linkedAt.view.vl = 8 ∧
    sentAt.linkFrom 0 (sentAt.view.vl - 1) = [(0x80000000, false)] ∧ sentAt.view.vl ≤ 128 * (sentAt.order 0).length ∧
    128 * (farAt.order 0).length < farAt.view.vl ∧ farAt.linkQ 0 farAt.view.vl = [(0x80000000, false)] := by decide +kernel

def governed (s : State) (t : Bt) (o : B64) (regs : List (BitVec 6)) : Bool := (t.pp || (t.p s o.pred.toNat).1 ≠ o.pneg) && !regs.any (t.bound s)
theorem governed_by (s : State) (t : Bt) (o : B64) (regs : List (BitVec 6)) (h : governed s t o regs = true) : governedBy s t o regs := by
  simp only [governed, Bool.and_eq_true, Bool.or_eq_true, Bool.not_eq_true', decide_eq_true_eq] at h
  exact h
def b1 : B64 := { none64 with d := 7, a := 9, b := 11, pneg := false }
theorem test_witness_ThreadResults : governedBy threadState (threadAt threadState 0 3 b1) b1 [7, 9, 11] ∧ threadState.who = .mt 0 3 ∧
    (threadInt (.b64Mulh b1)).isSome = true ∧ (threadCompare ((threadAt threadState 0 3 b1).view threadState) (.b64Seq { b1 with d := 41 })).isSome = true ∧
    (threadFloat ((threadAt threadState 0 3 b1).view threadState) false (.b64Fma b1)).isSome = true :=
  ⟨governed_by _ _ _ _ (by decide +kernel), rfl, rfl, rfl, rfl⟩
theorem test_witness_ThreadResults_idle : (threadAt threadState 0 3 { b1 with pneg := true }).pp = false ∧
    ((threadAt threadState 0 3 { b1 with pneg := true }).p threadState 0).1 = true := by decide +kernel
def boundThread : State :=
  { threadState with ctxs := [(0, { ctx0 with streams := ctx0.streams.set 0 { bound := true, reg := 7 } })] }
theorem test_witness_ThreadResults_bound : (regsDAB b1).any ((threadAt boundThread 0 3 b1).bound boundThread) = true := by decide +kernel

/-- Window 3 is bound over 4 KiB at 0x30000. -/
def win3 : Win := { bound := true, desc := [0x30000, 0x1000] }
def windowThread : State := { threadState with ctxs := [(0, { ctx0 with wins := ctx0.wins.set 3 win3 })] }
def b2 : B64 := { b1 with imm := 0x300010 }
theorem test_witness_ThreadMemory : (threadAt windowThread 0 3 b2).pp = false ∧ governed windowThread (threadAt windowThread 0 3 b2) b2 [7, 9, 11] = true ∧
    ((threadAt windowThread 0 3 b2).e windowThread 9).2 = false ∧ ((threadAt windowThread 0 3 b2).e windowThread 7).2 = false ∧
    (offsetOf windowThread (threadAt windowThread 0 3 b2) b2).toNat % 4 = 0 ∧
    (offsetOf windowThread (threadAt windowThread 0 3 { b2 with imm := 0x300FFF }) { b2 with imm := 0x300FFF }).toNat % 4 ≠ 0 ∧
    (match windowThread.place (threadVa windowThread (threadAt windowThread 0 3 b2) b2) 4 0 .load with
      | (.ok pl, s1) => (s1.readPlace pl 4 false).1.2 == false
      | _ => false) = true ∧
    (match windowThread.place (threadVa windowThread (threadAt windowThread 0 3 b2) b2) 4 0 .store with
      | (.ok _, _) => true
      | _ => false) = true ∧
    (match windowThread.place (threadVa windowThread (threadAt windowThread 0 3 b2) b2) 4 0 .amo with
      | (.ok (.mem x _), s1) => s1.classEmpty x.pa && (s1.readBypass x 4).1.2 == false
      | _ => false) = true := by decide +kernel
def tailThread : State := { threadState with mts := [(base.mtKey 0 3, { state := .running, block := [0x2A], strip := true, tail := true, own := true, linkIn := [(5, true)] })] }
theorem test_witness_ThreadMemory_tail : governed tailThread (threadAt tailThread 0 3 b1) b1 [7, 9] = true ∧ (tailThread.linkFrom 0 3).length < 2 ∧
    ((threadAt tailThread 0 3 b1).m.strip && (threadAt tailThread 0 3 b1).m.tail) = true ∧ (tailThread.thread 0 3).linkIn = [(5, true)] ∧
    (threadAt tailThread 0 3 { b1 with pneg := true }).pp = false := by decide +kernel
theorem test_witness_ThreadMemory_links : (threadState.linkFrom 0 3).length < 2 ∧
    ((threadAt threadState 0 3 b1).m.strip && (threadAt threadState 0 3 b1).m.tail) = false ∧
    (match ({ threadState with mem := tables ++ [(0x110000, 0x27)] } : State).enter 0 0 with
      | (.ok block, _) => block == [0x27]
      | _ => false) = true := by decide +kernel


/-- Memory with 8-byte words. -/
def words (l : List (Nat × Word)) : List Host.Cell := l.foldl (fun m p => putMem m p.1 (fullBytes (natLe 8 p.2.toNat))) tables
def listed (s : State) (i : Instr) (es : List Nat) (row : List (Nat × Nat)) : Bool :=
  row.map (·.1) == es && row.all fun p => match elemBit s p.1 i with
    | some (_, a) => a == p.2
    | none => false
theorem row_of (s : State) (i : Instr) (es : List Nat) (row : List (Nat × Nat)) (h : listed s i es row = true) : rowOf s i es row := by
  simp only [listed, Bool.and_eq_true, beq_iff_eq, List.all_eq_true] at h
  refine ⟨h.1, fun p hp => ?_⟩
  have := h.2 p hp
  revert this
  cases he : elemBit s p.1 i with
  | none => simp
  | some q => obtain ⟨o, a⟩ := q; intro ha; exact ⟨o, by simp_all⟩
/-- The row of an instruction whose every element has an address. -/
def rowFor (s : State) (i : Instr) (es : List Nat) : List (Nat × Nat) :=
  es.map fun e => (e, ((elemBit s e i).map (·.2)).getD 0)
def oLd : T48 := { none48 with d := 5, a := 6, b := 7 }
def load8 : State := ct [(6, 0x30000), (7, 12)]
theorem test_witness_VectorLoadsAndFaults : ∀ i ∈ [Instr.vld { oLd with b := 0 }, .vlds oLd, .vldx oLd],
    rowOf load8 i (load8.actives load8.view 0) (rowFor load8 i (load8.actives load8.view 0)) ∧ laneTakes oLd.fmt load8.view.sb = true ∧
      (readRow load8.view oLd (rowFor load8 i (load8.actives load8.view 0)) load8).isSome = true := by
  intro i hi
  simp only [List.mem_cons, List.not_mem_nil, or_false] at hi
  rcases hi with rfl | rfl | rfl <;> exact ⟨row_of _ _ _ _ (by decide +kernel), by decide +kernel, by decide +kernel⟩
/-- The last element lies at the first byte past the mapped 512 MiB. -/
def edge : State := ct [(6, 0x1FFFFFE4)]
def edgePre : List (Nat × Nat) := rowFor edge (.vld oLd) [0, 1, 2, 3, 4, 5, 6]
theorem test_witness_VectorLoadsAndFaults_edge : rowOf edge (.vld oLd) (edge.actives edge.view 0) (edgePre ++ [(7, 8 * 0x20000000)]) ∧
    (edge.order 0).Nodup ∧ edge.mfSet edge.view = false ∧ (edge.ctx 0).skips = false ∧
    (match readRow edge.view oLd edgePre edge with
      | some (_, s1) => (match (s1.readElem (s1.ctx 0).cap oLd.fmt 4 (8 * 0x20000000) (edge.view.loc 7).1 false).1 with
        | .error (cause, tv) => cause == 24 && tv == 0x20000000
        | .ok _ => false)
      | none => false) = true :=
  ⟨row_of _ _ _ _ (by decide +kernel), by decide +kernel, by decide +kernel, by decide +kernel, by decide +kernel⟩
theorem test_witness_VectorStores : (∀ e ∈ load8.actives load8.view 0, (load8.elem load8.view 5 e).2 = false ∧ tainted load8 0 e = false ∧ (load8.elem load8.view 7 e).2 = false) ∧
    (∀ i ∈ [Instr.vst oLd, .vsts oLd], listed load8 i (load8.actives load8.view 0) (rowFor load8 i (load8.actives load8.view 0)) = true ∧
      (storeRow load8.view oLd (fun e => (load8.elem load8.view 5 e).1) (rowFor load8 i (load8.actives load8.view 0)) load8).isSome = true) := by
  refine ⟨by decide +kernel, fun i hi => ?_⟩
  simp only [List.mem_cons, List.not_mem_nil, or_false] at hi
  rcases hi with rfl | rfl <;> exact ⟨by decide +kernel, by decide +kernel⟩
/-- Every index is 0: `vstx.o` stores the highest element alone. -/
theorem test_witness_VectorStores_indexed : (load8.actives load8.view 0).filter (winsAt load8 oLd) = [7] ∧
    listed load8 (.vstxO oLd) [7] (rowFor load8 (.vstxO oLd) [7]) = true ∧
    (storeRow load8.view oLd (fun e => (load8.elem load8.view 5 e).1) (rowFor load8 (.vstxO oLd) [7]) load8).isSome = true ∧
    listed load8 (.vstxU oLd) [7, 0, 1, 2, 3, 4, 5, 6] (rowFor load8 (.vstxU oLd) [7, 0, 1, 2, 3, 4, 5, 6]) = true := by decide +kernel
def indexed (s : State) : List (Nat × Word) := (s.actives s.view 0).map fun e => (e, indexedVa s oLd e)
def linkedTo : State := ctOf { withRegs ctx0 [(6, 0x30000)] with links := [0x30000 / 512] }
theorem test_witness_LinkedAccesses : exactLane oLd.fmt load8.view.sb = true ∧ (linkRow load8.view (indexed load8) load8).isSome = true ∧
    (match homeRow linkedTo.view .probe (((linkedTo.actives linkedTo.view 0).filter (winsAt linkedTo oLd)).map fun e => (e, indexedVa linkedTo oLd e)) linkedTo with
      | some (row, s1) => row.map (·.1) == [7] && row.all (fun p => s1.classEmpty p.2.pa && p.2.pa / 512 == 0x30000 / 512) &&
        (match lineByLine linkedTo.view (indexedVa linkedTo oLd) (fun e => (linkedTo.elem linkedTo.view 5 e).1) row [0x30000 / 512] s1 with
          | some (linked, _) => linked == [0x30000 / 512]
          | none => false)
      | none => false) = true ∧ (linkedTo.order linkedTo.hart).Nodup ∧ linkedTo.mfSet linkedTo.view = false ∧
    (∀ e ∈ linkedTo.actives linkedTo.view 0, (linkedTo.elem linkedTo.view 7 e).2 = false ∧ (linkedTo.elem linkedTo.view 5 e).2 = false ∧ tainted linkedTo 0 e = false) := by
  decide +kernel
/-- Queues of capacity 16 at 0x30000: empty, and full. -/
def appendTo (tail : Word) : State := { ct [(6, 0x30000)] with mem := words [(0x30000, tail), (0x30010, 0x31000), (0x30018, 4)] }
def oApp : T48 := { none48 with d := 5, a := 6, b := 7, aux := 9 }
def appends (s : State) (room : Bool) : Bool :=
  match s.precise (s.rx oApp.a) 32 .amoProbe with
  | (.ok hx, s1) =>
    let n := (s.actives s.view 0).length
    s1.classEmpty hx.pa && !hx.pois && !s1.memPoisoned hx.pa 32 && (headWord s1 hx.pa 3).toNat == 4 && (headWord s1 hx.pa 2).toNat % 4 == 0 &&
    ((0 < n && 2 ^ 4 < n + (headWord s1 hx.pa 0 - headWord s1 hx.pa 1).toNat) == !room) &&
    let slots := (List.range n).map fun k => headWord s1 hx.pa 2 + BitVec.ofNat 64 (4 * (((headWord s1 hx.pa 0).toNat + k) % 2 ^ 4))
    (match preciseAll .probe 4 slots s1 with
      | (.ok xs, s2) => xs.all (fun y => s2.classEmpty y.pa) && (match s2.precise (s.rx oApp.a) 32 .amo with
        | (.ok _, s3) => (okOf (preciseAll .store 4 slots s3).1).isSome
        | _ => false)
      | _ => false)
  | _ => false
theorem test_witness_CompactAppends : appends (appendTo 8) true = true ∧ appends (appendTo 9) false = true ∧
    (∀ e ∈ (appendTo 8).actives (appendTo 8).view 0, tainted (appendTo 8) 0 e = false) := by decide +kernel
def load1 : State := ctOf { withRegs ctx0 [(6, 0x30000)] with vl := 1 }
theorem test_witness_VectorAtomics : (∀ w, vamoOf w (.vamomax { oLd with aux := 8 }) = some ({ oLd with aux := 8 }, fun (a b : BitVec w) => if a.toInt < b.toInt then b else a)) ∧
    exactLane 8 load1.view.sb = true ∧ load1.queue = [] ∧ (∀ p, sortedByAddr [p] = [p]) ∧
    (match homeRow load1.view .amo (indexed load1) load1 with
      | some ([p], s1) => s1.classEmpty p.2.pa &&
          (amoRow load1.view 32 (fun a b => a + b) (fun e => (load1.elem load1.view 5 e).1) [p] s1).isSome
      | _ => false) = true :=
  ⟨fun _ => rfl, by decide +kernel, by decide +kernel, fun _ => by simp [sortedByAddr], by decide +kernel⟩

/-! Streams, windows, billets and the MS. -/

def streamDesc (write : Bool) : List Word := [0x30000, if write then 0x40 else 0, 16, 0, 1, 0, 0, 0]
def binding : State := { ct [(6, 0x32000)] with mem := words [(0x32000, 0x30000), (0x32010, 16), (0x32020, 1)] }
def oBind : T48 := { none48 with d := 16, a := 6, b := 15 }
theorem test_witness_StreamInstructions : (match readWords (binding.rx oBind.a) 8 binding with
    | (.ok d, s1) => d == streamDesc false && streamOk (s1.ctx 0) (binding.rx oBind.a) d oBind.d 15 && !((s1.ctx 0).stream 15).bound &&
        !streamOk (s1.ctx 0) 1 d oBind.d 15 && !streamOk (s1.ctx 0) (binding.rx oBind.a) (d.set 2 0) oBind.d 15
    | _ => false) = true ∧ (binding.ctx 0).unit.bind (·.splice) = none ∧ oBind.d.toNat % vtyLmul (binding.ctx 0).vty = 0 := by decide +kernel
def stream0 (write : Bool) : Stream := { bound := true, reg := 16, desc := streamDesc write, sew := 2 }
def streaming (t : Stream) (l : List (Nat × Word)) : State := ctOf { withRegs ctx0 l with streams := ctx0.streams.set 0 t }
theorem test_witness_StreamInstructions_bound : ((streaming (stream0 false) []).ctx 0).stream 0 = stream0 false ∧ (stream0 false).isWrite = false ∧ (stream0 true).isWrite = true ∧
    (stream0 false).kept = none ∧ (stream0 false).fifo = none ∧ (stream0 true).accepted = [] ∧ (stream0 false).length = 16 ∧
    (stream0 false).pos + ((streaming (stream0 false) [(6, 16)]).rx 6#5).toNat ≤ (stream0 false).length ∧
    (stream0 false).length < (stream0 false).pos + ((streaming (stream0 false) [(6, 17)]).rx 6#5).toNat ∧
    ((ct []).ctx 0).stream 3 = {} := by decide +kernel
def accepting : Stream := { stream0 true with pos := 2, accepted := [{ pos := 1, clus := 0, lane := 7, scale := 0x38 }, { pos := 0, clus := 1, lane := 9, scale := 0x38 }] }
theorem test_witness_StreamInstructions_move : isClusterLocal (bitVa ((stream0 false).bitAddr 0)) = false ∧
    ((List.range ((fetchRange ctx0 (stream0 false)).2 - (fetchRange ctx0 (stream0 false)).1)).map (· + (fetchRange ctx0 (stream0 false)).1)).find?
      (fun p => !(stream0 false).fetched.any (·.pos = p)) = some 0 ∧
    (match ((streaming (stream0 false) []).asBellows 0).readRaw ((stream0 false).cap ((streaming (stream0 false) []).ctx 0)) 0 ((stream0 false).bitAddr 0) 0 false with
      | (.ok _, s1) => (s1.ctx 0).stream 0 == stream0 false
      | _ => false) = true ∧
    firstAccepted accepting = some { pos := 0, clus := 1, lane := 9, scale := 0x38 } ∧
    (match ((streaming accepting []).asBellows 0).writeScaled (accepting.cap ((streaming accepting []).ctx 0)) 0 accepting.sb (accepting.bitAddr 0) 1 9 0x38 with
      | (.ok (), s1) => (s1.ctx 0).stream 0 == accepting
      | _ => false) = true := by decide +kernel
def windowing : State := { ct [(6, 0x33000)] with mem := words [(0x33000, 0x30000), (0x33008, 0xFFFFFFFFFF)] }
theorem test_witness_WindowControl : windowing.runningThread 0 = none ∧ (windowing.ctx 0).queue = [] ∧
    (match readWords (windowing.rx 6#5) 8 windowing with
      | (.ok d, s1) => (match readLevels d s1 with
        | (.ok levels, s2) => (windowing.rx 6#5).toNat % 64 == 0 && windowOk (s2.ctx 0) 15 d levels && !windowOk (s2.ctx 0) 15 (d.set 1 0) levels
        | _ => false)
      | _ => false) = true ∧ ((windowing.ctx 0).win 15).bound = false ∧ ((ctOf { ctx0 with wins := ctx0.wins.set 3 win3 }).ctx 0).win 3 = win3 ∧
    streamInWindow { ctx0 with wins := ctx0.wins.set 3 win3 } 3 = false := by decide +kernel
def billet0 (full : Bool) : State := { ct [(6, 0x34000)] with
  billets := [(0, { full := full })], mem := words [(0x34000, 0x40000), (0x34008, 128)] }
theorem test_witness_BilletResults : ((billet0 false).ctx 0).ownsMs = true ∧ ((billet0 false).billet 0).full = false ∧ ((billet0 true).billet 0).full = true ∧
    ((billet0 true).billet 0).tag = 0 ∧ ((ctOf { ctx0 with unit := some { unit0 with ownsMs := false } }).ctx 0).ownsMs = false ∧
    vecPlain (billet0 false) [6] ∧ (∀ i, i < 16384 → sparseGet false (billet0 true).bpois (0 * 16384 + i) = false) :=
  ⟨rfl, rfl, rfl, rfl, rfl, plain_vec _ _ trivial rfl rfl rfl rfl, fun _ _ => rfl⟩
theorem spanAll_replicate (acc : Access) (n : Nat) (va : Word) (s : State) (h1 : (okOf (s.span va n acc).1).isSome = true)
    (h2 : (s.span va n acc).2 = s) : ∃ p, ∀ k, spanAll acc n (List.replicate k va) s = (.ok (List.replicate k p), s) := by
  obtain ⟨p, hp⟩ := Option.isSome_iff_exists.mp h1
  have hs : s.span va n acc = (.ok p, s) := (pair_ok hp).trans (by rw [h2])
  refine ⟨p, fun k => ?_⟩
  induction k with
  | zero => rfl
  | succ k ih => simp [spanAll, List.replicate_succ, hs, after, ih]
/-- Every row at 0x40000; the slices hold the entries. -/
def rowsAt (full : Bool) : State :=
  let s : State := { billet0 full with mem := words [(0x34000, 0x40000)] }
  { s with tlb := (s.translate 0x40000 .load).2.tlb }
theorem test_witness_BilletResults_words (full : Bool) : readWords ((rowsAt full).rx 6#5) 4 (rowsAt full) = (.ok [0x40000, 0, 0, 0], rowsAt full) := by
  have h : okOf (readWords ((rowsAt full).rx 6#5) 4 (rowsAt full)).1 = some [0x40000, 0, 0, 0] ∧
      (readWords ((rowsAt full).rx 6#5) 4 (rowsAt full)).2 = rowsAt full := by revert full; decide +kernel
  exact (pair_ok h.1).trans (by rw [h.2])
theorem test_witness_BilletResults_memory (full : Bool) (acc : Access) (ha : acc = .load ∨ acc = .store) :
    billetDescOk 0 [0x40000, 0, 0, 0] ∧ ((billetDesc [0x40000, 0, 0, 0]).scales.map (·.2)) = [] ∧
      ∃ p, spanAll acc 128 (billetDesc [0x40000, 0, 0, 0]).rows (rowsAt full) = (.ok (List.replicate 128 p), rowsAt full) ∧
        spanAll acc 1 [] (rowsAt full) = (.ok [], rowsAt full) ∧ canonical 0#8 (rowsAt full).brow = true := by
  have hr : (billetDesc [0x40000, 0, 0, 0]).rows = List.replicate 128 0x40000 := by decide +kernel
  obtain ⟨p, hp⟩ := spanAll_replicate acc 128 0x40000 (rowsAt full) (by rcases ha with rfl | rfl <;> (revert full; decide +kernel))
    (by rcases ha with rfl | rfl <;> (revert full; decide +kernel))
  exact ⟨⟨rfl, by decide, fun _ => ⟨rfl, rfl⟩⟩, rfl, p, by rw [hr]; exact hp 128, rfl, rfl⟩
theorem test_witness_PlateResults : ((ms [(6, 0x3FFF0001)]).rx 6#5).extractLsb' 16 14 = 16383#14 ∧ ((ms [(6, 0x3FFF0001)]).rx 6#5).extractLsb' 0 16 = 1#16 ∧
    canonical 0#8 (ms []).plate = true ∧ canonical false (ms []).platePois = true := by decide +kernel
/-- One K row of f32 elements to Plate row 0. -/
def loading : State := { ms [(6, 0x35000)] with mem := words [(0x35000, 0x40000), (0x35010, 0x100000000)] }
theorem test_witness_PlateResults_load : (match readWords (loading.rx 6#5) 8 loading with
    | (.ok w, s1) => (match ploadDesc w s1.planeCap with
      | some d => (match spanAll .load d.rowBytes d.sources s1 with
        | (.ok rows, _) => rows.length == 1 && d.rows == 4 && d.nscale == 0
        | _ => false)
      | none => false)
    | _ => false) = true := by decide +kernel
def multiplying : State :=
  { ms [(7, 0x00010000)] with billets := [(0, { full := true })], segs := [(0, { valid := true })] }
def oMma : T48 := { none48 with b := 7 }
theorem test_witness_AnvilResults : grantedHandle multiplying oMma.d = some 0 ∧ grantedHandle multiplying 23#5 = none ∧ (multiplying.billet 0).full = true ∧
    (multiplying.core 0).busy < (multiplying.core 0).limit ∧ canonical 0#32 multiplying.cruc = true := by decide +kernel
theorem test_witness_AnvilResults_checks : okOf (mmaCheck false 0 0 (multiplying.rx oMma.b) multiplying) = some
      { core := 0, b := 0, handle := 0, tagA := 0, axisA := false, seg := { valid := true }, row := 0, k := 1, k0 := 0, sparse := false } ∧
    (match mmaCheck false 0 0 0 multiplying with
      | .error cause => cause == 35
      | .ok _ => false) = true := ⟨rfl, by decide +kernel⟩
theorem test_witness_AnvilResults_clean : ∀ (m : Mma) (r n : Nat), multiplying.bPois { m with sparse := false, seg := { valid := true }, core := 0 } n = false ∧ (multiplying.crucElem 0 r n).2 = false ∧
    ∀ p, multiplying.aPois { m with b := 0 } r p = false := by
  intro m r n
  refine ⟨?_, rfl, fun p => ?_⟩ <;> simp [State.bPois, State.aPois, State.rowByte, State.plateByte, multiplying, ms, base, State.reset, sparseGet, scaledFmt]
def draining : State :=
  { ms [(6, 0x36000)] with mem := words [(0x36000, 0x40000), (0x36030, 0x13F800000)] }
theorem test_witness_CrucibleResults : grantedHandle draining 5#5 = some 5 ∧ (draining.rx 6#5).toNat % 64 = 0 ∧
    (match readWords (draining.rx 6#5) 8 draining with
      | (.ok w, _) => drainOk w
      | _ => false) = true ∧ canonical false draining.crucPois = true := by decide +kernel
theorem test_witness_CrucibleResults_ct : grantedHandle (ct []) 0#5 = some 0 ∧ (ct []).view.vl ≤ 32768 ∧ (∀ e ∈ (ct []).actives (ct []).view 0,
    ((ct []).elem (ct []).view 6 e).2 = false ∧ tainted (ct []) 0 e = false) ∧ ((ct []).handle 0).drains = [] ∧ ((ct []).handle 0).fault = none ∧
    (({ ct [] with handles := [(0, { job := some 1, fault := some (26, 5) })] } : State).handle 0).fault = some (26, 5) := by decide +kernel


/-! Fences, unit points, the end of a unit, and regions. -/

theorem test_witness_FencesComplete_flags : (ct []).who = .ct 0 ∧ ((ct []).ctx 0).queue = [] ∧ (queued.ctx 0).queue ≠ [] ∧
    ((ct []).rx 6#5).toNat ≤ (((ct []).ctx 0).flags.toArray.getD 15 0).toNat ∧
    (((ct [(6, 1)]).ctx 0).flags.toArray.getD 15 0).toNat < ((ct [(6, 1)]).rx 6#5).toNat := by decide +kernel
/-- The unit of hart 0 belongs to packet 3 of queue 2, whose launch has two units. -/
def launchWords : List Word := (List.replicate 16 0).set 1 0x100040000020000
def launched (early preempt : Bool) : State :=
  { ctOf { ctx0 with preempt := preempt } with
    hearth := { base.hearth with slots := [(qKey 1 2, { slot0 with
      read := 4, taken := [{ index := 3, words := launchWords, early := early, placed := 1 }] })] } }
theorem test_witness_UnitEnds_points : (ct []).launchOf 0 = none ∧ (launched true false).launchOf 0 = some (qKey 1 2, { index := 3, words := launchWords, early := true, placed := 1 }) ∧
    ((launched true false).ctx 0).pwaited = false ∧ ((ct []).ctx 0).preempt = false ∧ ((launched false true).ctx 0).preempt = true ∧
    (launched false true).spliceMate 0 = none ∧ ((launched false true).ctx 0).loop.mode = .off ∧ ((launched false true).ctx 0).ckpt = false ∧
    ({ ind [] with ctxs := [(0, { (ind []).ctx 0 with preempt := true })] } : State).spliceMate 0 = none ∧
    ((ct []).setCtx 0 { (ct []).ctx 0 with ubarAt := true }).allArrived 0 = true ∧
    ((launched false false).setCtx 0 { (launched false false).ctx 0 with ubarAt := true }).allArrived 0 = false ∧ pktUnits launchWords = 2 := by decide +kernel
theorem test_witness_UnitEnds_performed : performedFor (launched false false) 0 3 ∧ ¬ performedFor queued 0 3 := by
  unfold performedFor; decide
/-- The same with the MS idle; a faulted micro-thread; an engine failure. -/
def ending (c : Ctx) : State := { launched false false with ctxs := [(0, c)], mss := [] }
theorem test_witness_UnitEnds_kend : (ct []).unitBusy 0 = true ∧ (ending ctx0).runningThread 0 = none ∧ (ending ctx0).unitBusy 0 = false ∧
    ({ ending ctx0 with mts := [((ct []).mtKey 0 2, { state := .faulted, fault := some (24, 7, 0x40) })] } : State).faultedThread 0 = some 2 ∧
    ({ ending ctx0 with mts := [((ct []).mtKey 0 2, { state := .faulted, fault := some (24, 7, 0x40) })] } : State).unitBusy 0 = false ∧
    ((ending { ctx0 with engFail := some (13, 0x40) }).ctx 0).engFail = some (13, 0x40) ∧ (ending { ctx0 with engFail := some (13, 0x40) }).faultedThread 0 = none ∧
    (∀ n, n < 16 → ((ending ctx0).ctx 0).stream n = {}) ∧ (∀ k ∈ (ending ctx0).grantKeys 0, ((ending ctx0).handle k).fault = none) ∧
    (ending ctx0).endTrap 0 = none ∧ (ending ctx0).storesWait 0 = false ∧ (ending ctx0).spliceMate 0 = none ∧
    ((ending ctx0).launch? (qKey unit0.job unit0.queue) unit0.index).isSome = true ∧ (ms []).who = .ms 0 ∧ (ind []).who = .ind 0 1 := by decide +kernel
/-- Window 3 is a one-level dense GRID over two entries of one float each, window 4 a pool of four blocks of 4 KiB. -/
def gridWin : Win := { bound := true, desc := [0x30000, 0x2000000001000, 0, 0], levels := [(0x2A00000002, 0)] }
def poolWin (btab : Word) : Win := { bound := true, desc := [0x40000, 0x3000000004000, 12, btab, 4, 0x39000, 0x3A000] }
def regions (btab : Word) (l : List (Nat × Word)) : State :=
  { ctOf { withRegs ctx0 l with wins := (ctx0.wins.set 3 gridWin).set 4 (poolWin btab) } with
    mem := words [(0x30000, 0x400000003F800000), (0x38000, 0xFFFFFF00000000), (0x39000, 1)] }
def gridLevel : GridLevel := { addr := 0x30000, n := 2, log := 10, dense := true, dim := 1, feat := 1, bf := false }
def inGrid : State := regions 0x38000 [(6, 0xFFFFF30000000000)]
theorem test_witness_RegionReads_grid : vecPlain inGrid [5, 7] :=
  plain_vec _ _ trivial rfl rfl rfl rfl
theorem test_witness_RegionReads_level : inGrid.view.sb = 4 ∧
    (match gridOf (inGrid.ctx 0) (inGrid.rx 6#5) 5 7 inGrid.view.lmul with
      | some g => g.addr == gridLevel.addr && g.n == 2 && g.dense && g.dim == 1 && g.feat == 1 && !g.bf
      | none => false) = true ∧
    (match gatherRow gridLevel (coordsAt inGrid oLd gridLevel) (inGrid.actives inGrid.view 0) inGrid with
      | some (row, _) => row == (List.range 8).map fun e => (e, [(0x3F800000#32, false)])
      | none => false) = true ∧ (ct []).plat.ckRegs = [] ∧ (gridOf ((ct []).ctx 0) ((ct []).rx 6#5) 5 7 (ct []).view.lmul).isNone = true := by decide +kernel
theorem test_witness_RegionReads_scatter : (match cornersRow gridLevel (coordsAt inGrid oLd gridLevel) (inGrid.actives inGrid.view 0) inGrid with
      | some (rows, s1) => rows.length == 8 && s1.plat.ckRegs == [] && rows.all fun p => p.2.length == 1 && p.2.all fun t => t.2.all fun q =>
          s1.classEmpty q.2.2.pa && !q.2.2.pois && !s1.memPoisoned q.2.2.pa q.2.1
      | none => false) = true ∧ (∀ e ∈ inGrid.actives inGrid.view 0, tainted inGrid 0 e = false ∧
      ∀ f, f < gridLevel.feat → (inGrid.elem inGrid.view (5 + f * inGrid.view.lmul) e).2 = false) := by decide +kernel
def pool (btab : Word) : Kv := { base := 0x40000, size := 0x4000, log := 12, btab := btab, btn := 4, rcnt := 0x39000, free := 0x3A000 }
def inPool (l : List (Nat × Word)) : State := regions 0x38000 ([(6, 0xFFFFF40000000000)] ++ l)
def kvElems : List KvElem := (List.range 8).map fun e => { e := e, entry := 0, off := 0, data := 0 }
theorem test_witness_RegionReads_pool : kvOf ((inPool []).ctx 0) ((inPool []).rx 6#5) = some (pool 0x38000, 0) ∧ poolSound (inPool []) oLd (pool 0x38000) 0 ∧
    (match poolRow 4 (pool 0x38000) (((inPool []).actives (inPool []).view 0).map fun e => (e, poolByte (inPool []) oLd 0 e)) (inPool []) with
      | some (vals, _) => vals == (List.range 8).map fun e => (e, 0#32, false)
      | none => false) = true ∧
    (((inPool []).actives (inPool []).view 0).map fun e => KvElem.mk e (poolByte (inPool []) oLd 0 e / 2 ^ (pool 0x38000).log)
      (poolByte (inPool []) oLd 0 e % 2 ^ (pool 0x38000).log) ((inPool []).elem (inPool []).view 5 e).1).map (fun k => (k.e, k.entry, k.off, k.data)) =
        kvElems.map (fun k => (k.e, k.entry, k.off, k.data)) ∧
    (∀ e ∈ (inPool []).actives (inPool []).view 0, ((inPool []).elem (inPool []).view 5 e).2 = false ∧ tainted (inPool []) 0 e = false) ∧
    kvLocked (pool 0x38000) 0 (inPool []) = false ∧ (entriesRow 4 (pool 0x38000) kvElems [0] (inPool [])).isSome = true := by
  refine ⟨rfl, ?_⟩
  unfold poolSound
  decide +kernel
theorem test_witness_RegionReads_entries : ((kvElems.map (·.entry)).eraseDups).mergeSort (· ≤ ·) = [0] := by
  have h : (kvElems.map (·.entry)).eraseDups = [0] := by decide +kernel
  rw [h]
  simp
theorem test_witness_RegionReads_empty : kvOf ((regions 0x38000 [(6, 0xFFFFF40000001000)]).ctx 0) ((regions 0x38000 [(6, 0xFFFFF40000001000)]).rx 6#5) = some (pool 0x38000, 0x1000) ∧
    (match (kvTarget (pool 0x38000) 1 (regions 0x38000 [(6, 0xFFFFF40000001000)])).1 with
      | .error (cause, a) => cause == 32 && a == (pool 0x38000).entry 1
      | .ok _ => false) = true ∧ kvLocked (pool 0x38000) 1 (regions 0x38000 [(6, 0xFFFFF40000001000)]) = false :=
  ⟨rfl, by decide +kernel, by decide +kernel⟩
theorem test_witness_RegionReads_fork_free : (∀ j, j < 1 → kvLocked (pool 0x38000) (0 + j) (inPool [(5, 1), (7, 0x200000000)]) = false) ∧
    vtyVill ((inPool [(5, 1), (7, 0x200000000)]).ctx 0).vty = false := by decide +kernel
theorem test_witness_RegionReads_fork : ((inPool [(5, 1), (7, 0x200000000)]).rx 5#5).toNat = 1 ∧
    (((inPool [(5, 1), (7, 0x200000000)]).rx 7#5).extractLsb' 32 32).toNat = 2 ∧ (inPool [(5, 1), (7, 0x200000000)]).queue = [] ∧
    (okOf (forkAll (pool 0x38000) 0 2 (List.range 1) (inPool [(5, 1), (7, 0x200000000)])).1).isSome = true ∧
    (match (forkAll (pool 0x20000000) 0 2 (List.range 1) (regions 0x20000000 [(5, 1), (6, 0xFFFFF40000000000), (7, 0x200000000)])).1 with
      | .error (cause, _) => decide (cause < 64)
      | .ok _ => false) = true := by decide +kernel


/-! Engines, queues, banks and queue programs. -/

def cmd0 (done : Bool) (e : Option Event) : Cmd := { id := 7, fill := none, src := 0x30000, dst := 0x31000, len := 8, event := e, done := done }
def engine (done : Bool) (e : Option Event) : State := ctOf { ctx0 with cmds := [cmd0 done e], cmdSeq := 8 }
theorem test_witness_Engines_commands : (ct [(7, 8)]).rx 7#5 = 8 ∧ ((ct []).rx 7#5).toNat % 2 ^ 32 = 0 ∧ ((ct []).rx 7#5).getLsbD 63 = false ∧
    ((ct []).ctx 0).cmds = [] ∧ ((engine false none).ctx 0).cmds ≠ [] ∧ ((ct []).ctx 0).engFail = none ∧
    64 ≤ (((ctOf { ctx0 with cmds := List.replicate 64 (cmd0 false none) }).ctx 0).cmds.filter (·.len ≠ 0)).length ∧
    ((ct [(7, 0x8000000000000000)]).rx 7#5).toNat % 2 ^ 32 = 0 ∧ ((ct [(7, 0x8000000000000000)]).rx 7#5).getLsbD 63 = true ∧
    16 ≤ ((ctOf { ctx0 with events := List.replicate 16 { event := 1, tag := 0 } }).ctx 0).events.length ∧
    ((ctOf { ctx0 with engFail := some (13, 0x40) }).ctx 0).engFail = some (13, 0x40) := by decide +kernel
/-- The words of a group in register 6. -/
def batched (l : List (BitVec 32)) : State := (ct []).putElems (ct []).view 6 ((List.range 8).zip (l.map fun x => (x, false)))
theorem test_witness_Engines_batch : ∀ l ∈ [[0x281#32, 0x30000, 0, 0x31000, 0, 8, 0, 0], [0x282, 0, 0, 0x31000, 0, 8, 0x11223344, 0], [0x12, 0, 0, 0, 0, 8, 0, 0]],
    (((batched l).order 0).Nodup ∧ ((batched l).actives (batched l).view 0).filter (· % 8 = 0) = [0] ∧ tainted (batched l) 0 0 = false ∧
      (batched l).view.sb = 4 ∧ ∀ k, k < 8 → (batched l).elem (batched l).view 6 k = (l.getD k 0, false)) := by decide +kernel
theorem test_witness_Engines_batch_room : (((batched [0x281#32, 0x30000, 0, 0x31000, 0, 8, 0, 0]).ctx 0).cmds.filter (·.len ≠ 0)).length < 64 := by decide +kernel
theorem test_witness_Engines_batch_plain : vecPlain (batched [0x281#32, 0x30000, 0, 0x31000, 0, 8, 0, 0]) [6] :=
  plain_vec _ _ trivial rfl rfl rfl rfl
theorem test_witness_Engines_progress : ((engine false none).ctx 0).cmds.find? (·.id = 7) = some (cmd0 false none) ∧
    (match resolveCmd (cmd0 false none) ((engine false none).asBellows 0) with
      | (srcs, dsts, none, _) => srcs.length == dsts.length && decide (0 < dsts.length)
      | _ => false) = true ∧
    ((engine true none).ctx 0).cmds.find? (·.id = 7) = some (cmd0 true none) ∧
    ((engine true (some { event := 1, tag := 5 })).ctx 0).cmds.find? (·.id = 7) = some (cmd0 true (some { event := 1, tag := 5 })) ∧
    ((engine true (some { event := 1, tag := 5 })).ctx 0).held = [] ∧
    ((ctOf { ctx0 with watches := [{ ids := [6], tag := 9 }] }).ctx 0).watches = [{ ids := [6], tag := 9 }] := by decide +kernel

/-- Job 1 runs and its queue 2 is mapped, with a ring of eight slots at 0x60000; its record's TAIL and READ words. -/
def qJob : Job := { state := 1, root := 0x10000, qtab := 0x40000, nq := 4, cmir := 0x50000 }
def queueOf (l : List (Nat × Word)) (tail : Word) : State :=
  { ct l with
    hearth := { base.hearth with jobs := [(1, qJob)] }
    plat := { base.plat with mode := 1 }
    mem := words [(0x40200, tail), (0x40230, 0x60000), (0x40238, 0x70000), (0x40248, 0x30301)] }
def answers {α : Type} (p : Option α × State) (f : α → Bool) : Bool :=
  match p.1 with
  | some x => f x
  | none => false
theorem test_witness_QueuesAndBanks_queue : keyOf (queueOf [(7, 2)] 0) 0 ((queueOf [(7, 2)] 0).rx 7#5) = qKey 1 2 ∧
    answers ((queueOf [(7, 2)] 0).queueOn (qKey 1 2)) (· == 0x30301) = true ∧ w48Cap 0x30301 = 8 ∧
    ((queueOf [(7, 5)] 0).queueOn (qKey 1 5)).1 = none ∧ ((queueOf [(6, 1), (7, 2)] 0).rx 6#5).toNat % 128 ≠ 0 ∧
    (okOf (readWords ((queueOf [(6, 0x30000), (7, 2)] 0).rx 6#5) 16 (queueOf [(6, 0x30000), (7, 2)] 0)).1).isSome = true ∧
    answers ((queueOf [(6, 0x30000), (7, 2)] 3).hubWords 1 0x40200 7) (fun l => decide ((l.getD 0 0 - l.getD 1 0).toNat < 8)) = true ∧
    answers ((queueOf [(6, 0x30000), (7, 2)] 8).hubWords 1 0x40200 7) (fun l => decide (8 ≤ (l.getD 0 0 - l.getD 1 0).toNat)) = true ∧
    answers ((queueOf [(6, 0), (7, 2)] 8).hubWord 1 0x40208) (fun r => decide (((queueOf [(6, 0), (7, 2)] 8).rx 6#5).toNat < r.toNat + 8)) = true ∧
    answers ((queueOf [(6, 8), (7, 2)] 8).hubWord 1 0x40208) (fun r => decide (r.toNat + 8 ≤ ((queueOf [(6, 8), (7, 2)] 8).rx 6#5).toNat)) = true := by decide +kernel
theorem test_witness_QueuesAndBanks_banks : ((ct [(7, 3)]).rx 7#5).toNat % 4 = 3 ∧ (ct [(7, 2)]).order 0 = [0, 1] ∧ ((ct [(6, 0x8000), (7, 2)]).rx 6#5).getLsbD 15 = true ∧
    banksOf (ct [(7, 2)]) 0 1 15 ∧ (ct [(7, 2)]).bankHeld (16 * 1 + 15) = false ∧ canonical 0 (ct [(7, 2)]).bankMode = true ∧ (ct []).spliceMate 0 = none ∧
    ({ ct [] with clus := [] } : State).order 0 = [] ∧
    (launched false false).slot? (qKey 1 2) = some { slot0 with read := 4, taken := [{ index := 3, words := launchWords, placed := 1 }] } ∧
    (∀ l ∈ ({ slot0 with read := 4, taken := [{ index := 3, words := launchWords, placed := 1 }] } : QSlot).launch? 3, l.status = none) :=
  ⟨rfl, by decide +kernel, by decide +kernel, ⟨by decide +kernel, by decide⟩, by decide +kernel, by decide +kernel, rfl, by decide +kernel, by decide +kernel, by decide +kernel⟩
theorem test_witness_QueuePrograms_moves : crillMoves runState 1 2 run0 := ⟨rfl, rfl, by decide⟩
theorem test_witness_QueuePrograms : run0.q.length = 16 ∧ run0.rep = none ∧ run0.consumer = false ∧ runState.slot? (qKey 1 2) = some slot0 ∧
    (crillValue run0 (.crillLdp 1 0xF8)).isSome = true ∧ (crillEffect (run0.setQ 3 1023) (.crillSigc 3 1)).isSome = true ∧
    ((run0.setQ 3 1023).q' 3).toNat < 1024 ∧ 1024 ≤ ((run0.setQ 3 1024).q' 3).toNat ∧ run0.q' 3 = 0 ∧
    ({ runState with hearth := { runState.hearth with runs := [(qKey 1 2, { run0 with used := 512 })] } } : State).run? (qKey 1 2) = some { run0 with used := 512 } ∧
    isCrill .crillEnd = true ∧ (slot0.tables.getD 0 (0, 0)).2.toNat = 4 ∧ (slot0.tables.getD 3 (0, 0)).2.toNat = 0 ∧
    answers (runState.hubWord 1 (0x220000 + 8 * run0.q' 1)) (· == 0) = true := by decide +kernel
/-- The counter 5 of job 1 reads 2, or has FAILED. -/
def counting (w : Word) : State := { runState with hearth := { runState.hearth with jobs := [(1, { qJob with counters := [(5, w)] })] } }
theorem test_witness_QueuePrograms_waits : (counting 2).counter 1 5 = 2 ∧ ((run0.setQ 4 2).q' 4).toNat ≤ ((counting 2).counter 1 5).toNat ∧
    ((counting 2).counter 1 5).toNat < ((run0.setQ 4 3).q' 4).toNat ∧ ((counting 0x8000000000000002).counter 1 5).getLsbD 63 = true ∧
    ({ slot0 with waits := some (5, 1) } : QSlot).waits = some (5, 1) ∧ (counting 2).counter 1 5 ≠ 1 ∧ (counting 2).hearth.runs.length < 8 := by decide +kernel
/-- A `rep` of one word, repeated twice, at its first and at its last pass. -/
theorem test_witness_QueuePrograms_rep : ({ run0 with pc := 2, rep := some (1, 1, 2, 0, 3) } : Run).rep = some (1, 1, 2, 0, 3) ∧ 0 + 1 < 2 ∧ (2 ≤ 1 + 1) ∧ 1 < 1 + 1 := by decide


/-! The Hearth and the platform. -/

/-- Queue 2 of job 1 with what its record says at a grant, its ring's slot 3 holding packet 3. -/
def packet (units : Nat) : List Word := [4, 0x100040000000000 + BitVec.ofNat 64 (65536 * units), 0, 0x80000, 0, 0, 0x90000, 0x140000000000000, 0, 0, 0, 0, 0, 0, 0, 0]
def hSlot (taken : List Launch) : QSlot :=
  { ring := 0x60000, cring := 0x70000, w48 := 0x30301, tables := [], scratch := [], read := 3, tail := 4, acc := 4, cdone := 2
    prog := some [], enable := true, weldoff := false, journal := [(3, packet 0)], taken := taken }
def hearthOf (q : QSlot) (m : List (Nat × Word)) : State :=
  { base with
    who := .ct 0
    ctxs := []
    mss := []
    clus := []
    hearth := { base.hearth with jobs := [(1, qJob)], slots := [(qKey 1 2, q)] }
    plat := { base.plat with mode := 1 }
    mem := words ([(0x40230, 0x60000), (0x40238, 0x70000), (0x40248, 0x30301)] ++ m) }
def ring3 : List (Nat × Word) := ((List.range 16).zip (packet 0)).map fun p => (0x60180 + 8 * p.1, p.2)
/-- A code object of one kernel whose CT code starts at 0x80100. -/
def code : List (Nat × Word) := [(0x80000, 0x0001000130345842), (0x80050, 0x40), (0x80080, 0x100)]
theorem test_witness_PacketsAccepted_queues : ((hearthOf (hSlot []) []).job 1).nq = 4 ∧ ((5 : Word) <<< 48).extractLsb' 48 16 = 5#16 ∧
    (hearthOf (hSlot []) []).slot? (qKey 1 3) = none ∧ (hearthOf (hSlot []) []).slot? (qKey 1 2) = some (hSlot []) ∧
    ({ hSlot [] with acc := 3 } : QSlot).tail = 3 + 1 ∧
    answers ((hearthOf { hSlot [] with acc := 3 } ring3).published (qKey 1 2) 3) (· == packet 0) = true ∧
    ((hearthOf { hSlot [] with acc := 3 } ring3).published (qKey 1 2) 3).2.slot? (qKey 1 2) = some { hSlot [] with acc := 3 } ∧
    ((hearthOf { hSlot [] with acc := 3 } []).published (qKey 1 2) 3).1 = none := by decide +kernel
theorem test_witness_PacketsAccepted_grant : answers ((hearthOf (hSlot []) []).queueOn (qKey 1 2)) (· == 0x30301) = true ∧
    answers ((hearthOf (hSlot []) []).hubWords 1 0x40200 26) (fun l => l.getD 6 0 == 0x60000) = true ∧
    ((hearthOf (hSlot []) []).loadProgram (qKey 1 2) 0 []).1 = some [] ∧ (hearthOf (hSlot []) []).plat.mode = 1 ∧
    (hearthOf (hSlot []) []).hearth.slots.length < 64 ∧
    (match ({ (hearthOf (hSlot []) []).hearth with waiting := [qKey 1 2] } : Hearth).waiting with
      | k :: rest => k == qKey 1 2 && rest.isEmpty
      | [] => false) = true := by decide +kernel
def readyOf (ending : Option Nat) : Ready := { headPlain (hSlot []) ending with decided := true }
def readySlot (ending : Option Nat) : QSlot := { hSlot [] with ready := some (readyOf ending) }
theorem test_witness_PacketsAccepted_head : ∀ q ∈ [hSlot [], { hSlot [] with prog := none }, { hSlot [] with prog := some [0x27000000] }, readySlot (some 7)],
    (hearthOf q []).slot? (qKey 1 2) = some q ∧ (hearthOf q []).refreshHead (qKey 1 2) = hearthOf q [] ∧ (hearthOf q []).atHead (qKey 1 2) q = true ∧
      (hearthOf q []).traceHolds 3 1 32 = false := by decide +kernel
theorem test_witness_PacketsAccepted_ends : (match (hearthOf (readySlot (some 7)) []).judge (qKey 1 2) (readySlot (some 7)) (readyOf (some 7)) with
      | (.ends st, s1) => st == 7 && s1.slot? (qKey 1 2) == some (readySlot (some 7))
      | _ => false) = true ∧ (hearthOf (readySlot (some 7)) []).chosenQueue = some (qKey 1 2) := by decide +kernel
theorem test_witness_PacketsAccepted_goes : (match (hearthOf (readySlot none) code).judge (qKey 1 2) (readySlot none) (readyOf none) with
      | (.goes _ early, s1) => !early && s1.slot? (qKey 1 2) == some (readySlot none)
      | _ => false) = true ∧ (hearthOf (readySlot none) code).chosenQueue = some (qKey 1 2) ∧ pktType (readyOf none).words = 1 ∧
    pktUnits (readyOf none).words = 0 := by decide +kernel
/-- The launch of packet 2 is taken and has no unit yet; the core offers room. -/
def launch2 (status : Option Nat) : Launch := { index := 2, words := packet 1, kern := { ct := 0x80100 }, status := status }
theorem test_witness_PacketsAccepted_place : (hearthOf (hSlot [launch2 none]) []).moveHomes 1 = hearthOf (hSlot [launch2 none]) [] ∧
    (hSlot [launch2 none]).taken.find? (fun l => l.unplaced && !l.consumer) = some (launch2 none) ∧
    ((hearthOf (hSlot [launch2 none]) []).placeUnits (qKey 1 2) 2).isSome = true := by decide +kernel
/-- Unit 0 of that launch waits to resume. -/
def saved0 : Saved := { id := 5, job := 1, queue := 2, index := 2, num := 0, left := 0, counts := [1], ms := false, journal := false, mate := none, isMate := false, banks := [], splice := none }
def waiting : State :=
  let s : State := hearthOf (hSlot [{ launch2 none with placed := 1 }]) []
  { s with
    ctxs := [(virtHart 5, { ctx0 with unit := some { unit0 with index := 2, ownsMs := false, grants := [] } })]
    hearth := { s.hearth with saved := [saved0] } }
theorem test_witness_PacketsAccepted_resume : waiting.savedById 5 = some saved0 ∧ waiting.savedById 6 = none ∧ waiting.moveHomes 1 = waiting ∧
    (match (waiting.resumeCores saved0).find? fun g => (waiting.canResume saved0 g).isSome with
      | some g => (waiting.canResume saved0 g).isSome
      | none => false) = true := by decide +kernel
theorem test_witness_PacketsAccepted_start : (launch2 none).kern.wins = [] ∧ ({ unit0 with ownsMs := false, grants := [] } : UnitRef).grants = [] := ⟨rfl, rfl⟩
theorem test_witness_JobsAndCompletions : (hSlot [launch2 (some 0)]).launch? (hSlot [launch2 (some 0)]).cdone = some (launch2 (some 0)) ∧
    (hearthOf (hSlot [launch2 (some 0)]) []).mayDeliver (qKey 1 2) (hSlot [launch2 (some 0)]) 2 = true ∧
    (hearthOf (hSlot [launch2 none]) []).mayDeliver (qKey 1 2) (hSlot [launch2 none]) 2 = false ∧
    ((hearthOf (hSlot [launch2 (some 0)]) []).job 1).state = 1 ∧ canonical 0 ((hearthOf (hSlot [launch2 (some 0)]) []).job 1).counters = true ∧
    pktSig (launch2 (some 0)).words = 5 ∧ pktLast (launch2 (some 0)).words = false ∧ (hSlot []).launch? 2 = none := by decide +kernel
def barrier : Launch := { index := 3, words := (packet 0).set 1 0x200000000000000 }
theorem test_witness_JobsAndCompletions_barrier : (hSlot [launch2 (some 0), barrier]).taken.find? (fun l => pktType l.words = 2 && l.status.isNone) = some barrier ∧
    (∀ y ∈ (hSlot [launch2 (some 0), barrier]).taken, barrier.index ≤ y.index ∨ y.status.isSome = true) ∧
    (∃ y ∈ (hSlot [launch2 none, barrier]).taken, y.index < barrier.index ∧ y.status = none) := by decide +kernel
def jobIs (state : Nat) : State :=
  let s : State := hearthOf (hSlot []) []
  { s with hearth := { s.hearth with jobs := [(1, { qJob with state := state })] } }
theorem test_witness_JobsAndCompletions_jobs : ((jobIs 3).job 1).state = 3 ∧ ((jobIs 0).job 1).root % 1024 = 0 ∧ ((jobIs 0).job 1).qtab.toNat % 256 = 0 ∧
    ((jobIs 0).job 1).cmir.toNat % 8192 = 0 ∧ ((jobIs 1).job 1).state = 1 ∧ (∀ p ∈ (jobIs 1).ctxs, ∀ u, p.2.unit = some u → u.job ≠ 1) ∧
    (∀ r ∈ (jobIs 1).hearth.saved, r.job ≠ 1) ∧ (∀ p ∈ (jobIs 1).hearth.slots, p.1 / 65536 = 1 → p.2.taken = []) ∧
    (jobIs 1).plat.mode = 1 ∧ (hSlot []).read ≤ (3 : Word).toNat ∧ (2 : Word).toNat < (hSlot [launch2 none]).read ∧
    (hSlot [launch2 none]).launch? 2 = some (launch2 none) ∧ (launch2 none).status = none ∧
    (queueOf [] 0).ctxs = [(0, ctx0)] ∧ ctx0.unit = some unit0 ∧ ((queueOf [] 0).job unit0.job).state = 1 := by decide +kernel
def platform (f : Plat → Plat) : State := { ct [] with plat := f { base.plat with mode := 1 } }
theorem test_witness_Platform : (platform id).plat.scrubctl.getLsbD 0 = true ∧ (platform id).plat.ckRegs = [] ∧ ckCount (platform id).plat.scrubctl = 0 ∧
    (platform fun p => { p with scrubctl := 0 }).plat.scrubctl.getLsbD 0 = false ∧ (platform fun p => { p with elog := 5 }).plat.elog.toNat % 32 ≠ 0 ∧
    (platform id).plat.cfg.derate ≤ 3 ∧ canonical 0 (platform id).plat.steps = true ∧ (platform fun p => { p with drops := 3 }).plat.drops ≠ 0 ∧
    (platform id).plat.traceRoom 64 = true ∧ (platform id).plat.trctl.getLsbD 21 = true := by decide +kernel
/-- Trace on for samples of every job, one sample each 2^10 cycles. -/
def tracedBy : State := platform fun p => { p with trctl := 0x0000800002BF0001 }
theorem test_witness_Platform_trace : (tracedBy.plat.trctl.extractLsb' 22 5).toNat ≠ 0 ∧ tracedBy.plat.tracing 1 unit0.job = true ∧ tracedBy.plat.drops = 0 ∧
    (tracedBy.ctx 0).unit = some unit0 ∧ (tracedBy.order 0).length ≤ 16 ∧ (platform fun p => { p with trctl := 1 }).plat.trctl.getLsbD 0 = true ∧
    (platform id).plat.trctl.getLsbD 0 = false := by decide +kernel
theorem test_witness_Platform_fences : (platform id).spliceMate 0 = none ∧ (0, (platform id).ctx 0) ∈ (platform id).ctxs ∧ (platform id).coreFenced (coreOf 0) = false ∧
    ({ ctOf { ctx0 with preempt := true } with plat := (platform id).plat } : State).forcible 0 = true ∧
    ({ ctOf { ctx0 with preempt := true } with plat := (platform id).plat } : State).distance 0 = 0 ∧ ctx0.fetching = none ∧ ctx0.loop.strips = [] ∧
    (platform id).launchOf 0 = none ∧ (platform fun p => { p with debug := some (1, 0) }).debugHolds 0 = true ∧
    ({ ctOf { ctx0 with dbgStop := true } with plat := (platform fun p => { p with debug := some (1, 0) }).plat } : State).debugOpen 0 = true ∧
    (platform fun p => { p with bps := [(0, 0x100000), (1, 0x1000000000002)] }).bpHits 0 0 = [(16, 0x100000)] ∧
    (platform fun p => { p with bps := [(0, 0x100000), (1, 0x1000000000002)] }).traceHolds 2 1 64 = false ∧ (platform id).bpHits 0 0 = [] := by decide +kernel
def checkpointed : State :=
  let s : State := launched false false
  { s with hearth := { s.hearth with slots := [(qKey 1 2, { slot0 with
      read := 4, w48 := 0x100030301, taken := [{ index := 3, words := launchWords.set 2 0x1000000000000, placed := 1, kern := { ppd := 4 } }] })] } }
theorem test_witness_Platform_checkpoint : (match checkpointed.launchOf 0 with
      | some (k, l) => k == qKey 1 2 && l.ppd != 0
      | none => false) = true ∧ w48Ckpt 0x100030301 ≠ 0 ∧ (checkpointed.ctx 0).preempt = false ∧ checkpointed.spliceMate 0 = none := by decide +kernel


/-! The host, the mailbox, parts that fail, and what moves by itself. -/

theorem test_witness_Platform_times : (ct []).time.toNat < (ct []).time.toNat + 1000000000 ∧ (0 : Word).toNat ≤ (ct []).time.toNat := ⟨by omega, Nat.zero_le _⟩
theorem test_witness_HostRequests : (platform id).reaches 0x30000 8 = true ∧ (platform id).reaches 0x8000000000000000 8 = false ∧
    Memory.wf (platform id).mem ∧ (platform id).memPoisoned 0x30000 8 = false ∧ (platform id).plat.portsDown.contains 15 = false ∧
    17 ≤ sparseGet 0 (platform fun p => { p with replays := [(15, 17)] }).plat.replays 15 ∧ sparseGet 0 (platform id).plat.replays 15 < 17 := by decide +kernel
def extents (state : Nat) : State := platform fun p => { p with extents := [(7, { base := 0x100000000000, hpa := 0x400000, len := 0x200000, state := state })] }
theorem test_witness_ExtentsAndMigration : ((extents 1).extent 7).state = 1 ∧ ((extents 2).extent 7).state = 2 ∧ ((extents 3).extent 7).state = 3 ∧
    ((extents 1).extent 7).base.toNat % 0x200000 = 0 ∧ 0x100000000000 ≤ ((extents 1).extent 7).base.toNat ∧
    ((extents 1).extent 7).base.toNat + ((extents 1).extent 7).len.toNat ≤ 0x200000000000 ∧
    (∀ p ∈ (extents 1).plat.extents, p.1 ≠ 7 → p.2.state < 2 ∨ 4 < p.2.state) ∧ Memory.wf (extents 1).mem ∧
    canonical 0 (extents 1).plat.hostMem = true ∧ (match (extents 2).migHeader with
      | none => true
      | some _ => false) = true := by decide +kernel
/-- A migration ring of eight records at 0x50040, its header at 0x50000; record 0 moves the page at 0 of job 1 to 0x70000. -/
def migrating (kind : Nat) (src dst : Word) : State :=
  { (platform fun p => { p with migring := 0x50000, migJobs := [0] }) with
    mem := words [(0x50000, 1), (0x50010, 0x50040), (0x50018, 3), (0x50040, BitVec.ofNat 64 (kind * 2 ^ 56 + 0xFF000000000001)), (0x50048, src), (0x50050, dst), (0x50060, if kind = 2 then 1 else 0)]
    hearth := { base.hearth with jobs := [(1, qJob)] } }
def handed (s : State) (f : MigRing → MigRec → Bool) : Bool := match s.migHeader with
  | some r => s.plat.migJobs == [0] && f r (s.migRecord r 0)
  | none => false
theorem test_witness_ExtentsAndMigration_ring : handed (migrating 1 0x20000 0x70000) (fun r m => m.ok && m.kind == 1 && r.head == 0 && r.tail == 1) = true ∧
    handed (migrating 1 0x20001 0x70000) (fun _ m => !m.ok) = true ∧ handed (migrating 2 0x30000 0) (fun _ m => m.ok && m.kind == 2) = true ∧
    handed (migrating 1 0x20000 0x70000) (fun _ m => match (migrating 1 0x20000 0x70000).migratePage m 0 with
      | (some (st, _), _) => st == 3
      | _ => false) = true ∧ (migrating 1 0x20001 0x70000).mig? 0 = none := by decide +kernel
theorem test_witness_MailboxAndRegisters : (ct []).plat.mode = 0 ∧ (platform id).plat.mode ≠ 0 ∧ (platform fun p => { p with idLost := true }).plat.idLost = true ∧
    (platform id).plat.idLost = false ∧ canonical 0 (platform id).plat.mbdata = true ∧ (platform fun p => { p with bootSlot := 1 }).plat.bootSlot = 1 := by decide +kernel
theorem test_witness_ResetsAndFailures : Memory.wf (platform id).mem ∧ (match (platform id).migHeader with
      | none => true
      | some _ => false) = true ∧ 3 < min 16 (platform fun p => { p with cfg := { p.cfg with nvf := 4 } }).plat.cfg.nvf ∧
    min 16 (platform id).plat.cfg.nvf ≤ 16 ∧ (platform id).hearth.slots = [] ∧ (platform id).plat.deadStacks.contains 8 = false := by decide +kernel
def changing (h : Nat) (pend : Bool) : State :=
  { ct [] with
    ctxs := [(0, ctx0), (1, { ctx0 with unit := some { unit0 with ownsMs := false } })]
    clus := [(0, { owner := some 0, attached := some 0 }), (1, { owner := some 0, attached := some 0, pend := pend })]
    cores := [(0, { moves := [{ clus := [1], dest := h, heir := some (0, some 1) }] })] }
theorem test_witness_UnitsProgress : ((ct []).core 0).moves = [] ∧ ((changing 1 false).core 0).moves = [{ clus := [1], dest := 1, heir := some (0, some 1) }] ∧ (changing 7 false).ctx 7 = {} ∧
    ((changing 1 true).cluster 1).pend = true ∧ ((changing 1 false).cluster 1).pend = false ∧ ((changing 1 false).ctx 1).unit.isSome = true ∧
    ((changing 1 false).cluster 1).owner = some 0 ∧ (changing 1 false).sameGang 0 1 = true := by decide +kernel
theorem test_witness_UnitsProgress_strip : ((ind []).ctx 0).loop.mode = .ind ∧ ((ind []).ctx 0).loop.halt = false ∧ ((ind []).ctx 0).loop.rem = 8 ∧ ((ind []).ctx 0).inBody = true ∧
    ((ind []).ctx 0).unit.bind (·.splice) = none ∧ (ind []).boundary 0 = ind [] ∧ ((ind []).order 0)[0]? = some 0 ∧ ((ind []).cluster 0).owner = some 0 ∧
    (∀ u ∈ ((ind []).ctx 0).loop.strips, u.slot ≠ 0) ∧ (ind []).slotFree 0 0 = true := by decide +kernel
theorem test_witness_UnitsProgress_banks : ({ ct [] with bankReq := [(17, 2)] } : State).bankReq.find? (·.1 = 16 * 1 + 1) = some (17, 2) ∧
    ({ ct [] with bankReq := [(17, 2)] } : State).bankHeld (16 * 1 + 1) = false ∧ (ct []).bankReq.find? (·.1 = 17) = none ∧
    canonical 0 (ct []).bankMode = true := by decide +kernel
/-- A drain of one f32 element of handle 5 to 0x40000. -/
def issued : State := { ct [] with handles := [(5, { job := some 1, drains := [{ desc := [0x40000, 0, 0, 0, 0, 0, 0x13F800000, 0], data := [(0x3F800000, false)], hart := 0, job := 1 }] })] }
theorem test_witness_UnitsProgress_drain : ((issued.handle (24 * 0 + 5)).drains.map (·.hart)) = [0] ∧ (match issued.runDrain (24 * 0 + 5) with
    | .ended _ _ => true
    | _ => false) = true ∧ (issued.ctx 0).held = [] ∧ (issued.ctx 0).events = [] ∧ ((issued.handle 7).drains) = [] := by decide +kernel
def faultMs : State := ctOf { ctx0 with msFaults := [0x40] }
theorem test_witness_UnitsProgress_faults : (faultMs.ms 0).owner = some 0 ∧ (faultMs.ctx 0).msFaults = [0x40] ∧ (faultMs.ctx 0).unit.isSome = true ∧
    (faultMs.ctx 0).mode = .user ∧ (faultMs.ctx 0).loop.strips = [] ∧ (faultMs.ms 1).owner = none ∧
    (∀ p ∈ faultMs.ctxs, p.2.pagerWait = false ∧ p.2.poolWait = false) := by decide +kernel
def refilled : Ctx := { ctx0 with poolWait := true, mode := .supervisor, scause := 32, sepc := 0x100040 }
theorem test_witness_UnitsProgress_refill : (ctOf refilled).ctxs.filter (fun p => p.2.poolWait && p.2.unit.any (·.job = 1)) = [(0, refilled)] ∧
    (ctOf refilled).ctx 0 = refilled ∧ refilled.unit = some unit0 ∧ refilled.loop.mode ≠ .ind ∧ refilled.scause = 32 := by decide +kernel
/-- A context waits for the page at 0x30000; a level-3 table at 0x40000 has the leaf of the page at 0x20000000. -/
def paged : Ctx := { ctx0 with pagerWait := true, mode := .supervisor, scause := 13, stval := 0x30040, sepc := 0x100040 }
def tableAt : State := { ct [] with mem := tables ++ [(0x20008, 1), (0x2000A, 4), (0x40000, 0xDE)] }
theorem test_witness_UnitsProgress_pager : (ctOf paged).ctxs.filter (fun p => p.2.pagerWait && p.2.unit.any (·.job = 1)) = [(0, paged)] ∧
    (ctOf paged).resident 1 (paged.stval.toNat / 65536) = true ∧ (ctOf paged).hearth.unmapped.contains (1, paged.stval.toNat / 65536) = false ∧
    canonicalVa 0x20000000 = true ∧ Memory.wf tableAt.mem ∧ tableAt.plat.ckRegs = [] ∧ (tableAt.job 1).root = 0x10000 ∧
    tableAt.memNat (0x10000 + 8 * ((0x20000000 : Word).toNat / 2 ^ 42 % 128)) 8 = 0x20001 ∧
    tableAt.memNat (0x20000 + 8 * ((0x20000000 : Word).toNat / 2 ^ 29 % 8192)) 8 = 0x40001 ∧
    tableAt.memNat (0x40000 + 8 * ((0x20000000 : Word).toNat / 2 ^ 16 % 8192)) 8 = 0xDE := by decide +kernel
/-- A unit without clusters, handles and MS saves to 0x40000, and restores from memory of zeros. -/
def saving : State := { ctOf { withRegs ctx0 [(6, 0x40000)] with mode := .supervisor, unit := some { unit0 with ownsMs := false, grants := [] } } with clus := [] }
def rising : List Nat → Bool
  | a :: b :: l => decide (a ≤ b) && rising (b :: l)
  | _ => true
theorem rising_pairwise {α : Type} (f : α → Nat) (l : List α) (h : rising (l.map f) = true) : l.Pairwise fun a b => f a ≤ f b := by
  induction l with
  | nil => exact .nil
  | cons a l ih =>
    cases l with
    | nil => exact .cons (by simp) .nil
    | cons b l =>
      simp only [List.map_cons, rising, Bool.and_eq_true, decide_eq_true_eq] at h
      have hl := ih h.2
      refine .cons (fun c hc => ?_) hl
      rcases List.mem_cons.mp hc with rfl | hc
      · exact h.1
      · exact Nat.le_trans h.1 ((List.pairwise_cons.mp hl).1 c hc)
theorem test_witness_SaveAndRestore : (saving.rx 6#5).toNat % 64 = 0 ∧ saving.storesWait 0 = false ∧
    (ctOf { (saving.ctx 0) with queue := [{ cls := 0, pa := 0x30000, bytes := fullBytes [1] }] }).storesWait 0 = true ∧ (∀ n, n < 16 → ((saving.ctx 0).stream n).bound = false) ∧
    (okOf (resolveArea (saving.rx 6#5) .store ((saving.areaWords 0 0 0).map (·.1)) saving).1).isSome = true := by decide +kernel
theorem test_witness_SaveAndRestore_sorted : (saving.areaWords 0 0 0).mergeSort (fun a b => a.1 ≤ b.1) = saving.areaWords 0 0 0 :=
  List.mergeSort_of_pairwise ((rising_pairwise (·.1) _ (by decide +kernel)).imp (by simp))
theorem test_witness_SaveAndRestore_xrest : (match loadWords (saving.rx 6#5) 2 saving with
    | (.ok hd, s1) => ((hd.getD 1 0).extractLsb' 16 5).toNat == (saving.order 0).length && !(hd.getD 1 0).getLsbD 0 &&
      ((ct [(6, 0x40000)]).order 0).length != ((hd.getD 1 0).extractLsb' 16 5).toNat &&
      (match readRuns (saving.rx 6#5) (areaRuns (saving.order 0).length ((hd.getD 1 0).extractLsb' 32 32) false) s1 with
        | (.ok l, s2) => (match areaWins (areaOf l) 0 true 16 s2 with
          | (.ok _, s3) => (okOf (refetch ((areaOf l 0x278).getLsbD 33) (areaOf l 0x260) 0 s3).1).isSome && areaOf l 0x258 == 0
          | _ => false)
        | _ => false)
    | _ => false) = true := by decide +kernel
theorem test_witness_SaveAndRestore_free : (List.range (sup []).view.vlmax).all (fun e => !(sup []).mtRuns (sup []).view e) = true := by decide +kernel
theorem test_witness_SaveAndRestore_slots : ((sup []).order 0).Nodup ∧ ((sup [(6, 1)]).rx 6#5).toNat % 16 < ((sup [(6, 1)]).order 0).length ∧
    ((sup [(6, 2)]).order 0).length ≤ ((sup [(6, 2)]).rx 6#5).toNat % 16 ∧ ((sup [(6, 1)]).ctx 0).mode = .supervisor := by decide +kernel

/-- The tables map VA 0x30000 by the level-2 leaf at 0x20000. -/
def space1 : Space := { core := 0, job := 1, root := 0x10000, user := true }
theorem test_witness_PageWalk : canonicalVa 0x30000 = true ∧ canonicalVa 0x1000000000000 = false ∧ base.tlb = [] ∧
    entryAt base (0x10000 + 8 * ((0x30000 : Word).toNat / 2 ^ 42 % 128)) = some 0x20001 ∧ pageOf 0x20001 = 0x20000 ∧
    entryAt base (pageOf 0x20001 + 8 * ((0x30000 : Word).toNat / 2 ^ 29 % 8192)) = some 0xDF ∧
    (0xDF : Word) &&& 14#64 ≠ 0#64 ∧ (0xDF : Word) &&& 0x1FFF0020#64 = 0#64 ∧ base.installed 0x30000 = true ∧
    entryAt base (pageOf 0x20001 + 8) = some 0 := by
  unfold entryAt
  decide +kernel
theorem test_witness_PageWalk_allowed : (∀ acc, allowed 0xDF true acc) ∧ ¬ allowed 0xCF true .load ∧ ¬ malformed 0xDF ∧ ¬ malformed 0x20001 ∧ malformed 0x20011 := by
  refine ⟨fun acc => ?_, ?_, ?_, ?_, ?_⟩
  · cases acc <;> simp [allowed]
  · simp [allowed]
  · unfold malformed; decide
  · unfold malformed; decide
  · unfold malformed; decide
theorem leaf_found (read : Nat → Nat → Nat → Option Word) (h1 : read 1 0 0x10000 = some 0x20001#64) (h2 : read 2 0 0x20000 = some 0xDF#64) :
    walkSays read 0x10000 0x30000 (.ok (0xDF, 0x20000, 0x30000)) := by
  have hm1 : ¬ malformed 0x20001#64 := by unfold malformed; decide
  have hm2 : ¬ malformed 0xDF#64 := by unfold malformed; decide
  have hp : Claims.pageOf 0x20001#64 = 0x20000 := by decide
  have hq : Claims.pageOf 0xDF#64 = 0 := by decide
  simp [walkSays, h1, h2, hm1, hm2, hp, hq]
/-- A slice that holds a leaf with A clear, which memory no longer holds. -/
def outdated : State := { base with tlb := [{ core := 0, cls := 0, job := 1, level := 2, va := 0, pte := 0x9F }] }
theorem test_witness_PageWalk_leaf : walkSays (entryHeld base space1 0x30000) 0x10000 0x30000 (.ok (0xDF, 0x20000, 0x30000)) ∧
    walkSays (fun _ _ a => entryAt outdated a) 0x10000 0x30000 (.ok (0xDF, 0x20000, 0x30000)) := by
  constructor <;> refine leaf_found _ ?_ ?_ <;> first | (unfold entryHeld entryAt; decide +kernel) | (unfold entryAt; decide +kernel)
theorem test_witness_PageWalk_copies : base.tlb = [] ∧ contMember base space1 0x30000 .load = none ∧
    entryHeld outdated space1 0x30000 2 0 0x20000 = some 0x9F ∧ stale outdated true .load (.ok (0x9F, 0x20000, 0x30000)) ∧
    ¬ stale base true .load (.ok (0xDF, 0x20000, 0x30000)) := by
  refine ⟨rfl, by decide +kernel, rfl, ⟨0x9F, 0x20000, 0x30000, rfl, ?_, by decide +kernel, by decide, by decide +kernel⟩, ?_⟩
  · simp [allowed]
  · rintro ⟨e, a, pa, h, -, -, hu, -⟩
    cases h
    exact hu (by decide)
theorem test_witness_MemoryFormKept : memoryForm fetchState ∧ memoryForm State.reset ∧
    (match step fetchState with
      | .next t => (t.ctx 0).pc == 0x100004
      | _ => false) = true := by
  refine ⟨?_, ?_, ?_⟩
  · unfold memoryForm; decide +kernel
  · unfold memoryForm; decide +kernel
  · decide +kernel


/-! Witnesses of the clauses for waits, order, and what is read ahead. -/

theorem test_witness_StepRunsDecoded_trace : (moving fetchState (.ms 0) []).traceStops 0 = false ∧ (moving (ind []) (.ind 0 1) []).traceStops 0 = false ∧
    (moving threadState (.mt 0 3) []).traceStops 0 = false := ⟨rfl, rfl, rfl⟩
theorem writes_kept {c : Ctx} {v : Word} (h : c.mode = .supervisor) : ∀ p ∈ keptFields, (csrWrite c p.1 v).isSome = true := by
  simp [keptFields, csrWrite, h]
theorem test_witness_CsrInstructions_kept : ∀ p ∈ keptFields, (csrWrite ((sup []).ctx 0) p.1 0xFFFFFFFFFFFFFFFF).isSome = true := writes_kept rfl
/-- The destination is the replicated source. -/
def oTurn : T48 := { o1 with d := 7, rep := 1 }
theorem test_witness_VectorIntegers_turns : ownSource oTurn = true ∧ ownSource o1 = false ∧ vecPlain (ct []) [7, 6, 7] :=
  ⟨rfl, rfl, plain_vec _ _ trivial rfl rfl rfl rfl⟩
/-- A load reads element 3 ahead of the others. -/
def aheadLoad : State := ctOf { withRegs ctx0 [(6, 0x30000)] with ahead := [3] }
theorem test_witness_VectorLoadsAndFaults_ahead : (aheadLoad.ctx aheadLoad.hart).ahead ≠ [] ∧
    rowOf aheadLoad (.vld oLd) ((aheadLoad.actives aheadLoad.view 0).filter (aheadLoad.ctx aheadLoad.hart).ahead.contains) (rowFor aheadLoad (.vld oLd) [3]) ∧
    (readRow aheadLoad.view oLd (rowFor aheadLoad (.vld oLd) [3]) aheadLoad).isSome = true ∧ (edge.ctx 0).ahead = [] ∧
    (match readRow edge.view oLd edgePre edge with
      | some (_, s1) => (s1.readAhead? 7).isNone
      | none => false) = true :=
  ⟨by decide, row_of _ _ _ _ (by decide +kernel), by decide +kernel, by decide, by decide +kernel⟩
theorem test_witness_ThreadMemory_own : (∀ pl ∈ [Place.mem { pa := 0x30010, pois := false } none], (threadAt windowThread 0 3 b2).behindOwn windowThread pl = false ∧
      (threadAt windowThread 0 3 b2).behindOwn (windowThread.setThread 0 3 { windowThread.thread 0 3 with
        queue := [{ cls := 0, pa := 0x30010, bytes := fullBytes [1] }] }) pl = true) ∧
    ((threadState.setLink 0 3 [(1, false), (2, false)]).linkFrom 0 3).length = 2 := by decide +kernel
/-- Thread 2 has sent to thread 3. -/
def sentTo : State := { threadState with mts := (base.mtKey 0 2, { linkOut := [(9, false)] }) :: threadState.mts }
theorem test_witness_ThreadMemory_recv : (sentTo.thread 0 3).linkIn = [] ∧ readsLink (sentTo.thread 0 3) 3 = true ∧ (sentTo.thread 0 (3 - 1)).linkOut = [(9, false)] ∧
    (threadState.thread 0 3).linkIn = [] ∧ (threadState.thread 0 (3 - 1)).linkOut = [] := by decide +kernel
theorem test_witness_StreamInstructions_misaligned : (5#5 : Reg).toNat % vtyLmul ((ctOf { ctx0 with vty := 0xA }).ctx 0).vty ≠ 0 := by decide
def struckStream : Stream := { accepting with accepted := [{ pos := 0, clus := 1, lane := 9, scale := 0x38, pois := true }] }
theorem test_witness_StreamInstructions_struck : struckStream.kept = none ∧ (firstAccepted struckStream).map (·.pois) = some true ∧
    (firstAccepted accepting).map (·.pois) = some false ∧ struckStream.bound = true := by decide
theorem test_witness_RegionReads_scattered : (match cornersRow gridLevel (coordsAt inGrid oLd gridLevel) (inGrid.actives inGrid.view 0) inGrid with
      | some (_, s1) => (scatterRow gridLevel (coordsAt inGrid oLd gridLevel) (fun e f => (inGrid.elem inGrid.view (5 + f) e).1) (inGrid.actives inGrid.view 0) s1).isSome
      | none => false) = true ∧ (inGrid.ctx 0).win 3 = gridWin ∧ isAperture (inGrid.rx 6#5) = true ∧ ((ct []).ctx 0).win 0 = {} := by decide +kernel
/-- Results of a writer are on their way to handle 0, for four more steps. -/
def written (s : State) : State := { s with tick := 1, handles := [(0, { job := some 1, busyTill := 5 })] }
theorem test_witness_CrucibleResults_busy : (written (ms [])).tick < ((written (ms [])).handle 0).busyTill ∧ grantedHandle (written (ms [])) 0#5 = some 0 ∧
    grantedHandle (written (ct [])) 0#5 = some 0 ∧ vecPlain (written (ct [])) [6] ∧ ((ct []).handle 0).busyTill ≤ (ct []).tick ∧
    ((draining).handle 5).busyTill ≤ draining.tick :=
  ⟨by decide, by decide, by decide, plain_vec _ _ trivial rfl rfl rfl rfl, by decide, by decide⟩
theorem test_witness_QueuePrograms_rerun : ({ slot0 with waits := some (5, 2) } : QSlot).rerun = false ∧ slot0.prog = some [0x01100007, 0x27000000] ∧
    ({ slot0 with waits := some (5, 2), rerun := true } : QSlot).rerun = true ∧ (counting 2).counter 1 5 ≠ 3 ∧ (2 : Nat) < 65536 := by decide
theorem used_one (p : Plat) (l : List Byte) (h : p.traceBuf = [l]) : p.traceUsed = l.length := by simp [Plat.traceUsed, h]
/-- Under STALLMODE the buffer has no room for a sample. -/
def fullTrace : State := platform fun p => { p with trctl := 0x0000800002BF0003, traceBuf := [List.replicate 262140 0] }
theorem test_witness_Platform_held : fullTrace.traceHolds 1 unit0.job 64 = true ∧ (fullTrace.plat.trctl.extractLsb' 22 5).toNat ≠ 0 ∧ (fullTrace.ctx 0).unit = some unit0 := by
  refine ⟨?_, by decide, rfl⟩
  have h : fullTrace.plat.traceUsed = 262140 := (used_one _ _ rfl).trans List.length_replicate
  simp only [State.traceHolds, Plat.traceRoom, h]
  decide
theorem test_decode_fadd : decodeBlock 0x0000000A0061440D#64 =
    .ok (.b64Fadd { imm := 0#24, fmt := 0#4, pneg := true, pred := 2#3, c := 0#6, b := 6#6, a := 5#6, d := 4#6 }) := rfl
theorem test_witness_ExtentsAndMigration_overlap : ((extents 2).extent 8).state < 2 ∧ (∃ p ∈ (extents 2).plat.extents, p.1 ≠ 8 ∧ 2 ≤ p.2.state ∧ p.2.state ≤ 4) ∧
    (platform fun p => { p with extents := [(7, { base := 0x100000000000, hpa := 0, len := 0x400000, state := 2 }),
      (8, { base := 0x100000200000, hpa := 0, len := 0x200000, state := 1 })] }).plat.extents.any (fun p => p.1 != 8 && 2 ≤ p.2.state && p.2.state ≤ 4 &&
        0x100000200000 < p.2.base.toNat + p.2.len.toNat && p.2.base.toNat < 0x100000200000 + 0x200000) = true := by decide +kernel
def commanded (p : Nat × BitVec 8) : State := platform fun q => { q with cmdst := 1, mbcmd := some p, bootSlot := 1 }
theorem test_witness_MailboxAndRegisters_runs : mayRun (commanded (3, 0)) (3, 0) ∧ mayRun (platform id) (1, 0) ∧ mailboxRow 0 (.mbInstall 0) (3, 0) ∧
    (commanded (3, 0)).plat.cmdst = 1 ∧ (commanded (3, 0)).plat.mbcmd ≠ some (1, 0) ∧ (commanded (3, 0)).plat.mode ≠ 0 ∧
    (commanded (3, 0)).plat.idLost = false ∧ (0 : BitVec 8).toNat ≠ (commanded (3, 0)).plat.bootSlot ∧ (platform id).plat.cmdst ≠ 1 :=
  ⟨.inr rfl, .inl (by decide), .inr (.inr (.inl ⟨rfl, rfl⟩)), rfl, by decide, by decide, rfl, by decide, by decide⟩
theorem test_witness_ResetsAndFailures_install : (commanded (3, 0)).plat.mbcmd = some (3, 0) ∧ noInstall (platform id) := ⟨rfl, fun k => by simp [platform, base, State.reset]⟩
theorem test_witness_UnitsProgress_fenced : ({ changing 1 false with plat := { base.plat with fenceCl := 2 } } : State).clusterFenced 1 = true ∧ (changing 1 false).clusterFenced 1 = false := by decide +kernel
theorem test_witness_Engines_fresh : (cmd0 false none).sofar = 0 ∧ (cmd0 false none).buf = [] := ⟨rfl, rfl⟩
theorem test_witness_JobsAndCompletions_drains : (∀ p ∈ (jobIs 1).handles, p.2.job = some 1 → p.2.drains = []) ∧ (∀ r ∈ (jobIs 1).hearth.saved, r.job ≠ 1) := by decide +kernel

end Sys2Proof.Tests
end

section
/-! SUPPORT. What taking an exception and returning from one do to a context (R175, R178). -/

namespace Sys2Proof.Proofs
open Sys2Proof Sys2Proof.Machine Sys2Proof.Claims

/-! Taking an exception (R175). -/

/-- Ending an instruction changes the marks of its wait and the one-shot skip alone. -/
theorem endSkip_eq (c : Ctx) :
    ∃ k, c.endSkip = { c with atWait := false, inWfi := false, ahead := [], sampled := [], spsn := k } := by
  by_cases hm : c.mode = .user
  · exact ⟨c.spsn &&& 0xFFFFFFFFFFFFFFFE, by simp [Ctx.endSkip, hm]⟩
  · exact ⟨c.spsn, by simp [Ctx.endSkip, hm]⟩

/-- The report of a fault changes the CSRs of R366 and the batch of pages alone. -/
theorem reportFault_eq (c : Ctx) (vl : Nat) (info : Option FaultInfo) :
    ∃ d b st r p, reportFault c vl info =
      { c with sfdesc := d, sfbase := b, sfstride := st, sfrem := r, batch := p } := by
  cases info with
  | none => exact ⟨_, _, _, _, _, rfl⟩
  | some i => exact ⟨_, _, _, _, _, rfl⟩

/-- The cause register holds the interrupt bit above a cause of 63 bits. -/
theorem causeWord_eq (intr : Bool) (cause : Nat) (hc : cause < 2 ^ 63) :
    BitVec.ofBool intr ++ BitVec.ofNat 63 cause = BitVec.ofNat 64 ((if intr then 2 ^ 63 else 0) + cause) := by
  apply BitVec.eq_of_toNat_eq
  have happ := BitVec.toNat_append (BitVec.ofBool intr) (BitVec.ofNat 63 cause)
  rw [← Nat.shiftLeft_add_eq_or_of_lt (BitVec.isLt _), Nat.shiftLeft_eq] at happ
  refine happ.trans ?_
  cases intr with
  | false =>
    simp only [BitVec.toNat_ofBool, BitVec.toNat_ofNat, Bool.toNat_false, Bool.false_eq_true, if_false]
    omega
  | true =>
    simp only [BitVec.toNat_ofBool, BitVec.toNat_ofNat, Bool.toNat_true, if_true]
    omega

theorem trapEntry_entered (c : Ctx) (intr : Bool) (cause : Nat) (epc tv : Word) (info : Option FaultInfo)
    (hc : cause < 2 ^ 63) : entered c (trapEntry c intr cause epc tv info) intr cause epc tv := by
  obtain ⟨d, b, st, r, p, hr⟩ := reportFault_eq c c.vl info
  simp only [trapEntry, hr]
  exact ⟨rfl, causeWord_eq intr cause hc, rfl, rfl, rfl, rfl, rfl, rfl, rfl, rfl⟩

theorem trapEntry_kept (c : Ctx) (intr : Bool) (cause : Nat) (epc tv : Word) (info : Option FaultInfo) :
    keptByEntry c (trapEntry c intr cause epc tv info) := by
  obtain ⟨d, b, st, r, p, hr⟩ := reportFault_eq c c.vl info
  simp only [trapEntry, hr]
  obtain ⟨k, hk⟩ := endSkip_eq { c with sfdesc := d, sfbase := b, sfstride := st, sfrem := r, batch := p }
  simp only [hk, keptByEntry, and_self]

/-- On the CT a cause is taken as R175 says, whatever the instruction that raises it. -/
theorem trap_traps (s : State) (h cause : Nat) (tv : Word) (hw : s.who = .ct h) (hc : cause < 2 ^ 63) :
    traps s (s.trap cause tv) h cause tv := by
  have ht : s.trap cause tv = s.modCtx h fun c => trapEntry c false cause c.pc tv none := by
    simp only [State.trap, State.trapWith, hw]
  rw [ht]
  refine ⟨?_, ?_, ?_⟩
  · rw [State.ctx_modCtx]; rfl
  · rw [State.ctx_modCtx]; exact trapEntry_entered _ _ _ _ _ _ hc
  · rw [State.ctx_modCtx]; exact trapEntry_kept _ _ _ _ _ _

/-! Instructions of the CT. -/

theorem hart_of_ct {s : State} {h : Nat} (hw : s.who = .ct h) : s.hart = h := by simp only [State.hart, hw]

theorem ctStep_of_ct {s : State} {h : Nat} (hw : s.who = .ct h) (bits : Word) (k : State → State) :
    ctStep s bits k = .next (k s) := ctStep_next s bits k (by simp only [hw])

/-- A retired instruction keeps the mode and the cause register of its context. -/
theorem retire_mode_scause {s : State} {h : Nat} (hw : s.who = .ct h) (n : Nat) :
    ((s.retire n).ctx h).mode = (s.ctx h).mode ∧ ((s.retire n).ctx h).scause = (s.ctx h).scause := by
  obtain ⟨k, hk⟩ := endSkip_eq (s.ctx h)
  simp only [State.retire, hw, State.ctx_modCtx, hk, and_self]

theorem exec_ecall {s : State} {h : Nat} (hw : s.who = .ct h) :
    exec .ecall s = .next (s.trap (if (s.ctx h).mode = .user then 8 else 9) 0) := by
  rw [show exec .ecall s = execEcall s from rfl, execEcall, ctStep_of_ct hw, hart_of_ct hw]

theorem exec_ebreak {s : State} {h : Nat} (hw : s.who = .ct h) :
    exec .ebreak s = .next (if s.debugHolds h then (s.retire 4).modCtx h haltCtx else s.trap 3 0) := by
  rw [show exec .ebreak s = execEbreak s from rfl, execEbreak, ctStep_of_ct hw, hart_of_ct hw]

theorem exec_sret {s : State} {h : Nat} (hw : s.who = .ct h) (hm : (s.ctx h).mode = .supervisor) :
    exec .sret s = .next (s.sret h) := by
  rw [show exec .sret s = execSret s from rfl, execSret, supervisorOnly, ctStep_of_ct hw, hart_of_ct hw, if_pos hm]

/-! Returning from an exception (R178). -/

/-- The status and the configuration that the return of R178 leaves in d, from what the context c had saved; the scalar
registers stay. -/
def statusReturned (c d : Ctx) : Prop :=
  d.mode = c.spp ∧ d.sieBit = c.spieBit ∧ d.spp = .user ∧ d.ldst = c.sldst ∧
  d.vty = (if vtyValid c.svty then c.svty else 0x8000000000000000) ∧ d.x = c.x

/-- The place that it leaves: `sepc`, with the elements and the iterations of the loop still to do. -/
def placeReturned (c d : Ctx) : Prop :=
  d.pc = c.sepc ∧ d.vl = (if vtyValid c.svty then c.vl else 0) ∧
  d.loop.mode = c.loop.mode ∧ d.loop.count = c.loop.count ∧ d.loop.base = c.loop.base ∧
  d.loop.rem = c.loop.rem ∧ d.loop.body = c.loop.body

/-- A halted `.ind` loop that goes on changes its restart indices, its halt and its strips alone. -/
theorem resumeInd_eq (c : Ctx) :
    ∃ v a l, resumeInd c = { c with vrst := v, loop := { c.loop with halt := a, strips := l } } := by
  unfold resumeInd
  split
  · exact ⟨_, _, _, rfl⟩
  · exact ⟨c.vrst, c.loop.halt, c.loop.strips, rfl⟩

theorem statusReturned_resumeInd {c d : Ctx} (hd : statusReturned c d) : statusReturned c (resumeInd d) := by
  obtain ⟨v, a, l, hr⟩ := resumeInd_eq d
  rw [hr]; exact hd

theorem placeReturned_resumeInd {c d : Ctx} (hd : placeReturned c d) : placeReturned c (resumeInd d) := by
  obtain ⟨v, a, l, hr⟩ := resumeInd_eq d
  rw [hr]; exact hd

/-- The end of a loop changes `vl`, the pc, the streams and the loop context, so the status stays. -/
theorem statusReturned_endInd {c d : Ctx} (hd : statusReturned c d) : statusReturned c (endInd d) := by
  unfold endInd
  split
  · exact hd
  · exact hd

/-- A loop that is no `.ind` loop, or of which iterations remain, does not end. -/
theorem endInd_of_remaining {c : Ctx} (hl : c.loop.mode ≠ .ind ∨ c.loop.rem ≠ 0) : endInd c = c := by
  unfold endInd
  exact if_neg fun ⟨hmode, _, hrem, _⟩ => hl.elim (· hmode) (· hrem)

theorem placeReturned_endInd {c d : Ctx} (hd : placeReturned c d) (hl : c.loop.mode ≠ .ind ∨ c.loop.rem ≠ 0) :
    placeReturned c (endInd d) := by
  have ⟨_, _, hmode, _, _, hrem, _⟩ := hd
  rw [endInd_of_remaining (by rwa [hmode, hrem])]
  exact hd

/-- Restarting the MS changes the sequencers alone. -/
theorem restartMs_eq (s : State) (h : Nat) : ∃ m, s.restartMs h = { s with mss := m } := by
  unfold State.restartMs
  dsimp only
  split
  · exact ⟨_, rfl⟩
  · exact ⟨s.mss, rfl⟩

theorem restartMs_ctx (s : State) (h j : Nat) : (s.restartMs h).ctx j = s.ctx j := by
  obtain ⟨m, hm⟩ := restartMs_eq s h
  rw [hm]; rfl

theorem restartMs_memory (s : State) (h : Nat) : (s.restartMs h).mem = s.mem ∧ (s.restartMs h).mbit = s.mbit ∧
    (s.restartMs h).mpois = s.mpois ∧ (s.restartMs h).vreg = s.vreg := by
  obtain ⟨m, hm⟩ := restartMs_eq s h
  rw [hm]; exact ⟨rfl, rfl, rfl, rfl⟩

/-- The return restores both, and then a halted `.ind` loop resumes, or ends where nothing of it remains. -/
theorem sret_ctx (s : State) (h : Nat) : ∃ d, statusReturned (s.ctx h) d ∧ placeReturned (s.ctx h) d ∧
    (s.sret h).ctx h = endInd (resumeInd d) := by
  refine ⟨_, ?_, ?_, (restartMs_ctx _ h h).trans (State.ctx_modCtx s h _)⟩
  · exact ⟨rfl, rfl, rfl, rfl, rfl, rfl⟩
  · exact ⟨rfl, rfl, rfl, rfl, rfl, rfl, rfl⟩

theorem sret_statusReturned (s : State) (h : Nat) : statusReturned (s.ctx h) ((s.sret h).ctx h) := by
  obtain ⟨d, hstatus, -, hctx⟩ := sret_ctx s h
  rw [hctx]
  exact statusReturned_endInd (statusReturned_resumeInd hstatus)

theorem sret_placeReturned (s : State) (h : Nat) (hl : (s.ctx h).loop.mode ≠ .ind ∨ (s.ctx h).loop.rem ≠ 0) :
    placeReturned (s.ctx h) ((s.sret h).ctx h) := by
  obtain ⟨d, -, hplace, hctx⟩ := sret_ctx s h
  rw [hctx]
  exact placeReturned_endInd (placeReturned_resumeInd hplace) hl

/-- The return leaves memory, the masks with `mf` and the vector registers. -/
theorem sret_memory (s : State) (h : Nat) : (s.sret h).mem = s.mem ∧ (s.sret h).mbit = s.mbit ∧
    (s.sret h).mpois = s.mpois ∧ (s.sret h).vreg = s.vreg := restartMs_memory _ h

end Sys2Proof.Proofs
end

section
/-! SETTLED. Calls, breakpoints and the return from an exception. -/

namespace Sys2Proof.Proofs
open Sys2Proof Sys2Proof.Machine Sys2Proof.Claims

/-- Settles O6: outside a debug session both instructions are a trap of the CT; inside one `ebreak` retires. -/
theorem callsAndBreaks : Obligations.CallsAndBreaks := by
  intro s h hw
  refine ⟨⟨_, exec_ecall hw, trap_traps s h _ 0 hw (by split <;> decide)⟩, fun hd => ⟨s.trap 3 0, ?_, ?_⟩,
    fun hd => ⟨(s.retire 4).modCtx h haltCtx, ?_, ?_⟩⟩
  · rw [exec_ebreak hw, hd]; rfl
  · exact trap_traps s h 3 0 hw (by decide)
  · rw [exec_ebreak hw, hd]; rfl
  · obtain ⟨hmode, hcause⟩ := retire_mode_scause hw 4
    rw [State.ctx_modCtx]
    exact ⟨hcause, hmode⟩

/-- Settles O7: resuming and ending a loop leave what the return restores, and a loop with iterations left does not end. -/
theorem sretReturns : Obligations.SretReturns := by
  intro s h hw hm
  obtain ⟨hmode, hsie, hspp, hldst, hvty, hx⟩ := sret_statusReturned s h
  obtain ⟨hmem, hmbit, hmpois, hvreg⟩ := sret_memory s h
  refine ⟨s.sret h, exec_sret hw hm, hmode, hsie, hspp, hldst, fun hv => ?_, fun hv => ?_,
    hx, hmem, hmbit, hmpois, hvreg, sret_placeReturned s h⟩
  · rw [hvty, if_pos hv]
  · rw [hvty, if_neg (ne_true_of_eq_false hv)]; decide

end Sys2Proof.Proofs
end
